-- ==== Sys2Proof/Word.lean ====
section
/-! DEFINITION. The words of the 7240: the widths the manual gives (Conventions of 00_scope.md; R19, R23, R35, R161). -/

namespace Sys2Proof

/-- A byte of a frame, a page or the stacked DRAM. -/
abbrev Byte := BitVec 8

/-- A station number, 0 to 15 (R168). -/
abbrev Station := BitVec 4

/-- A studio time or a local time: 32 bits, compared by signed difference (R19, R23). -/
abbrev Time := BitVec 32

/-- A span of local time in microseconds. -/
abbrev Micros := BitVec 32

/-- A distance in zone frames, modulo 2^48 (R35). -/
abbrev Distance := BitVec 48

/-- A counter: 32 bits, saturating (R174). -/
abbrev Count := BitVec 32

/-- A stream id: bridge station in bits 15-12, serial in bits 11-0 (R164). -/
abbrev StreamId := BitVec 16

/-- A zone number (R2). -/
abbrev Zone := BitVec 24

/-- A set of the three pages of a block, bit j for page j (R165). -/
abbrev PageSet := BitVec 3

/-- The set of open lanes of one bridge, bit n for lane n (R164). -/
abbrev LaneSet := BitVec 64

/-- A flash channel (R115). -/
abbrev ChannelNo := Fin 8

/-- A cache slot (R96). -/
abbrev SlotNo := Fin 262144

/-- The difference t - u as a signed 32-bit number ("Time comparisons", 00_scope.md). -/
def signedDiff (t u : Time) : Int := (t - u).toInt

end Sys2Proof
end

