-- ==== Sys2Proof/Config.lean ====
section
/-! DEFINITION. The constants the manual fixes for every 7240. No constant is left to an implementation, and the spec
leaves no result value open, so no opaque value stands here. -/

namespace Sys2Proof.Config

/-- Contexts of the context table (R72). -/
def contexts : Nat := 1024

/-- Slots of the block cache (R96). -/
def slots : Nat := 262144

/-- Bytes of a flash page (R13). -/
def pageBytes : Nat := 4096

/-- Bytes of a block (R1). -/
def blockBytes : Nat := 12288

/-- The page timeout, also of a probe attempt and of an erase or page program (R17, R118, R127). -/
def pageTimeout : Nat := 2000

/-- From the handling of a CUE to the expiry of its offer (R53). -/
def offerExpiry : Nat := 2000

/-- The time the configuration memory has to deliver the image (R169). -/
def configTimeout : Nat := 10000

/-- The width at which a CLEAR counts (R158). -/
def clearWidth : Nat := 100

/-- The span of the bus-stuck watch (R159). -/
def busStuck : Nat := 10000

/-- The shortest and longest mark interval taken (R21). -/
def minInterval : Nat := 320
def maxInterval : Nat := 3000

/-- Synthetic marks of one flywheel run before LOST (R26). -/
def flywheelRun : Nat := 256

/-- The greatest zone length (R5). -/
def maxLength : Nat := 67108864

/-- The greatest record count of a good header (R3). -/
def maxRecords : Nat := 1048576

/-- The directory marker value (R167). -/
def marker : Nat := 0x72400D1A

/-- The sum a good image's words have (R169). -/
def imageSum : Nat := 0xA55A

/-- Requests the store queue holds, and STORED notices that stop STORE_TAKEN (R16, R17). -/
def storeRoom : Nat := 4

/-- Fetches of a channel's partial set that stop a break-in (R120). -/
def partialRoom : Nat := 4

/-- DESIGN CHOICE (log 6). A bound on the drops, tests and creations of one context at one event.
A zone record accepted by R8 has loops of at least 256 frames, so a cascade over the 2^31 studio frames a
signed difference can span ends within 2^28 of these steps. -/
def cascadeBound : Nat := 4294967296

/-- One more than the pages a directory load can read: the header page and 8,192 record pages (R3, R4). -/
def directoryPages : Nat := 8194

end Sys2Proof.Config
end

