-- ==== Sys2Proof/Machine/Bytes.lean ====
section
/-! DEFINITION. Byte order and the frame check (R161, R162): fields of several bytes are most significant byte first. -/

namespace Sys2Proof.Bytes

/-- The n low bytes of v, most significant first (R161). -/
def be : Nat → Nat → List Byte
  | 0, _ => []
  | n + 1, v => BitVec.ofNat 8 (v / 256 ^ n) :: be n v

/-- The unsigned number the bytes form, most significant byte first (R161). -/
def value (l : List Byte) : Nat := l.foldl (fun acc b => acc * 256 + b.toNat) 0

/-- The n bytes of l from offset off. -/
def slice (l : List Byte) (off n : Nat) : List Byte := (l.drop off).take n

/-- The field of n bytes at offset off. -/
def field (l : List Byte) (off n : Nat) : Nat := value (slice l off n)

/-- One byte of l as a number, 0 past its end (a caller has tested the length). -/
def byteAt (l : List Byte) (off : Nat) : Nat := field l off 1

/-- The destination station of a frame's header, bits 7-4 of byte 2 (R161). -/
def destination (frame : List Byte) : Station := BitVec.ofNat 4 (byteAt frame 2 / 16)

/-- The broadcast flag of a frame's header, bit 3 of byte 2 (R161). -/
def broadcastFlag (frame : List Byte) : Bool := byteAt frame 2 / 8 % 2 == 1

/-- A field that may be without a value: all ones when it has none (R173). -/
def orNone (n : Nat) : Option Nat → List Byte
  | some v => be n v
  | none => List.replicate n 0xFF

/-- One bit of the check register's step: polynomial 0x04C11DB7, most significant bit first (R162). -/
def crcBit (r : BitVec 32) : BitVec 32 :=
  if r.msb then (r <<< 1) ^^^ 0x04C11DB7#32 else r <<< 1

/-- One byte taken most significant bit first, without reflection (R162). -/
def crcByte (r : BitVec 32) (b : Byte) : BitVec 32 :=
  crcBit (crcBit (crcBit (crcBit (crcBit (crcBit (crcBit (crcBit (r ^^^ (b.zeroExtend 32 <<< 24)))))))))

/-- The 32-bit check over header and payload: register at all ones, inverted at the end (R162). -/
def crc (l : List Byte) : BitVec 32 := ~~~ (l.foldl crcByte 0xFFFFFFFF#32)

/-- The sum of the sixteen-bit words of an image, each most significant byte first (R169). -/
def wordSum : List Byte → Nat
  | a :: b :: rest => a.toNat * 256 + b.toNat + wordSum rest
  | _ => 0

end Sys2Proof.Bytes
end

