-- ==== Sys2Proof/Syntax.lean ====
section
/-! DEFINITION. The commands of the 7240: one constructor per row of spec/opcode_table.json.

Every constructor but POWER_ON carries `dt`, the microseconds of local time that pass before the event
(DESIGN CHOICE, log 1). A frame row carries the fields the 7240 reads of the frame (R161, R164, R165) and, last, the
whole frame from its winning word to its check, as the receive buffer takes it (R153). -/

namespace Sys2Proof

/-- The payload of a CUE as it stands in the frame, before any clamp or mask (R164). -/
structure CueFields where
  id : StreamId
  zone : Zone
  lane : Byte
  f0 : BitVec 32
  origin : Time
  rate : BitVec 32
  depth : Byte
  policy : Byte
  deriving DecidableEq, Repr

/-- The payload of a RELEASE as it stands in the frame (R164). -/
structure ReleaseFields where
  id : StreamId
  mode : Byte
  time : Time
  deriving DecidableEq, Repr

/-- The answers of a flash channel to a page read (R118); the fourth outcome, the timeout, is a row of its own. -/
inductive PageOutcome
  | good (data : List Byte)
  | corrected (data : List Byte)
  | uncorrectable
  deriving DecidableEq, Repr

/-- The two forms of the end delimiter (R176). -/
inductive Delimiter
  | addressed
  | broadcast
  deriving DecidableEq, Repr

/-- The two readings of an acknowledge slot (R156). -/
inductive Reading
  | ack
  | nack
  deriving DecidableEq, Repr

/-- What ends the assumed BUSY state of power-on (R160). -/
inductive SyncCause
  | delimiter (form : Delimiter)
  | recessive
  deriving DecidableEq, Repr

/-- The kinds of frame that no station should address to the 7240 (R155). -/
inductive UnexpectedKind
  | offer
  | block
  | notice
  | state
  deriving DecidableEq, Repr

/-- A well-formed frame of another station as its row takes it: the local time that passes before, and the bytes the
receive buffer holds, from the winning word to the check (R153). -/
structure Heard where
  dt : Micros
  frame : List Byte
  deriving DecidableEq, Repr

/-- The end of an acknowledge slot as ACK_SLOT_END takes it: the local time that passes before, and the bytes of the
slot's frame when it has no owner here. -/
structure SlotEnd where
  dt : Micros
  frame : Option (List Byte)
  deriving DecidableEq, Repr

/-- The commands, in the order of spec/opcode_table.json. -/
inductive Instr
  | powerOn (straps : Station)
  | configImageRead (dt : Micros) (image : List Byte)
  | configReadTimeout (dt : Micros)
  | geometryReadAnswer (dt : Micros) (ch : ChannelNo) (pages : Nat)
  | geometryReadTimeout (dt : Micros) (ch : ChannelNo)
  | directoryLoad (dt : Micros)
  | directoryPageRead (dt : Micros) (ch : ChannelNo) (out : PageOutcome)
  | pageTimeout (dt : Micros) (ch : ChannelNo)
  | fetchPageRead (dt : Micros) (ch : ChannelNo) (out : PageOutcome)
  | storeTaken (dt : Micros)
  | programBegin (dt : Micros)
  | programOperationComplete (dt : Micros) (success : Bool)
  | programTimeout (dt : Micros)
  | markEdge (dt : Micros)
  | watchExpiry (dt : Micros)
  | run (heard : Heard) (src : Station) (value : Time)
  | timing (heard : Heard) (src : Station) (value : Time)
  | pause (heard : Heard) (src : Station)
  | stopAll (heard : Heard) (src : Station)
  | cue (heard : Heard) (src : Station) (fields : CueFields)
  | release (heard : Heard) (src : Station) (fields : ReleaseFields)
  | ready (heard : Heard) (src : Station) (openSet : LaneSet)
  | offerObserved (heard : Heard) (id : StreamId) (reading : Reading)
  | blockObserved (heard : Heard) (dest : Station) (lane : Byte) (reading : Reading)
  | queryStatus (heard : Heard) (src : Station)
  | serviceEnter (heard : Heard) (src : Station)
  | serviceExit (heard : Heard) (src : Station)
  | store (heard : Heard) (src : Station) (address : BitVec 32) (data : List Byte)
  | unexpectedKind (heard : Heard) (kind : UnexpectedKind)
  | malformed (dt : Micros) (form : Delimiter)
  | checkFailure (dt : Micros) (form : Delimiter)
  | brokenFrame (dt : Micros) (dominant : Bool)
  | ackSlotEnd (ended : SlotEnd)
  | contestStart (dt : Micros)
  | contestWon (dt : Micros)
  | contestLost (dt : Micros)
  | emptyContest (dt : Micros)
  | ownOfferAck (dt : Micros)
  | ownOfferNack (dt : Micros)
  | ownBlockAck (dt : Micros)
  | ownBlockNack (dt : Micros)
  | endSent (dt : Micros) (reading : Reading)
  | storedSent (dt : Micros) (reading : Reading)
  | stateSent (dt : Micros) (reading : Reading)
  | gapEnd (dt : Micros)
  | busSync (dt : Micros) (cause : SyncCause)
  | busStuck (dt : Micros)
  | offerExpiry (dt : Micros) (ctx : Nat)
  | clearAsserted (dt : Micros)
  | clearCounts (dt : Micros)
  | clearRelease (dt : Micros)
  | shortClear (dt : Micros)
  | lineGoesRecessive (dt : Micros)
  deriving DecidableEq, Repr

/-- The local time that passes before the command; POWER_ON starts local time at 0 (R19). -/
def Instr.elapsed : Instr → Micros
  | .powerOn _ => 0
  | .configImageRead dt _ => dt
  | .configReadTimeout dt => dt
  | .geometryReadAnswer dt _ _ => dt
  | .geometryReadTimeout dt _ => dt
  | .directoryLoad dt => dt
  | .directoryPageRead dt _ _ => dt
  | .pageTimeout dt _ => dt
  | .fetchPageRead dt _ _ => dt
  | .storeTaken dt => dt
  | .programBegin dt => dt
  | .programOperationComplete dt _ => dt
  | .programTimeout dt => dt
  | .markEdge dt => dt
  | .watchExpiry dt => dt
  | .run heard _ _ => heard.dt
  | .timing heard _ _ => heard.dt
  | .pause heard _ => heard.dt
  | .stopAll heard _ => heard.dt
  | .cue heard _ _ => heard.dt
  | .release heard _ _ => heard.dt
  | .ready heard _ _ => heard.dt
  | .offerObserved heard _ _ => heard.dt
  | .blockObserved heard _ _ _ => heard.dt
  | .queryStatus heard _ => heard.dt
  | .serviceEnter heard _ => heard.dt
  | .serviceExit heard _ => heard.dt
  | .store heard _ _ _ => heard.dt
  | .unexpectedKind heard _ => heard.dt
  | .malformed dt _ => dt
  | .checkFailure dt _ => dt
  | .brokenFrame dt _ => dt
  | .ackSlotEnd ended => ended.dt
  | .contestStart dt => dt
  | .contestWon dt => dt
  | .contestLost dt => dt
  | .emptyContest dt => dt
  | .ownOfferAck dt => dt
  | .ownOfferNack dt => dt
  | .ownBlockAck dt => dt
  | .ownBlockNack dt => dt
  | .endSent dt _ => dt
  | .storedSent dt _ => dt
  | .stateSent dt _ => dt
  | .gapEnd dt => dt
  | .busSync dt _ => dt
  | .busStuck dt => dt
  | .offerExpiry dt _ => dt
  | .clearAsserted dt => dt
  | .clearCounts dt => dt
  | .clearRelease dt => dt
  | .shortClear dt => dt
  | .lineGoesRecessive dt => dt

end Sys2Proof
end

