-- ==== Sys2Proof/Decode.lean ====
section
/-! DEFINITION. The frames of the Stave bus, byte for byte (R161 to R167), which command a received frame amounts to
(R153 to R157), and the word decoder the host asks for. The decoder is total on any bytes. -/

namespace Sys2Proof

/-- The payload of a BLOCK (R165). -/
structure BlockFields where
  id : StreamId
  lane : Byte
  flags : Byte
  k : BitVec 16
  pass : BitVec 16
  data : List Byte
  deriving DecidableEq, Repr

/-- The kinds and subkinds of R163 with their payload fields (R164, R165). -/
inductive FrameBody
  | run (value : Time)
  | pause
  | timing (value : Time)
  | stopAll
  | cue (fields : CueFields)
  | release (fields : ReleaseFields)
  | ready (openSet : LaneSet)
  | offer (id : StreamId) (zone : Zone)
  | block (fields : BlockFields)
  | endNotice (id : StreamId) (reason : Byte) (delivered dropped patched : Count)
  | storedNotice (address : BitVec 32) (outcome : Byte)
  | queryStatus
  | serviceEnter
  | serviceExit
  | state (record : List Byte)
  | store (address : BitVec 32) (data : List Byte)
  deriving DecidableEq, Repr

/-- One frame: the header fields a station chooses and the body. `dest` is 0 in a broadcast frame, whose destination
bits carry no meaning (R161). -/
structure WireFrame where
  urgency : BitVec 8
  source : Station
  dest : Station
  body : FrameBody
  deriving DecidableEq, Repr

/-- The class of a kind (R149, R163). -/
def FrameBody.classCode : FrameBody → Nat
  | .run _ => 0
  | .pause => 0
  | .timing _ => 0
  | .stopAll => 0
  | .cue _ => 1
  | .release _ => 2
  | .ready _ => 3
  | .offer _ _ => 4
  | .block _ => 5
  | .endNotice _ _ _ _ _ => 6
  | .storedNotice _ _ => 6
  | .queryStatus => 7
  | .serviceEnter => 7
  | .serviceExit => 7
  | .state _ => 7
  | .store _ _ => 8

/-- The subkind code (R163). -/
def FrameBody.subkind : FrameBody → Nat
  | .run _ => 1
  | .pause => 2
  | .timing _ => 3
  | .stopAll => 4
  | .cue _ => 0
  | .release _ => 0
  | .ready _ => 0
  | .offer _ _ => 0
  | .block _ => 0
  | .endNotice _ _ _ _ _ => 1
  | .storedNotice _ _ => 2
  | .queryStatus => 1
  | .serviceEnter => 2
  | .serviceExit => 3
  | .state _ => 4
  | .store _ _ => 0

/-- The addressing of a class (R149, R163): classes 0 to 3 are broadcast, 4 to 8 addressed. -/
def addressing (cls : Nat) : Delimiter := if cls ≤ 3 then .broadcast else .addressed

/-- The payload length a class and subkind must have, none when R163 has no row for them. -/
def payloadLength (cls sub : Nat) : Option Nat :=
  match cls, sub with
  | 0, 1 => some 4
  | 0, 2 => some 0
  | 0, 3 => some 4
  | 0, 4 => some 0
  | 1, 0 => some 20
  | 2, 0 => some 8
  | 3, 0 => some 8
  | 4, 0 => some 5
  | 5, 0 => some 12296
  | 6, 1 => some 16
  | 6, 2 => some 8
  | 7, 1 => some 0
  | 7, 2 => some 0
  | 7, 3 => some 0
  | 7, 4 => some 1024
  | 8, 0 => some 12292
  | _, _ => none

/-- The fields of a payload of the length its kind must have (R164, R165). -/
def decodeBody (cls sub : Nat) (p : List Byte) : Option FrameBody :=
  match cls, sub with
  | 0, 1 => some (.run (BitVec.ofNat 32 (Bytes.field p 0 4)))
  | 0, 2 => some .pause
  | 0, 3 => some (.timing (BitVec.ofNat 32 (Bytes.field p 0 4)))
  | 0, 4 => some .stopAll
  | 1, 0 => some (.cue {
      id := BitVec.ofNat 16 (Bytes.field p 0 2), zone := BitVec.ofNat 24 (Bytes.field p 2 3)
      lane := BitVec.ofNat 8 (Bytes.field p 5 1), f0 := BitVec.ofNat 32 (Bytes.field p 6 4)
      origin := BitVec.ofNat 32 (Bytes.field p 10 4), rate := BitVec.ofNat 32 (Bytes.field p 14 4)
      depth := BitVec.ofNat 8 (Bytes.field p 18 1), policy := BitVec.ofNat 8 (Bytes.field p 19 1) })
  | 2, 0 => some (.release {
      id := BitVec.ofNat 16 (Bytes.field p 0 2), mode := BitVec.ofNat 8 (Bytes.field p 2 1)
      time := BitVec.ofNat 32 (Bytes.field p 4 4) })
  | 3, 0 => some (.ready (BitVec.ofNat 64 (Bytes.field p 0 8)))
  | 4, 0 => some (.offer (BitVec.ofNat 16 (Bytes.field p 0 2)) (BitVec.ofNat 24 (Bytes.field p 2 3)))
  | 5, 0 => some (.block {
      id := BitVec.ofNat 16 (Bytes.field p 0 2), lane := BitVec.ofNat 8 (Bytes.field p 2 1)
      flags := BitVec.ofNat 8 (Bytes.field p 3 1), k := BitVec.ofNat 16 (Bytes.field p 4 2)
      pass := BitVec.ofNat 16 (Bytes.field p 6 2), data := p.drop 8 })
  | 6, 1 => some (.endNotice (BitVec.ofNat 16 (Bytes.field p 0 2)) (BitVec.ofNat 8 (Bytes.field p 2 1))
      (BitVec.ofNat 32 (Bytes.field p 4 4)) (BitVec.ofNat 32 (Bytes.field p 8 4))
      (BitVec.ofNat 32 (Bytes.field p 12 4)))
  | 6, 2 => some (.storedNotice (BitVec.ofNat 32 (Bytes.field p 0 4)) (BitVec.ofNat 8 (Bytes.field p 4 1)))
  | 7, 1 => some .queryStatus
  | 7, 2 => some .serviceEnter
  | 7, 3 => some .serviceExit
  | 7, 4 => some (.state p)
  | 8, 0 => some (.store (BitVec.ofNat 32 (Bytes.field p 0 4)) (p.drop 4))
  | _, _ => none

/-- What the tests of R153 say of a received frame. -/
inductive Verdict
  | failedCheck
  | malformed
  | wellFormed (frame : WireFrame)
  deriving DecidableEq, Repr

/-- The tests of R153, R162 and R163 on the bytes from the start of the arbitration word to the end delimiter. A frame
of fewer than ten bytes has no check; a frame not of whole bytes has no byte list and fails its check likewise. -/
def judgeFrame (bytes : List Byte) (form : Delimiter) : Verdict :=
  let covered := bytes.take (bytes.length - 4)
  let payload := covered.drop 6
  if bytes.length < 10 then .failedCheck
  else if Bytes.field bytes (bytes.length - 4) 4 ≠ (Bytes.crc covered).toNat then .failedCheck
  else
    let cls := Bytes.byteAt bytes 0 / 16
    let sub := Bytes.byteAt bytes 3
    let flag := if Bytes.broadcastFlag bytes then Delimiter.broadcast else .addressed
    if cls > 8 then .malformed
    else if flag ≠ addressing cls ∨ form ≠ addressing cls then .malformed
    else if payload.length ≠ Bytes.field bytes 4 2 then .malformed
    else if payloadLength cls sub ≠ some payload.length then .malformed
    else
      match decodeBody cls sub payload with
      | none => .malformed
      | some body => .wellFormed {
          urgency := BitVec.ofNat 8 (Bytes.byteAt bytes 0 % 16 * 16 + Bytes.byteAt bytes 1 / 16)
          source := BitVec.ofNat 4 (Bytes.byteAt bytes 1 % 16)
          dest := if flag = .broadcast then 0 else Bytes.destination bytes
          body := body }

/-- The command a frame of another station amounts to at the station numbered `own`: the check and form tests of R153,
the table of R154 and the addressee test of R155. `reading` is the acknowledge slot's reading, for a frame whose row
is taken at the end of its slot. -/
def frameCommand (own : Station) (dt : Micros) (bytes : List Byte) (form : Delimiter) (reading : Reading) : Instr :=
  match judgeFrame bytes form with
  | .failedCheck => .checkFailure dt form
  | .malformed => .malformed dt form
  | .wellFormed f =>
    let heard : Heard := { dt := dt, frame := bytes }
    match f.body with
    | .run v => .run heard f.source v
    | .pause => .pause heard f.source
    | .timing v => .timing heard f.source v
    | .stopAll => .stopAll heard f.source
    | .cue c => .cue heard f.source c
    | .release r => .release heard f.source r
    | .ready set => .ready heard f.source set
    | .offer id _ => if f.dest = own then .unexpectedKind heard .offer else .offerObserved heard id reading
    | .block b => if f.dest = own then .unexpectedKind heard .block else .blockObserved heard f.dest b.lane reading
    | .endNotice _ _ _ _ _ => if f.dest = own then .unexpectedKind heard .notice else .ackSlotEnd ⟨dt, some bytes⟩
    | .storedNotice _ _ => if f.dest = own then .unexpectedKind heard .notice else .ackSlotEnd ⟨dt, some bytes⟩
    | .queryStatus => if f.dest = own then .queryStatus heard f.source else .ackSlotEnd ⟨dt, some bytes⟩
    | .serviceEnter => if f.dest = own then .serviceEnter heard f.source else .ackSlotEnd ⟨dt, some bytes⟩
    | .serviceExit => if f.dest = own then .serviceExit heard f.source else .ackSlotEnd ⟨dt, some bytes⟩
    | .state _ => if f.dest = own then .unexpectedKind heard .state else .ackSlotEnd ⟨dt, some bytes⟩
    | .store a d => if f.dest = own then .store heard f.source a d else .ackSlotEnd ⟨dt, some bytes⟩

/-- The payload bytes of a body (R164, R165); unread bytes are sent as 0. -/
def FrameBody.payload : FrameBody → List Byte
  | .run v => Bytes.be 4 v.toNat
  | .pause => []
  | .timing v => Bytes.be 4 v.toNat
  | .stopAll => []
  | .cue c => Bytes.be 2 c.id.toNat ++ Bytes.be 3 c.zone.toNat ++ Bytes.be 1 c.lane.toNat ++ Bytes.be 4 c.f0.toNat
      ++ Bytes.be 4 c.origin.toNat ++ Bytes.be 4 c.rate.toNat ++ Bytes.be 1 c.depth.toNat ++ Bytes.be 1 c.policy.toNat
  | .release r => Bytes.be 2 r.id.toNat ++ Bytes.be 1 r.mode.toNat ++ Bytes.be 1 0 ++ Bytes.be 4 r.time.toNat
  | .ready set => Bytes.be 8 set.toNat
  | .offer id zone => Bytes.be 2 id.toNat ++ Bytes.be 3 zone.toNat
  | .block b => Bytes.be 2 b.id.toNat ++ Bytes.be 1 b.lane.toNat ++ Bytes.be 1 b.flags.toNat ++ Bytes.be 2 b.k.toNat
      ++ Bytes.be 2 b.pass.toNat ++ b.data
  | .endNotice id reason delivered dropped patched => Bytes.be 2 id.toNat ++ Bytes.be 1 reason.toNat ++ Bytes.be 1 0
      ++ Bytes.be 4 delivered.toNat ++ Bytes.be 4 dropped.toNat ++ Bytes.be 4 patched.toNat
  | .storedNotice address outcome => Bytes.be 4 address.toNat ++ Bytes.be 1 outcome.toNat ++ Bytes.be 3 0
  | .queryStatus => []
  | .serviceEnter => []
  | .serviceExit => []
  | .state record => record
  | .store address data => Bytes.be 4 address.toNat ++ data

/-- The arbitration word: class × 4,096 + urgency × 16 + source (R149, R161). -/
def WireFrame.word (f : WireFrame) : BitVec 16 :=
  BitVec.ofNat 16 (f.body.classCode * 4096 + f.urgency.toNat * 16 + f.source.toNat)

/-- The six-byte header (R161). -/
def WireFrame.header (f : WireFrame) : List Byte :=
  let flag := if addressing f.body.classCode = .broadcast then 8 else 0
  Bytes.be 2 f.word.toNat ++ Bytes.be 1 (f.dest.toNat * 16 + flag) ++ Bytes.be 1 f.body.subkind
    ++ Bytes.be 2 f.body.payload.length

/-- The frame as it goes on the line: header, payload and check (R161, R162). The check covers the header and the payload
whole, bytes 0 to 5 + L, where R162 writes 0 to 5 + L - 1 (DEDUCED, log 42). -/
def encodeFrame (f : WireFrame) : List Byte :=
  let covered := f.header ++ f.body.payload
  covered ++ Bytes.be 4 (Bytes.crc covered).toNat

/-- The end delimiter that closes a frame (R149, R163). -/
def WireFrame.delimiter (f : WireFrame) : Delimiter := addressing f.body.classCode

/-- A frame whose byte fields have the length R163 gives and whose destination is 0 when it is broadcast. -/
def WireFrame.wellFormed (f : WireFrame) : Bool :=
  (match f.body with
    | .block b => b.data.length == Config.blockBytes
    | .state record => record.length == 1024
    | .store _ data => data.length == Config.blockBytes
    | _ => true)
  && (f.delimiter == .addressed || f.dest == 0)

/-- The command a table word spells. spec/opcode_table.json gives bits to none of its rows ("fields": [] in each), so
no word spells a command (log 25). -/
def decodeTableWord (_nbits _w : Nat) : Option Instr := none

end Sys2Proof
end

