-- ==== Sys2Proof/Machine/State.lean ====
section
/-! DEFINITION. The state of the 7240, block by block (00_scope.md, "Block overview"), as plain data.

FREE contexts and EMPTY slots are not listed (log 10); everything else the spec names is a field here. -/

namespace Sys2Proof.Machine

/-- No rule of the spec stops the part: every command gives a next state, so no fault exists. -/
inductive Fault
  deriving DecidableEq, Repr

/-- The reasons a step is refused. -/
inductive Refusal
  /-- Raised by an arm of `exec` that has no meaning yet; safe. No arm of this model raises it. -/
  | notModelled (mnemonic : String)
  deriving DecidableEq, Repr

/-- The start-up phases (R168 to R171). -/
inductive Phase
  | configLoad
  | probe
  | directoryLoad
  | serving
  | service
  | unconfigured
  deriving DecidableEq, Repr

/-- The fields of a good configuration image (R169), kept for the life of the part. -/
structure ConfigImage where
  bridges : List Station
  clockStation : Station
  rateCode : BitVec 2
  gapCode : BitVec 2
  lead : BitVec 16
  margin : BitVec 16
  capacity : BitVec 16
  zoneMatch : Zone
  zoneMask : Zone
  deriving DecidableEq, Repr

/-- The status unit (chapter 11). -/
structure Status where
  phase : Phase
  station : Station
  config : Option ConfigImage
  faultDriven : Bool
  faultOnset : Count
  deriving DecidableEq, Repr

/-! ### Clock unit (chapter 2) -/

/-- The five clock states (2.3). -/
inductive ClockState
  | unset
  | running
  | paused
  | flywheel
  | lost
  deriving DecidableEq, Repr

/-- The kind of a pending load (R30). -/
inductive LoadKind
  | run
  | timing
  deriving DecidableEq, Repr

/-- A pending load (R30). -/
structure PendingLoad where
  kind : LoadKind
  value : Time
  deriving DecidableEq, Repr

/-- The clock-unit counts in the order of the STATE record (R32, R173). -/
structure ClockCounts where
  glitches : Count
  synthetic : Count
  lost : Count
  starts : Count
  steps : Count
  foreign : Count
  ignoredTiming : Count
  deriving DecidableEq, Repr

/-- The clock unit. -/
structure Clock where
  state : ClockState
  sfc : Time
  load : Option PendingLoad
  localTime : Time
  lastEdge : Option Time
  interval : Option Nat
  pairingOpen : Bool
  watch : Option Time
  synthRun : Nat
  counts : ClockCounts
  deriving DecidableEq, Repr

/-! ### Directory unit (chapter 1) -/

/-- The four sample formats (R1). -/
inductive Format
  | mono16
  | stereo16
  | mono24
  | stereo24
  deriving DecidableEq, Repr

/-- A kept loop, in zone frames (R8). -/
structure Loop where
  first : Nat
  stop : Nat
  deriving DecidableEq, Repr

/-- An accepted zone record (R2). -/
structure ZoneRecord where
  zone : Zone
  format : Format
  length : Nat
  base : Nat
  stored : Nat
  loop : Option Loop
  effective : Nat
  short : Bool
  deriving DecidableEq, Repr

/-- The record count R and directory block count D of a good header (R3). -/
structure DirectoryHeader where
  records : Nat
  blocks : Nat
  deriving DecidableEq, Repr

/-- A load in progress (R4): its outstanding page read is of the header page, or of record page `page`. -/
inductive DirectoryLoad
  | header
  | records (header : DirectoryHeader) (page : Nat) (accepted : List ZoneRecord)
  deriving DecidableEq, Repr

/-- An accepted STORE request (1.5). -/
structure StoreRequest where
  station : Station
  address : BitVec 32
  data : List Byte
  deriving DecidableEq, Repr

/-- How far a program has come (R17): waiting for its channel, erasing, or programming page j. -/
inductive ProgramStage
  | waiting
  | erasing
  | programming (page : Nat)
  deriving DecidableEq, Repr

/-- The program in progress; `silent` once a CLEAR has counted, so that no notice is queued (R18). -/
structure Program where
  request : StoreRequest
  stage : ProgramStage
  silent : Bool
  deriving DecidableEq, Repr

/-- The store layout: blocks 0 to `blocks` - 1, of which 1 to `recordBlocks` are record blocks (R14, R17). -/
structure StoreLayout where
  blocks : Nat
  recordBlocks : Nat
  deriving DecidableEq, Repr

/-- The directory counts in the order of the STATE record (R173). -/
structure DirectoryCounts where
  loads : Count
  lengthSkips : Count
  formatSkips : Count
  orderSkips : Count
  matchSkips : Count
  droppedLoops : Count
  shortRecords : Count
  unreadable : Count
  refusedService : Count
  refusedStore : Count
  written : Count
  badAddress : Count
  programFailed : Count
  deriving DecidableEq, Repr

/-- The directory unit. `awaitsProbe` holds from a CLEAR in SERVICE or DIRECTORY-LOAD to the load that follows it, which
waits for the re-probe (R18, R128). -/
structure Directory where
  table : List ZoneRecord
  headerFault : Bool
  loaded : Option DirectoryHeader
  load : Option DirectoryLoad
  awaitsProbe : Bool
  serviceStation : Option Station
  storeQueue : List StoreRequest
  program : Option Program
  layout : Option StoreLayout
  counts : DirectoryCounts
  deriving DecidableEq, Repr

/-! ### Cue unit (chapters 3 and 4) -/

/-- The cue-unit counts in the order of the STATE record (R173). -/
structure CueCounts where
  phaseIgnored : Count
  idMismatch : Count
  superseded : Count
  matchIgnored : Count
  absent : Count
  contextDeclined : Count
  capacityDeclined : Count
  taken : Count
  offersWon : Count
  offersRefused : Count
  lostToMirror : Count
  takenOver : Count
  expired : Count
  released : Count
  stopped : Count
  deriving DecidableEq, Repr

/-- The clamp counts (R36 to R38). -/
structure ClampCounts where
  rate : Count
  depth : Count
  origin : Count
  deriving DecidableEq, Repr

/-- The cue unit (R53); the demand figures and offer records stand in the contexts they belong to. -/
structure CueUnit where
  demandSum : Nat
  counts : CueCounts
  clamps : ClampCounts
  deriving DecidableEq, Repr

/-! ### Stream engine (chapter 5) -/

/-- The states of a context that is not FREE (R72). -/
inductive ContextState
  | contending
  | running
  | looping
  | spent
  deriving DecidableEq, Repr

/-- TOLERANT or STRICT (R72). -/
inductive Policy
  | tolerant
  | strict
  deriving DecidableEq, Repr

/-- The release mode (R72). -/
inductive ReleaseMode
  | none
  | playout
  | cut
  deriving DecidableEq, Repr

/-- The end reasons (R89). -/
inductive EndReason
  | complete
  | cut
  | empty
  | fault
  | abandoned
  deriving DecidableEq, Repr

/-- The part of the block sequence: first run, loop pass m, coda (R40 to R42). -/
inductive Part
  | first
  | pass (m : Nat)
  | coda
  deriving DecidableEq, Repr

/-- Whether an item is in a contest or on the bus (R73). -/
inductive BusPhase
  | none
  | presented
  | sent
  deriving DecidableEq, Repr

/-- An entry of a window (R73). -/
structure Entry where
  pos : Nat
  index : Nat
  part : Part
  k : Nat
  need : Distance
  leave : Distance
  deadline : Time
  leaveTime : Time
  eligible : Option Time
  phantom : Bool
  slot : Option SlotNo
  ready : Bool
  patched : PageSet
  busPhase : BusPhase
  deriving DecidableEq, Repr

/-- The sequence generator (R75). -/
structure Generator where
  part : Part
  k : Nat
  pos : Nat
  index : Nat
  overrun : Nat
  closed : Bool
  deriving DecidableEq, Repr

/-- The phase of an offer (R53). -/
inductive OfferPhase
  | queued
  | presented
  | sent
  deriving DecidableEq, Repr

/-- The offer record of a CONTENDING context (R53); `lapsed` when the expiry came while PRESENTED (R68). -/
structure OfferRecord where
  phase : OfferPhase
  expiry : Time
  lapsed : Bool
  deriving DecidableEq, Repr

/-- A context that is not FREE (R72). -/
structure Context where
  id : StreamId
  zone : ZoneRecord
  f0 : BitVec 32
  origin : Time
  rate : Nat
  depth : Nat
  demand : Nat
  lane : BitVec 6
  policy : Policy
  activeLoop : Bool
  state : ContextState
  releaseMode : ReleaseMode
  exitPass : Option Nat
  cutDistance : Option Distance
  gen : Generator
  window : List Entry
  delivered : Count
  dropped : Count
  patched : Count
  nacks : Nat
  endReason : Option EndReason
  offer : Option OfferRecord
  deriving DecidableEq, Repr

/-- The stream-engine counts in the order of the STATE record (R173). -/
structure StreamCounts where
  created : Count
  delivered : Count
  dropped : Count
  withdrawn : Count
  endComplete : Count
  endCut : Count
  endEmpty : Count
  endFault : Count
  endAbandoned : Count
  endSent : Count
  playout : Count
  cut : Count
  ignoredRelease : Count
  unmatchedRelease : Count
  deriving DecidableEq, Repr

/-- The stream engine: the contexts that are not FREE, by context number in rising order. -/
structure StreamEngine where
  contexts : List (Nat × Context)
  counts : StreamCounts
  deriving DecidableEq, Repr

/-! ### Block cache (chapter 6) -/

/-- The states of a slot that is not EMPTY (R96). -/
inductive SlotState
  | filling
  | valid
  | patched
  deriving DecidableEq, Repr

/-- A slot that is not EMPTY (R96). -/
structure Slot where
  state : SlotState
  zone : Zone
  k : Nat
  refs : Nat
  pagesDone : Nat
  patched : PageSet
  deadline : Time
  deriving DecidableEq, Repr

/-- The cache counts in the order of the STATE record (R173). -/
structure CacheCounts where
  validHit : Count
  fillingHit : Count
  patchedShare : Count
  miss : Count
  reclaim : Count
  validFill : Count
  patchedFill : Count
  patchedRelease : Count
  cancel : Count
  deriving DecidableEq, Repr

/-- The block cache. `slots` lists the slots that are not EMPTY, by slot number in rising order. The free list holds
slots `freeNext` to 262,143 in ascending order, then `freeTail` (R99). `dram` is the cache region (R96). -/
structure Cache where
  slots : List (Nat × Slot)
  freeNext : Nat
  freeTail : List SlotNo
  reclaim : List SlotNo
  dram : List Host.Cell
  counts : CacheCounts
  deriving DecidableEq, Repr

/-! ### Fetch engine (chapter 7) -/

/-- A fetch of a channel queue (7.2). -/
structure Fetch where
  slot : SlotNo
  block : Nat
  deadline : Time
  pagesDone : Nat
  cancelPending : Bool
  order : Nat
  deriving DecidableEq, Repr

/-- What a STORE program writes (R13, R17): the erase of a flash block, or one page, at its channel page, with its 4,096
data bytes. -/
inductive FlashWrite
  | erase (block : Nat)
  | page (channelPage : Nat) (data : List Byte)
  deriving DecidableEq, Repr

/-- The operation a channel carries out (R115); the discarded ones go on to their end unread (R129, R130). -/
inductive OperationKind
  | fetchPage (slot : SlotNo)
  | directoryPage
  | program (write : FlashWrite)
  | probe (attempt : Nat)
  | discardedFetchPage
  | discardedDirectoryPage
  | discardedProbe
  deriving DecidableEq, Repr

/-- An operation in progress and the local time of its issue (R118, R127, R17). -/
structure Operation where
  kind : OperationKind
  issued : Time
  deriving DecidableEq, Repr

/-- The counts of a channel in the order of the STATE record (R173). -/
structure ChannelCounts where
  good : Count
  corrected : Count
  uncorrectable : Count
  timeout : Count
  beyondExtent : Count
  patchedPages : Count
  offlinePatched : Count
  begun : Count
  breakIns : Count
  completed : Count
  cancels : Count
  offlineEntries : Count
  probeFailures : Count
  deriving DecidableEq, Repr

/-- A flash channel (R115). It is OFFLINE when `offline`, else READING when an operation is in progress, else IDLE. -/
structure Channel where
  offline : Bool
  op : Option Operation
  pageCount : Option Nat
  timeouts : Nat
  queue : List Fetch
  probePending : Bool
  nextOrder : Nat
  counts : ChannelCounts
  deriving DecidableEq, Repr

/-- The fetch engine. -/
structure FetchEngine where
  channels : Vector Channel 8
  extent : Nat
  deriving DecidableEq, Repr

/-! ### Delivery unit (chapter 8) -/

/-- The delivery-unit counts in the order of the STATE record (R145, R173). -/
structure DeliveryCounts where
  readyTaken : Count
  readyIgnored : Count
  foreignBlock : Count
  viewWipe : Count
  blocksSent : Count
  blocksAcknowledged : Count
  blocksRefused : Count
  phantomBlock : Count
  patchedDelivered : Count
  deriving DecidableEq, Repr

/-- The delivery unit: for each bridge of the bridge set, in list order, its open lanes (R131). -/
structure Delivery where
  views : List (Station × LaneSet)
  counts : DeliveryCounts
  deriving DecidableEq, Repr

/-! ### Bus port (chapter 9) -/

/-- The bus states (R146), with the assumed BUSY of power-on (R160) and the BUSY that follows a broken frame which left
the line dominant (R147). -/
inductive BusState
  | unsynced
  | busy
  | busyDominant
  | ackSlot (driving : Bool)
  | gap
  | free
  deriving DecidableEq, Repr

/-- The outcome a STORED notice carries (R17, R165). -/
inductive StoreOutcome
  | written
  | badAddress
  | programFailed
  deriving DecidableEq, Repr

/-- A notice of the notice queue: END of a SPENT context (R90) or STORED (R17). -/
inductive Notice
  | ended (ctx : Nat) (id : StreamId) (reason : EndReason) (delivered dropped patched : Count)
  | stored (dest : Station) (address : BitVec 32) (outcome : StoreOutcome)
  deriving DecidableEq, Repr

/-- What the 7240 presents or sends (R150). -/
inductive OwnItem
  | offer (ctx : Nat)
  | block (ctx : Nat) (slot : Option SlotNo)
  | ended (ctx : Nat)
  | stored
  | state
  deriving DecidableEq, Repr

/-- The 7240's part in a tenure: the item, its frame as fixed at the contest start, and whether it has won (R150, R151).
A BLOCK's data and a STATE's record are filled in at the win (R139, R151). -/
structure Tenure where
  item : OwnItem
  frame : WireFrame
  sent : Bool
  deriving DecidableEq, Repr

/-- The CLEAR line as the bus port senses it (R158). -/
inductive ClearLine
  | released
  | asserted (since : Time)
  | counted
  deriving DecidableEq, Repr

/-- The bus-stuck watch (R159). -/
inductive StuckWatch
  | idle
  | running (since : Time)
  | episode
  deriving DecidableEq, Repr

/-- The bus-port counts in the order of the STATE record (R173). -/
structure BusCounts where
  won : Count
  lost : Count
  empty : Count
  broken : Count
  sentOffer : Count
  sentBlock : Count
  sentNotice : Count
  sentState : Count
  refusedOffer : Count
  refusedBlock : Count
  refusedNotice : Count
  refusedState : Count
  checkFailures : Count
  malformed : Count
  unknownSource : Count
  unexpectedKind : Count
  queriesTaken : Count
  clearedRefused : Count
  shortClears : Count
  clears : Count
  busStuck : Count
  deriving DecidableEq, Repr

/-- The bus port. `receiveBuffer` holds the bytes of the last well-formed frame (R153, log 26).
`startBit` holds from the 7240's own start bit to the contest start it opens (R148). -/
structure BusPort where
  state : BusState
  startBit : Bool
  offers : List Nat
  notices : List Notice
  requests : BitVec 16
  contestWord : Option (BitVec 16)
  tenure : Option Tenure
  txFrame : Option (List Byte)
  receiveBuffer : Option (List Byte)
  clear : ClearLine
  watch : StuckWatch
  counts : BusCounts
  deriving DecidableEq, Repr

/-- The 7240 and the queue of commands waiting for it. -/
structure State where
  status : Status
  bus : BusPort
  clock : Clock
  dir : Directory
  cue : CueUnit
  streams : StreamEngine
  cache : Cache
  fetch : FetchEngine
  delivery : Delivery
  pending : List Instr
  deriving DecidableEq, Repr

/-! ### Power-on (R18, R33, R53, R95, R112, R130, R136, R160, R168, R174) -/

/-- A channel at power-on (R130). -/
def Channel.powerOn : Channel where
  offline := false
  op := none
  pageCount := none
  timeouts := 0
  queue := []
  probePending := false
  nextOrder := 0
  counts := ⟨0, 0, 0, 0, 0, 0, 0, 0, 0, 0, 0, 0, 0⟩

/-- The bus port at power-on (R160). The level of the CLEAR line at power-on is not stated: it is sensed as released
(DESIGN CHOICE, log 39). -/
def BusPort.powerOn : BusPort where
  state := .unsynced
  startBit := false
  offers := []
  notices := []
  requests := 0
  contestWord := none
  tenure := none
  txFrame := none
  receiveBuffer := none
  clear := .released
  watch := .idle
  counts := ⟨0, 0, 0, 0, 0, 0, 0, 0, 0, 0, 0, 0, 0, 0, 0, 0, 0, 0, 0, 0, 0⟩

/-- The clock unit at power-on (R33). -/
def Clock.powerOn : Clock where
  state := .unset
  sfc := 0
  load := none
  localTime := 0
  lastEdge := none
  interval := none
  pairingOpen := true
  watch := none
  synthRun := 0
  counts := ⟨0, 0, 0, 0, 0, 0, 0⟩

/-- The directory unit at power-on (R18). -/
def Directory.powerOn : Directory where
  table := []
  headerFault := false
  loaded := none
  load := none
  awaitsProbe := false
  serviceStation := none
  storeQueue := []
  program := none
  layout := none
  counts := ⟨0, 0, 0, 0, 0, 0, 0, 0, 0, 0, 0, 0, 0⟩

/-- The cue unit at power-on (R53). -/
def CueUnit.powerOn : CueUnit where
  demandSum := 0
  counts := ⟨0, 0, 0, 0, 0, 0, 0, 0, 0, 0, 0, 0, 0, 0, 0⟩
  clamps := ⟨0, 0, 0⟩

/-- The stream engine at power-on (R95). -/
def StreamEngine.powerOn : StreamEngine where
  contexts := []
  counts := ⟨0, 0, 0, 0, 0, 0, 0, 0, 0, 0, 0, 0, 0, 0⟩

/-- The block cache at power-on (R112); the DRAM's bytes are DESIGN CHOICE (log 9). -/
def Cache.powerOn : Cache where
  slots := []
  freeNext := 0
  freeTail := []
  reclaim := []
  dram := []
  counts := ⟨0, 0, 0, 0, 0, 0, 0, 0, 0⟩

/-- The fetch engine at power-on (R130). -/
def FetchEngine.powerOn : FetchEngine where
  channels := Vector.replicate 8 Channel.powerOn
  extent := 0

/-- The delivery unit at power-on: no bridge set is known yet, so no view is held (R131, R136). -/
def Delivery.powerOn : Delivery where
  views := []
  counts := ⟨0, 0, 0, 0, 0, 0, 0, 0, 0⟩

/-- The state after power-on with the straps as given; the queue of waiting commands is kept. -/
def State.powerOn (straps : Station) (pending : List Instr) : State where
  status := { phase := .configLoad, station := straps, config := none, faultDriven := false, faultOnset := 0 }
  bus := BusPort.powerOn
  clock := Clock.powerOn
  dir := Directory.powerOn
  cue := CueUnit.powerOn
  streams := StreamEngine.powerOn
  cache := Cache.powerOn
  fetch := FetchEngine.powerOn
  delivery := Delivery.powerOn
  pending := pending

/-- The machine right after power-on. The straps' level is not stated: station 0 (DESIGN CHOICE, log 12). -/
def State.reset : State := State.powerOn 0 []

end Sys2Proof.Machine
end

