-- ==== Sys2Proof/Machine/Sparse.lean ====
section
/-! DEFINITION. Sparse tables: (number, record) pairs with strictly rising numbers, for the contexts that are not FREE
and the slots that are not EMPTY (log 10). -/

namespace Sys2Proof.Machine.Sparse

variable {α : Type}

/-- The record listed under n, none when n is not listed. -/
def get : List (Nat × α) → Nat → Option α
  | [], _ => none
  | (k, a) :: rest, n => if k = n then some a else get rest n

/-- The table with a listed under n, in its place in the rising order. -/
def put : List (Nat × α) → Nat → α → List (Nat × α)
  | [], n, a => [(n, a)]
  | (k, b) :: rest, n, a =>
    if n < k then (n, a) :: (k, b) :: rest
    else if n = k then (n, a) :: rest
    else (k, b) :: put rest n a

/-- The table without n. -/
def erase (m : List (Nat × α)) (n : Nat) : List (Nat × α) := m.filter fun p => p.1 != n

/-- The table with the record under n changed by f, unchanged when n is not listed. -/
def modify (m : List (Nat × α)) (n : Nat) (f : α → α) : List (Nat × α) :=
  m.map fun p => if p.1 = n then (p.1, f p.2) else p

/-- The lowest number below `bound` that is not listed. -/
def lowestFree (m : List (Nat × α)) (bound : Nat) : Option Nat :=
  (List.range (min bound (m.length + 1))).find? fun n => (get m n).isNone

/-- The canonical form: strictly rising numbers. -/
abbrev wf (m : List (Nat × α)) : Prop := m.Pairwise fun p q => p.1 < q.1

end Sys2Proof.Machine.Sparse
end

