-- ==== Sys2Proof/Machine/Ops.lean ====
section
/-! DEFINITION. The named operations over the state: the counters, the block updates, local time, the stacked DRAM,
contexts, slots and channels. -/

namespace Sys2Proof.Machine

/-! ### Counters (R174) -/

/-- A counter raised by n, saturating at 2^32 - 1. -/
def addCount (c : Count) (n : Nat) : Count := BitVec.ofNat 32 (min (c.toNat + n) 4294967295)

/-- A counter raised by one event. -/
def inc (c : Count) : Count := addCount c 1

/-! ### One update per block of the part -/

def State.onStatus (f : Status → Status) (s : State) : State := { s with status := f s.status }
def State.onBus (f : BusPort → BusPort) (s : State) : State := { s with bus := f s.bus }
def State.onClock (f : Clock → Clock) (s : State) : State := { s with clock := f s.clock }
def State.onDir (f : Directory → Directory) (s : State) : State := { s with dir := f s.dir }
def State.onCue (f : CueUnit → CueUnit) (s : State) : State := { s with cue := f s.cue }
def State.onStreams (f : StreamEngine → StreamEngine) (s : State) : State := { s with streams := f s.streams }
def State.onCache (f : Cache → Cache) (s : State) : State := { s with cache := f s.cache }
def State.onFetch (f : FetchEngine → FetchEngine) (s : State) : State := { s with fetch := f s.fetch }
def State.onDelivery (f : Delivery → Delivery) (s : State) : State := { s with delivery := f s.delivery }

/-- The same state with another queue of waiting commands. -/
def State.withPending (s : State) (q : List Instr) : State := { s with pending := q }

/-! ### One update per group of counters -/

def State.countBus (f : BusCounts → BusCounts) : State → State := State.onBus fun b => { b with counts := f b.counts }
def State.countClock (f : ClockCounts → ClockCounts) : State → State :=
  State.onClock fun c => { c with counts := f c.counts }
def State.countDir (f : DirectoryCounts → DirectoryCounts) : State → State :=
  State.onDir fun d => { d with counts := f d.counts }
def State.countCue (f : CueCounts → CueCounts) : State → State := State.onCue fun u => { u with counts := f u.counts }
def State.countClamp (f : ClampCounts → ClampCounts) : State → State :=
  State.onCue fun u => { u with clamps := f u.clamps }
def State.countStreams (f : StreamCounts → StreamCounts) : State → State :=
  State.onStreams fun e => { e with counts := f e.counts }
def State.countCache (f : CacheCounts → CacheCounts) : State → State :=
  State.onCache fun c => { c with counts := f c.counts }
def State.countDelivery (f : DeliveryCounts → DeliveryCounts) : State → State :=
  State.onDelivery fun d => { d with counts := f d.counts }

/-! ### Local time (R19) -/

/-- Local time runs on by dt microseconds. -/
def State.elapse (dt : Micros) (s : State) : State := s.onClock fun c => { c with localTime := c.localTime + dt }

/-- Local time. -/
def State.now (s : State) : Time := s.clock.localTime

/-- Local time has reached t. -/
def State.reached (s : State) (t : Time) : Bool := decide (0 ≤ signedDiff s.now t)

/-- The span has run since t. -/
def State.ran (s : State) (t : Time) (span : Nat) : Bool := decide ((span : Int) ≤ signedDiff s.now t)

/-! ### The configuration image's fields, as the blocks that use them read them (R169) -/

/-- The bridge set; empty without a good image (R154, R171). -/
def State.bridges (s : State) : List Station := (s.status.config.map ConfigImage.bridges).getD []

/-- The lead (R45). -/
def State.lead (s : State) : Nat := (s.status.config.map fun c => c.lead.toNat).getD 0

/-- The break-in margin M (R120). -/
def State.margin (s : State) : Nat := (s.status.config.map fun c => c.margin.toNat).getD 0

/-- The demand capacity C (R52, R60). -/
def State.capacity (s : State) : Nat := (s.status.config.map fun c => c.capacity.toNat).getD 0

/-- The bus-free gap G in bit times: 64 without a good image (R146, R171). -/
def State.gapBits (s : State) : Nat := (s.status.config.map fun c => 8 * 2 ^ c.gapCode.toNat).getD 64

/-- A CLEAR that counts is asserted (R158). -/
def State.cleared (s : State) : Bool := s.bus.clear == .counted

/-! ### The cache region of the stacked DRAM (R96) -/

namespace Dram

/-- The byte at an address; a byte nothing has written reads 0 (DESIGN CHOICE, log 9). -/
def read (mem : List Host.Cell) (a : Nat) : Byte := (Sparse.get mem a).getD 0

/-- The cells of the bytes from an address on; a zero byte needs no cell. -/
def cells : Nat → List Byte → List Host.Cell
  | _, [] => []
  | a, b :: rest => if b = 0 then cells (a + 1) rest else (a, b) :: cells (a + 1) rest

/-- The bytes written from address a on: one contiguous run. -/
def write (mem : List Host.Cell) (a : Nat) (data : List Byte) : List Host.Cell :=
  let stop := a + data.length
  mem.filter (fun c => decide (c.1 < a)) ++ cells a data ++ mem.filter (fun c => decide (stop ≤ c.1))

/-- The n bytes from address a on, found in one walk of the cells; `Dram.readBytes_getElem` says each is what `read` gives. -/
def readBytes : List Host.Cell → Nat → Nat → List Byte
  | [], _, n => List.replicate n 0
  | (k, b) :: rest, a, n =>
    if k < a then readBytes rest a n
    else if n ≤ k - a then List.replicate n 0
    else List.replicate (k - a) 0 ++ b :: readBytes rest (k + 1) (n - (k - a) - 1)

/-- The canonical form: strictly rising addresses, and no cell equal to what an unlisted address reads as. -/
abbrev wf (mem : List Host.Cell) : Prop := (mem.Pairwise fun p q => p.1 < q.1) ∧ ∀ c ∈ mem, c.2 ≠ 0

/-- The first address of page j of a slot. -/
def pageAddress (n : SlotNo) (j : Nat) : Nat := n.val * Config.blockBytes + j * Config.pageBytes

end Dram

/-- Page j of a slot written: the bytes read, at most a page of them, or zeros for a patched page (R119). -/
def State.writePage (n : SlotNo) (j : Nat) (data : Option (List Byte)) (s : State) : State :=
  s.onCache fun c => { c with dram := Dram.write c.dram (Dram.pageAddress n j) (match data with
    | some bytes => bytes.take Config.pageBytes
    | none => List.replicate Config.pageBytes 0) }

/-- The 12,288 bytes of a slot (R111). -/
def State.slotData (s : State) (n : SlotNo) : List Byte :=
  Dram.readBytes s.cache.dram (Dram.pageAddress n 0) Config.blockBytes

/-! ### Contexts (R72) -/

/-- The context numbered i, none when it is FREE. -/
def State.ctx? (s : State) (i : Nat) : Option Context := Sparse.get s.streams.contexts i

/-- Context i changed by f; nothing when it is FREE. -/
def State.updCtx (i : Nat) (f : Context → Context) : State → State :=
  State.onStreams fun e => { e with contexts := Sparse.modify e.contexts i f }

/-- Context i written afresh. -/
def State.putCtx (i : Nat) (c : Context) : State → State :=
  State.onStreams fun e => { e with contexts := Sparse.put e.contexts i c }

/-- The numbers of the contexts that are not FREE, in rising order. -/
def State.live (s : State) : List Nat := s.streams.contexts.map Prod.fst

/-- The context that holds a stream id (R58: at most one). -/
def State.findStream (s : State) (id : StreamId) : Option Nat :=
  (s.streams.contexts.find? fun p => p.2.id == id).map Prod.fst

/-- The bridge of a stream: the station part of its id (R57). -/
def stationPart (id : StreamId) : Station := id.extractLsb' 12 4

/-- A context whose window is worked on. -/
def Context.delivering (c : Context) : Bool := c.state == .running || c.state == .looping

/-- Context i returns to FREE and its demand leaves the demand sum (R54). -/
def State.freeCtx (i : Nat) (c : Context) (s : State) : State :=
  (s.onCue fun u => { u with demandSum := u.demandSum - c.demand }).onStreams fun e =>
    { e with contexts := Sparse.erase e.contexts i }

/-! ### Slots (R96 to R100) -/

/-- The record of a slot, none when it is EMPTY. -/
def State.slot? (s : State) (n : SlotNo) : Option Slot := Sparse.get s.cache.slots n.val

/-- A slot that is not EMPTY changed by f. -/
def State.updSlot (n : SlotNo) (f : Slot → Slot) : State → State :=
  State.onCache fun c => { c with slots := Sparse.modify c.slots n.val f }

/-- The slot becomes EMPTY: its key leaves the index and it joins the free list at the tail (R99). -/
def State.emptySlot (n : SlotNo) : State → State :=
  State.onCache fun c => { c with slots := Sparse.erase c.slots n.val, freeTail := c.freeTail ++ [n] }

/-- The slot joins the reclaim list at the tail (R100). -/
def State.toReclaim (n : SlotNo) : State → State :=
  State.onCache fun c => { c with reclaim := c.reclaim ++ [n] }

/-- The key index: the slot that carries a key (R97). -/
def State.findKey (s : State) (zone : Zone) (k : Nat) : Option (SlotNo × Slot) :=
  match s.cache.slots.find? fun p => p.2.zone == zone && p.2.k == k with
  | some (n, slot) => if h : n < 262144 then some (⟨n, h⟩, slot) else none
  | none => none

/-! ### Channels (R115) -/

/-- A channel's record. -/
def State.chan (s : State) (c : ChannelNo) : Channel := s.fetch.channels[c]

/-- A channel's record changed by f. -/
def State.updChan (c : ChannelNo) (f : Channel → Channel) : State → State :=
  State.onFetch fun e => { e with channels := e.channels.set c (f e.channels[c]) }

/-- A channel's counts changed by f. -/
def State.countChan (c : ChannelNo) (f : ChannelCounts → ChannelCounts) : State → State :=
  State.updChan c fun ch => { ch with counts := f ch.counts }

/-- The channel of a flash block (R13). -/
def channelOf (block : Nat) : ChannelNo := ⟨block % 8, Nat.mod_lt _ (by decide)⟩

/-- The channel page of page j of a flash block (R13). -/
def channelPage (block j : Nat) : Nat := 3 * (block / 8) + j

/-- The channel begins an operation, issued now. -/
def State.issue (c : ChannelNo) (kind : OperationKind) (s : State) : State :=
  s.updChan c fun ch => { ch with op := some { kind := kind, issued := s.now } }

/-- The answer to an operation issued then comes too late: more than 2,000 µs have run, the operation has timed out, and the
answer is discarded unseen (R17, R118, R127). At 2,000 µs answer and timeout fall together, and the one handled first is
taken (R118). -/
def State.answerLate (s : State) (op : Operation) : Bool := s.ran op.issued (Config.pageTimeout + 1)

/-- The channel's operation has come to its end. -/
def State.endOp (c : ChannelNo) : State → State := State.updChan c fun ch => { ch with op := none }

/-- Every channel, in order. -/
def channels : List ChannelNo := [0, 1, 2, 3, 4, 5, 6, 7]

end Sys2Proof.Machine
end

