-- ==== Sys2Proof/Machine/Operands.lean ====
section
/-! DEFINITION. How the fields of received frames, of the configuration image and of flash records are taken: clamps,
masks, spare codes and layouts (R36 to R38, R166, R167, R169). -/

namespace Sys2Proof.Machine

/-! ### Sample formats (R1) -/

/-- Bytes of one zone frame (R1). -/
def Format.frameBytes : Format → Nat
  | .mono16 => 2
  | .stereo16 => 4
  | .mono24 => 3
  | .stereo24 => 6

/-- B, the zone frames of one block (R1). -/
def Format.framesPerBlock : Format → Nat
  | .mono16 => 6144
  | .stereo16 => 3072
  | .mono24 => 4096
  | .stereo24 => 2048

/-- The format a record's code stands for, none for the codes of R5's format skip (R167). -/
def Format.ofCode : Nat → Option Format
  | 1 => some .mono16
  | 2 => some .stereo16
  | 3 => some .mono24
  | 4 => some .stereo24
  | _ => none

/-- a/b rounded up, of an exact quotient ("Arithmetic", 00_scope.md). -/
def ceilDiv (a b : Nat) : Nat := (a + b - 1) / b

/-! ### Fields of received frames (R166) -/

/-- The rate taken: 16,384 to 262,144 (R36). -/
def clampRate (rate : BitVec 32) : Nat := max 16384 (min rate.toNat 262144)

/-- The ring depth taken: 2 to 16 (R37). -/
def clampDepth (depth : Byte) : Nat := max 2 (min depth.toNat 16)

/-- The origin taken: at most 2^24 ahead of the Studio Frame Count (R38). -/
def clampOrigin (sfc origin : Time) : Time :=
  if signedDiff origin sfc > 16777216 then sfc + 16777216#32 else origin

/-- The lane taken: bits 5-0 of the byte (R166). -/
def takeLane (lane : Byte) : BitVec 6 := lane.extractLsb' 0 6

/-- 0 TOLERANT, any other value STRICT (R164). -/
def takePolicy (policy : Byte) : Policy := if policy = 0 then .tolerant else .strict

/-- 1 PLAYOUT, any other value CUT (R164). -/
def takeMode (mode : Byte) : ReleaseMode := if mode = 1 then .playout else .cut

/-! ### The configuration image (R169) -/

/-- The bridge stations listed in an image: bits 3-0 of as many bytes as the bridge count says. -/
def imageBridges (image : List Byte) : List Station :=
  (Bytes.slice image 1 (Bytes.byteAt image 0)).map fun b => b.extractLsb' 0 4

/-- The tests of R169: the image is good when all hold. -/
def imageGood (image : List Byte) : Bool :=
  image.length == 64
  && Bytes.wordSum image % 65536 == Config.imageSum
  && decide (1 ≤ Bytes.byteAt image 0 ∧ Bytes.byteAt image 0 ≤ 4)
  && decide (imageBridges image).Nodup
  && (imageBridges image).contains (BitVec.ofNat 4 (Bytes.byteAt image 5))
  && Bytes.field image 12 2 != 0
  && decide (Bytes.field image 8 2 ≤ 16383)

/-- The fields of an image by the layout of R169. -/
def imageFields (image : List Byte) : ConfigImage where
  bridges := imageBridges image
  clockStation := BitVec.ofNat 4 (Bytes.byteAt image 5)
  rateCode := BitVec.ofNat 2 (Bytes.byteAt image 6)
  gapCode := BitVec.ofNat 2 (Bytes.byteAt image 7)
  lead := BitVec.ofNat 16 (Bytes.field image 8 2)
  margin := BitVec.ofNat 16 (Bytes.field image 10 2)
  capacity := BitVec.ofNat 16 (Bytes.field image 12 2)
  zoneMatch := BitVec.ofNat 24 (Bytes.field image 14 3)
  zoneMask := BitVec.ofNat 24 (Bytes.field image 17 3)

/-- The initial mark interval of a rate code (R21). -/
def initialInterval (code : BitVec 2) : Nat :=
  match code.toNat with
  | 0 => 1451
  | 1 => 1333
  | 2 => 726
  | _ => 667

/-- The masked zone match (R7). -/
def ConfigImage.zonePasses (c : ConfigImage) (zone : Zone) : Bool := zone &&& c.zoneMask == c.zoneMatch &&& c.zoneMask

/-! ### Flash records (R167) -/

/-- A header as its page or a stored block 0 holds it, when the marker, record-count and block-count tests of R3
pass against the probed extent. -/
def takeHeader (extent : Nat) (page : List Byte) : Option DirectoryHeader :=
  let records := Bytes.field page 4 4
  let blocks := Bytes.field page 8 4
  if Bytes.field page 0 4 = Config.marker ∧ records ≤ Config.maxRecords ∧ 1 + ceilDiv records 384 ≤ blocks
      ∧ blocks ≤ extent then
    some { records := records, blocks := blocks }
  else none

/-- A zone record as it stands on flash (R167). -/
structure RawRecord where
  zone : Zone
  format : Nat
  length : Nat
  base : Nat
  stored : Nat
  loop : Option Loop
  deriving DecidableEq, Repr

/-- Record number i of a record page (R167). -/
def takeRecord (page : List Byte) (i : Nat) : RawRecord :=
  let r := Bytes.slice page (32 * i) 32
  { zone := BitVec.ofNat 24 (Bytes.field r 0 3)
    format := Bytes.byteAt r 3
    length := Bytes.field r 4 4
    base := Bytes.field r 8 4
    stored := Bytes.field r 12 2
    loop := if Bytes.byteAt r 14 = 0 then none
      else some { first := Bytes.field r 16 4, stop := Bytes.field r 20 4 } }

end Sys2Proof.Machine
end

