-- ==== Sys2Proof/Machine/Arithmetic.lean ====
section
/-! DEFINITION. Stream arithmetic (chapter 3): the block sequence, distances, times, slack and urgency, the figures of a
release, demand and load. Products and quotients are taken exactly and then rounded (R35). -/

namespace Sys2Proof.Machine

/-! ### The block sequence (R39 to R43) -/

/-- B of the stream's zone. -/
def Context.blockFrames (c : Context) : Nat := c.zone.format.framesPerBlock

/-- F0 as a number of zone frames. -/
def Context.start (c : Context) : Nat := c.f0.toNat

/-- kFirst (R39). -/
def Context.kFirst (c : Context) : Nat := c.start / c.blockFrames

/-- kEnd (R39). -/
def Context.kEnd (c : Context) : Nat := (c.zone.length - 1) / c.blockFrames

/-- The loop when it is active for the stream (R39). -/
def Context.loop? (c : Context) : Option Loop := if c.activeLoop then c.zone.loop else none

/-- kLoopFirst (R39). -/
def Context.kLoopFirst (c : Context) (l : Loop) : Nat := l.first / c.blockFrames

/-- kLoopLast (R39). -/
def Context.kLoopLast (c : Context) (l : Loop) : Nat := (l.stop - 1) / c.blockFrames

/-- Lp (R39). -/
def Loop.length (l : Loop) : Nat := l.stop - l.first

/-- Entries of the first run with the loop active (R40). -/
def Context.firstCount (c : Context) (l : Loop) : Nat := c.kLoopLast l - c.kFirst + 1

/-- Entries of one loop pass (R41). -/
def Context.passCount (c : Context) (l : Loop) : Nat := c.kLoopLast l - c.kLoopFirst l + 1

/-- P_m, where loop pass m begins (R41); P_{m_x + 1} is Pc, where the coda begins (R42). -/
def Context.passStart (c : Context) (l : Loop) (m : Nat) : Nat := (l.stop - c.start) + (m - 1) * l.length

/-- The need and leave distances of block k in a part of the sequence (R40, R41, R42), taken exactly. -/
def Context.span (c : Context) (part : Part) (k : Nat) : Nat × Nat :=
  let b := c.blockFrames
  match c.loop?, part with
  | none, _ => (k * b - c.start, min ((k + 1) * b) c.zone.length - c.start)
  | some l, .first => (k * b - c.start, min ((k + 1) * b) l.stop - c.start)
  | some l, .pass m =>
    (c.passStart l m + (max (k * b) l.first - l.first), c.passStart l m + (min ((k + 1) * b) l.stop - l.first))
  | some l, .coda =>
    let pc := c.passStart l (c.exitPass.getD 0 + 1)
    (pc + (max (k * b) l.stop - l.stop), pc + (min ((k + 1) * b) c.zone.length - l.stop))

/-- The need distance as the engine holds it (R35). -/
def Context.needAt (c : Context) (part : Part) (k : Nat) : Distance := BitVec.ofNat 48 (c.span part k).1

/-- The leave distance as the engine holds it (R35). -/
def Context.leaveAt (c : Context) (part : Part) (k : Nat) : Distance := BitVec.ofNat 48 (c.span part k).2

/-- The part and block of the element at played index j (R40 to R43). -/
def Context.playedAt (c : Context) (j : Nat) : Part × Nat :=
  match c.loop? with
  | none => (.first, c.kFirst + j)
  | some l =>
    if j < c.firstCount l then (.first, c.kFirst + j)
    else
      let i := j - c.firstCount l
      let inPasses := (.pass (i / c.passCount l + 1), c.kLoopFirst l + i % c.passCount l)
      match c.exitPass with
      | none => inPasses
      | some m =>
        if i < m * c.passCount l then inPasses
        else (.coda, l.stop / c.blockFrames + (i - m * c.passCount l))

/-- The pass number a BLOCK frame carries (R43). -/
def Part.passNumber : Part → Nat
  | .first => 0
  | .pass m => (m - 1) % 65534 + 1
  | .coda => 65535

/-! ### From distance to time (R44 to R48) -/

/-- T(x) (R44). -/
def Context.timeOf (c : Context) (x : Distance) : Time := c.origin + BitVec.ofNat 32 (ceilDiv (x.toNat * 65536) c.rate)

/-- The distance at a time: the zone frames the walk has consumed by it (R48). -/
def Context.distanceAt (c : Context) (t : Time) : Distance :=
  if signedDiff t c.origin ≤ 0 then 0
  else BitVec.ofNat 48 (c.rate * (signedDiff t c.origin).toNat / 65536)

/-- The eligibility time of played index j: the leave time of played index j - Q, none when j < Q (R45). -/
def Context.eligibilityOf (c : Context) (j : Nat) : Option Time :=
  if j < c.depth then none
  else
    let e := c.playedAt (j - c.depth)
    some (c.timeOf (c.leaveAt e.1 e.2))

/-- An entry is eligible at a Studio Frame Count (R46). -/
def Entry.isEligible (e : Entry) (sfc : Time) : Bool :=
  match e.eligible with
  | none => true
  | some t => decide (0 ≤ signedDiff sfc t)

/-- The stale test of an entry (R46, R81): only while no frame of it is in a contest or on the bus. -/
def Entry.isStale (e : Entry) (sfc : Time) : Bool := e.busPhase == .none && decide (0 ≤ signedDiff sfc e.leaveTime)

/-- The slack of an entry (R47). -/
def Entry.slack (e : Entry) (sfc : Time) : Int := signedDiff e.deadline sfc

/-- The urgency that encodes a slack (R47). -/
def urgencyOf (slack : Int) : BitVec 8 :=
  if slack < 64 then 0 else if slack < 16320 then BitVec.ofNat 8 (slack.toNat / 64) else 255

/-! ### Releases (R49) -/

/-- The exit pass a PLAYOUT at distance dr fixes (R49). -/
def Context.exitPassAt (c : Context) (l : Loop) (dr : Distance) : Nat :=
  if dr.toNat < l.stop - c.start then 0 else 1 + (dr.toNat - (l.stop - c.start)) / l.length

/-! ### Demand and load (R51, R52) -/

/-- The demand figure of a rate and format (R51). -/
def demandOf (rate : Nat) (format : Format) : Nat := ceilDiv (rate * format.frameBytes) 65536

/-- The load figure (R52). -/
def loadFigure (demandSum capacity : Nat) : Nat := min 255 (demandSum * 256 / capacity)

/-! ### The generator (R75) -/

/-- The generator at the start of the coda, closed when the loop ends at N. -/
def Context.toCoda (c : Context) (l : Loop) (g : Generator) : Generator :=
  if l.stop = c.zone.length then { g with closed := true }
  else { g with part := .coda, k := l.stop / c.blockFrames }

/-- The generator closes before an element at or above the cut distance. -/
def Context.closeAtCut (c : Context) (g : Generator) : Generator :=
  match c.cutDistance with
  | some d => if d ≤ c.needAt g.part g.k then { g with closed := true } else g
  | none => g

/-- The generator after producing its next element: the table of R75, then the cut distance. -/
def Context.advance (c : Context) (g : Generator) : Generator :=
  let next := { g with k := g.k + 1, pos := g.pos + 1, index := g.index + 1 }
  c.closeAtCut <| match c.loop?, g.part with
    | none, _ => if g.k < c.kEnd then next else { next with closed := true }
    | some l, .first =>
      if g.k < c.kLoopLast l then next
      else if c.exitPass = some 0 then c.toCoda l next
      else { next with part := .pass 1, k := c.kLoopFirst l }
    | some l, .pass m =>
      if g.k < c.kLoopLast l then next
      else if c.exitPass = some m then c.toCoda l next
      else { next with part := .pass (m + 1), k := c.kLoopFirst l }
    | some _, .coda => if g.k < c.kEnd then next else { next with closed := true }

/-- The generator before the first element (R75). -/
def Context.firstGenerator (c : Context) : Generator where
  part := .first
  k := c.kFirst
  pos := 0
  index := 0
  overrun := 0
  closed := false

/-- The entry the generator's next element makes, before its block is mapped and looked up (R76). -/
def Context.nextEntry (c : Context) (lead : Nat) : Entry :=
  let g := c.gen
  let need := c.needAt g.part g.k
  let leave := c.leaveAt g.part g.k
  { pos := g.pos, index := g.index, part := g.part, k := g.k, need := need, leave := leave
    deadline := c.timeOf need - BitVec.ofNat 32 lead, leaveTime := c.timeOf leave
    eligible := c.eligibilityOf g.index
    phantom := false, slot := none, ready := false, patched := 0, busPhase := .none }

end Sys2Proof.Machine
end

