-- ==== Sys2Proof/Machine/Cache.lean ====
section
/-! DEFINITION. The block cache's references and the cancellation of fetches (R109, R110, R125). -/

namespace Sys2Proof.Machine

/-- The fetch of a slot among a channel's fetches. -/
def Channel.fetchOf (ch : Channel) (n : SlotNo) : Option Fetch := ch.queue.find? fun f => f.slot == n

/-- The channel whose queue holds a fetch for the slot (R116: at most one). -/
def State.fetchingChannel (s : State) (n : SlotNo) : Option ChannelNo :=
  channels.find? fun c => ((s.chan c).fetchOf n).isSome

/-- A page of the slot's fetch is being read on the channel. -/
def Channel.reading (ch : Channel) (n : SlotNo) : Bool :=
  match ch.op with
  | some op => op.kind == .fetchPage n
  | none => false

/-- The slot's fetch changed by f, in its place. -/
def Channel.mapFetch (n : SlotNo) (f : Fetch → Fetch) (ch : Channel) : Channel :=
  { ch with queue := ch.queue.map fun x => if x.slot = n then f x else x }

/-- The slot's fetch removed; the others keep their order (R125). -/
def Channel.dropFetch (n : SlotNo) (ch : Channel) : Channel := { ch with queue := ch.queue.filter fun x => x.slot != n }

/-- A fetch removed by cancellation: the fetch engine's and the cache's cancel counts rise, the slot becomes EMPTY
(R110, R125, R126). -/
def State.removeFetch (c : ChannelNo) (n : SlotNo) (s : State) : State :=
  ((((s.updChan c (Channel.dropFetch n)).countChan c fun k => { k with cancels := inc k.cancels }).emptySlot n).countCache
    fun k => { k with cancel := inc k.cancel })

/-- The cache asks for the cancellation of a FILLING slot's fetch (R110, R125). A fetch that OFFLINE is completing is
no longer in a queue, and nothing is done (R124). -/
def State.cancelFetch (n : SlotNo) (s : State) : State :=
  match s.fetchingChannel n with
  | none => s
  | some c =>
    match (s.chan c).fetchOf n with
    | none => s
    | some f =>
      if (s.chan c).reading n then
        if f.pagesDone < 2 then s.updChan c (Channel.mapFetch n fun x => { x with cancelPending := true }) else s
      else s.removeFetch c n

/-- One reference to a slot released (R109). -/
def State.releaseRef (n : SlotNo) (s : State) : State :=
  match s.slot? n with
  | none => s
  | some slot =>
    let t := s.updSlot n fun x => { x with refs := x.refs - 1 }
    if slot.refs ≤ 1 then
      match slot.state with
      | .valid => t.toReclaim n
      | .patched => (t.emptySlot n).countCache fun k => { k with patchedRelease := inc k.patchedRelease }
      | .filling => t.cancelFetch n
    else t

/-- The reference of an entry released, when it holds one (R98). -/
def State.releaseEntry (e : Entry) (s : State) : State :=
  match e.slot with
  | some n => s.releaseRef n
  | none => s

end Sys2Proof.Machine
end

