-- ==== Sys2Proof/Machine/Contexts.lean ====
section
/-! DEFINITION. What befalls a context as a whole: withdrawal, the policy test, entry to SPENT, the silent free, and the
completion of a fill (R67, R77, R82, R83, R89, R92, R107). -/

namespace Sys2Proof.Machine

/-- Entries already out of their window are withdrawn, in window order (R83, log 5). -/
def State.withdraw (entries : List Entry) (s : State) : State :=
  entries.foldl (fun t e => (t.releaseEntry e).countStreams fun k => { k with withdrawn := inc k.withdrawn }) s

/-- The end count of a reason raised (R89). -/
def StreamCounts.countEnd (reason : EndReason) (k : StreamCounts) : StreamCounts :=
  match reason with
  | .complete => { k with endComplete := inc k.endComplete }
  | .cut => { k with endCut := inc k.endCut }
  | .empty => { k with endEmpty := inc k.endEmpty }
  | .fault => { k with endFault := inc k.endFault }
  | .abandoned => { k with endAbandoned := inc k.endAbandoned }

/-- Context i enters SPENT (R89): the reason is recorded, every entry withdrawn, the generator closed, and one END
notice queued with the counts as they stand (R90). -/
def State.enterSpent (i : Nat) (reason : EndReason) (s : State) : State :=
  match s.ctx? i with
  | none => s
  | some c =>
    let marked := s.updCtx i fun x =>
      { x with state := .spent, window := [], gen := { x.gen with closed := true }, endReason := some reason, offer := none }
    ((marked.withdraw c.window).countStreams (StreamCounts.countEnd reason)).onBus fun b =>
      { b with notices := b.notices ++ [.ended i c.id reason c.delivered c.dropped c.patched] }

/-- The policy test of context i's head (R82). -/
def State.policyTest (i : Nat) (s : State) : State :=
  match s.ctx? i with
  | none => s
  | some c =>
    match c.window with
    | [] => s
    | e :: _ =>
      if e.ready = true ∧ e.patched ≠ 0 then
        let t := s.updCtx i fun x => { x with patched := inc x.patched }
        if c.policy = .strict then t.enterSpent i .fault else t
      else s

/-- The END notice of context i removed from the notice queue (R92). -/
def dropEnd (i : Nat) (notices : List Notice) : List Notice :=
  notices.filter fun n => match n with
    | .ended j _ _ _ _ _ => j != i
    | .stored _ _ _ => true

/-- Context i is freed without notice, from any state (R67, R92). -/
def State.silentFree (i : Nat) (s : State) : State :=
  match s.ctx? i with
  | none => s
  | some c =>
    let emptied := (s.updCtx i fun x => { x with window := [] }).withdraw c.window
    (emptied.onBus fun b => { b with offers := b.offers.filter (· != i), notices := dropEnd i b.notices }).freeCtx i c

/-- The entries of a window that refer to the slot become ready and copy its patched-page set (R77). -/
def Entry.fill (n : SlotNo) (patched : PageSet) (e : Entry) : Entry :=
  if e.slot = some n then { e with ready := true, patched := patched } else e

/-- The completion of a fill reaches context i: its entries become ready, and a head among them has its policy test
(R77, R82). -/
def State.fillContext (n : SlotNo) (patched : PageSet) (s : State) (i : Nat) : State :=
  match s.ctx? i with
  | none => s
  | some c =>
    let t := s.updCtx i fun x => { x with window := x.window.map (Entry.fill n patched) }
    match c.window with
    | [] => t
    | e :: _ => if e.slot = some n then t.policyTest i else t

/-- The third page of a slot's fill has been reported (R107): VALID or PATCHED, then by the reference count. -/
def State.fillComplete (n : SlotNo) (s : State) : State :=
  match s.slot? n with
  | none => s
  | some slot =>
    let t :=
      if slot.patched = 0 then
        (s.updSlot n fun x => { x with state := .valid }).countCache fun k => { k with validFill := inc k.validFill }
      else
        (s.updSlot n fun x => { x with state := .patched }).countCache fun k =>
          { k with patchedFill := inc k.patchedFill }
    if slot.refs = 0 then
      if slot.patched = 0 then t.toReclaim n
      else (t.emptySlot n).countCache fun k => { k with patchedRelease := inc k.patchedRelease }
    else t.live.foldl (State.fillContext n slot.patched) t

end Sys2Proof.Machine
end

