-- ==== Sys2Proof/Machine/DirectoryLoad.lean ====
section
/-! DEFINITION. The FAULT output (R175) and the directory load (R3 to R10, R121). -/

namespace Sys2Proof.Machine

/-! ### The FAULT output (R175) -/

/-- The four causes of FAULT: UNCONFIGURED, the header-fault flag, an OFFLINE channel, the clock LOST. -/
def State.faultCauses (s : State) : List Bool :=
  [s.status.phase == .unconfigured, s.dir.headerFault, channels.any fun c => (s.chan c).offline, s.clock.state == .lost]

/-- FAULT follows its causes; each change from released to driven is counted. -/
def State.updateFault (s : State) : State :=
  let driven := s.faultCauses.any id
  s.onStatus fun u =>
    { u with faultDriven := driven
             faultOnset := if driven && !u.faultDriven then inc u.faultOnset else u.faultOnset }

/-! ### Record checks (R5 to R9) -/

/-- What the record checks say of one record. -/
inductive RecordVerdict
  | badLength
  | badFormat
  | outOfOrder
  | noMatch
  | accepted (record : ZoneRecord) (loopDropped : Bool)
  deriving DecidableEq, Repr

/-- The loop is kept (R8). -/
def Loop.kept (l : Loop) (length : Nat) : Bool := decide (l.first < l.stop ∧ l.stop ≤ length ∧ 256 ≤ l.stop - l.first)

/-- The effective count of a record (R9). -/
def effectiveCount (extent directoryBlocks blocks base stored : Nat) : Nat :=
  if base < directoryBlocks then 0 else min stored (min blocks (extent - base))

/-- The checks of R5 to R9 on one record, against the last record accepted. A stored count above ⌈N/B⌉ is lowered to it
(R2, R9, R167). -/
def judgeRecord (config : ConfigImage) (extent directoryBlocks : Nat) (last : Option ZoneRecord) (r : RawRecord) :
    RecordVerdict :=
  if r.length = 0 ∨ r.length > Config.maxLength then .badLength
  else
    match Format.ofCode r.format with
    | none => .badFormat
    | some format =>
      if (match last with | some p => decide (r.zone ≤ p.zone) | none => false) then .outOfOrder
      else if !config.zonePasses r.zone then .noMatch
      else
        let blocks := ceilDiv r.length format.framesPerBlock
        let c := effectiveCount extent directoryBlocks blocks r.base r.stored
        let keep := match r.loop with | some l => l.kept r.length | none => true
        .accepted
          { zone := r.zone, format := format, length := r.length, base := r.base
            stored := min r.stored blocks
            loop := if keep then r.loop else none, effective := c, short := decide (c < blocks) }
          (!keep)

/-- A judged record counted (R5 to R9). -/
def DirectoryCounts.countRecord (v : RecordVerdict) (k : DirectoryCounts) : DirectoryCounts :=
  match v with
  | .badLength => { k with lengthSkips := inc k.lengthSkips }
  | .badFormat => { k with formatSkips := inc k.formatSkips }
  | .outOfOrder => { k with orderSkips := inc k.orderSkips }
  | .noMatch => { k with matchSkips := inc k.matchSkips }
  | .accepted r dropped =>
    { k with droppedLoops := if dropped then inc k.droppedLoops else k.droppedLoops
             shortRecords := if r.short then inc k.shortRecords else k.shortRecords }

/-- One record checked and, when accepted, put behind the records accepted before it. -/
def checkRecord (config : ConfigImage) (extent directoryBlocks : Nat) (acc : List ZoneRecord × DirectoryCounts)
    (r : RawRecord) : List ZoneRecord × DirectoryCounts :=
  let v := judgeRecord config extent directoryBlocks acc.1.getLast? r
  let counts := acc.2.countRecord v
  match v with
  | .accepted z _ => (acc.1 ++ [z], counts)
  | _ => (acc.1, counts)

/-! ### The load (R4, R10, R13) -/

/-- The flash block and page of the load's outstanding read (R3). -/
def DirectoryLoad.location : DirectoryLoad → Nat × Nat
  | .header => (0, 0)
  | .records _ page _ => (1 + page / 3, page % 3)

/-- The channel the load's outstanding read is for (R13). -/
def DirectoryLoad.channel (l : DirectoryLoad) : ChannelNo := channelOf l.location.1

/-- The records that stand on record page `page` of a directory of R records (R3, R4). -/
def recordsOnPage (records page : Nat) : Nat := min 128 (records - 128 * page)

/-- The load completes: the phase becomes SERVING with the table as built, or with an empty table and the header-fault
flag set (R10). -/
def State.completeLoad (header : Option DirectoryHeader) (table : List ZoneRecord) (s : State) : State :=
  (s.onDir fun d =>
    { d with table := table, headerFault := header.isNone, loaded := header, load := none
             counts := { d.counts with loads := inc d.counts.loads } }).onStatus
    fun u => { u with phase := .serving }

/-- After record page `page`: the next page, or completion (R4, R10). -/
def State.nextRecordPage (header : DirectoryHeader) (page : Nat) (accepted : List ZoneRecord) (s : State) : State :=
  if page < ceilDiv header.records 128 then
    s.onDir fun d => { d with load := some (.records header page accepted) }
  else s.completeLoad (some header) accepted

/-- The load's outstanding page read has completed, with its data or unreadable: the header is judged, or the page's
records are checked in position order, or each of them counted unreadable (R3 to R10). The next page is not issued
here. A probe that ends during the load changes the extent for the pages that complete after it (DESIGN CHOICE, log 40). -/
def State.directoryPageDone (data : Option (List Byte)) (s : State) : State :=
  match s.dir.load with
  | none => s
  | some .header =>
    match data.bind (takeHeader s.fetch.extent) with
    | none => s.completeLoad none []
    | some header => s.nextRecordPage header 0 []
  | some (.records header page accepted) =>
    let onPage := recordsOnPage header.records page
    match data, s.status.config with
    | some bytes, some config =>
      let checked := ((List.range onPage).map (takeRecord bytes)).foldl
        (checkRecord config s.fetch.extent header.blocks) (accepted, s.dir.counts)
      (s.onDir fun d => { d with counts := checked.2 }).nextRecordPage header (page + 1) checked.1
    | _, _ =>
      (s.countDir fun k => { k with unreadable := addCount k.unreadable onPage }).nextRecordPage header (page + 1) accepted

/-- A page of a channel lies below the page count the channel reported (R118). -/
def Channel.holdsPage (ch : Channel) (page : Nat) : Bool :=
  match ch.pageCount with
  | some n => decide (page < n)
  | none => false

/-- The channel can begin an operation of the directory unit's now (R121, R128, R129). -/
def State.channelOpen (s : State) (c : ChannelNo) : Bool :=
  (s.chan c).op.isNone && !(s.chan c).probePending && !s.cleared

/-- The load's outstanding read is taken up: at once unreadable on an OFFLINE channel (R121, R124) or beyond the page
count (R118), issued on a channel that is free for it, else left waiting for the channel's next choice. Reads that
complete at once lead to the next page; `fuel` bounds the pages. -/
def State.issueDirectory : Nat → State → State
  | 0, s => s
  | fuel + 1, s =>
    match s.dir.load with
    | none => s
    | some l =>
      let c := l.channel
      if (s.chan c).offline then (s.directoryPageDone none).issueDirectory fuel
      else if s.channelOpen c then
        if (s.chan c).holdsPage (channelPage l.location.1 l.location.2) then s.issue c .directoryPage
        else
          ((s.countChan c fun k => { k with beyondExtent := inc k.beyondExtent }).directoryPageDone none).issueDirectory
            fuel
      else s

/-- The load's outstanding read waits for channel c. -/
def State.directoryWaits (s : State) (c : ChannelNo) : Bool :=
  match s.dir.load with
  | some l => l.channel == c && !(match (s.chan c).op with | some op => op.kind == .directoryPage | none => false)
  | none => false

/-- The directory page that waits for channel c is taken up (R121, R124). -/
def State.takeWaitingPage (c : ChannelNo) (s : State) : State :=
  if s.directoryWaits c then s.issueDirectory Config.directoryPages else s

end Sys2Proof.Machine
end

