-- ==== Sys2Proof/Machine/Fetch.lean ====
section
/-! DEFINITION. Flash channels and fetch scheduling (chapter 7): the channel queue, page reads, the choice, OFFLINE,
probes and the probed extent. -/

namespace Sys2Proof.Machine

/-! ### The channel queue (R117) -/

/-- Fetch x stands before fetch y: an earlier deadline, or an equal one and an earlier request. -/
def Fetch.before (x y : Fetch) : Bool :=
  decide (signedDiff x.deadline y.deadline < 0) || (x.deadline == y.deadline && decide (x.order < y.order))

/-- A fetch put in its place: before the first fetch it stands before (R117). -/
def insertFetch (f : Fetch) : List Fetch → List Fetch
  | [] => [f]
  | x :: rest => if f.before x then f :: x :: rest else x :: insertFetch f rest

/-- The slot's fetch given a new deadline and moved to its place; its request order is kept (R117). -/
def Channel.lowerDeadline (n : SlotNo) (deadline : Time) (ch : Channel) : Channel :=
  match ch.fetchOf n with
  | none => ch
  | some f =>
    let others := ch.queue.filter fun x => x.slot != n
    { ch with queue := insertFetch { f with deadline := deadline } others }

/-- The partial set: fetches of the queue with one or two pages done (R115). -/
def Channel.partials (ch : Channel) : List Fetch := ch.queue.filter fun f => f.pagesDone == 1 || f.pagesDone == 2

/-- The fetch whose next page the channel reads, and whether that is a break-in (R120). -/
def Channel.nextFetch (ch : Channel) (margin : Nat) : Option (Fetch × Bool) :=
  match ch.partials.head?, ch.queue.find? fun f => f.pagesDone == 0 with
  | none, none => none
  | some p, none => some (p, false)
  | none, some u => some (u, false)
  | some p, some u =>
    if (margin : Int) ≤ signedDiff p.deadline u.deadline ∧ ch.partials.length < Config.partialRoom then some (u, true)
    else some (p, false)

/-! ### Pages reported to the cache (R106, R119, R123) -/

/-- The set holding page j alone. -/
def onlyPage (j : Nat) : PageSet := 1#3 <<< j

/-- Page j of a slot written and reported: with its data, or patched (R106). -/
def State.reportPage (n : SlotNo) (j : Nat) (data : Option (List Byte)) (s : State) : State :=
  (s.writePage n j data).updSlot n fun x =>
    { x with pagesDone := x.pagesDone + 1
             patched := if data.isNone then x.patched ||| onlyPage j else x.patched }

/-- A page of the slot's fetch has completed on channel c, with its data or patched (R119). A third page finishes the
fetch and completes the fill. -/
def State.completePage (c : ChannelNo) (n : SlotNo) (data : Option (List Byte)) (s : State) : State :=
  match (s.chan c).fetchOf n with
  | none => s
  | some f =>
    let counted :=
      if data.isNone then s.countChan c fun k => { k with patchedPages := inc k.patchedPages } else s
    let reported := counted.reportPage n f.pagesDone data
    if f.pagesDone < 2 then
      reported.updChan c (Channel.mapFetch n fun x => { x with pagesDone := x.pagesDone + 1 })
    else
      ((reported.updChan c (Channel.dropFetch n)).countChan c fun k =>
        { k with completed := inc k.completed }).fillComplete n

/-- A fetch completed with its remaining pages patched, for OFFLINE (R123). -/
def State.finishPatched (c : ChannelNo) (s : State) (f : Fetch) : State :=
  let left := 3 - f.pagesDone
  let reported := (List.range left).foldl (fun t i => t.reportPage f.slot (f.pagesDone + i) none) s
  (reported.countChan c fun k =>
    { k with offlinePatched := addCount k.offlinePatched left
             patchedPages := addCount k.patchedPages left
             completed := inc k.completed }).fillComplete f.slot

/-- The channel goes OFFLINE (R122, R123, R127): its fetches leave the queue and complete in queue order, each with
its remaining pages patched (log 8). -/
def State.goOffline (c : ChannelNo) (s : State) : State :=
  let fetches := (s.chan c).queue
  let t := s.updChan c fun ch =>
    { ch with offline := true, op := none, queue := []
              counts := { ch.counts with offlineEntries := inc ch.counts.offlineEntries } }
  fetches.foldl (State.finishPatched c) t

/-- The channel enters OFFLINE; FAULT is driven at that moment, also when a probe ends the cause again in the same
command (R175). -/
def State.enterOffline (c : ChannelNo) (s : State) : State := (s.goOffline c).updateFault

/-! ### The choice (R120, R121) -/

/-- The counts of a choice: each page 0 is a begun fetch, each break-in is counted as well (R120). -/
def ChannelCounts.countChoice (f : Fetch) (breakIn : Bool) (k : ChannelCounts) : ChannelCounts :=
  { k with begun := if f.pagesDone = 0 then inc k.begun else k.begun
           breakIns := if breakIn then inc k.breakIns else k.breakIns }

/-- The choice among the channel's fetches (R120): the next page's read is issued, or, when the page lies beyond the page
count, counted as beyond the extent (R118); such a page is to be reported patched, and its slot is named. -/
def State.readNext (c : ChannelNo) (s : State) : State × Option SlotNo :=
  match (s.chan c).nextFetch s.margin with
  | none => (s, none)
  | some (f, breakIn) =>
    let t := s.countChan c (ChannelCounts.countChoice f breakIn)
    if (s.chan c).holdsPage (channelPage f.block f.pagesDone) then (t.issue c (.fetchPage f.slot), none)
    else (t.countChan c fun k => { k with beyondExtent := inc k.beyondExtent }, some f.slot)

/-- The channel's choices until a page read is issued or no fetch is left: a page beyond the page count completes at once
patched, and the channel chooses again (R118, R120). `fuel` bounds the pages of the queue. -/
def State.chooseFetch (c : ChannelNo) : Nat → State → State
  | 0, s => s
  | fuel + 1, s =>
    match s.readNext c with
    | (t, none) => t
    | (t, some n) => (t.completePage c n none).chooseFetch c fuel

/-- The channel's choices among its fetches, within the pages its queue holds. -/
def State.chooseFetches (c : ChannelNo) (s : State) : State := s.chooseFetch c (3 * (s.chan c).queue.length + 1)

/-- The program that waits for channel c (R17). -/
def State.waitingProgram (s : State) (c : ChannelNo) : Option Program :=
  match s.dir.program with
  | some p => if p.stage = .waiting ∧ channelOf p.request.address.toNat = c then some p else none
  | none => none

/-- What a program writes at a stage (R13, R17): the erase of flash block a, then page j of the request's data at the
channel page of page j of that block. -/
def Program.write (p : Program) (stage : ProgramStage) : FlashWrite :=
  match stage with
  | .waiting => .erase p.request.address.toNat
  | .erasing => .erase p.request.address.toNat
  | .programming j =>
    .page (channelPage p.request.address.toNat j) (Bytes.slice p.request.data (Config.pageBytes * j) Config.pageBytes)

/-- The program comes to a stage, and its channel carries out what it writes there (R17). -/
def State.runProgram (p : Program) (stage : ProgramStage) (s : State) : State :=
  (s.onDir fun d => { d with program := some { p with stage := stage } }).issue (channelOf p.request.address.toNat)
    (.program (p.write stage))

/-- The channel chooses its next operation (R120, R121): a waiting program, a waiting directory page, a fetch's page, or
none. -/
def State.choose (c : ChannelNo) (s : State) : State :=
  match s.waitingProgram c with
  | some p => s.runProgram p .erasing
  | none =>
    let t := s.takeWaitingPage c
    if (t.chan c).op.isSome then t else t.chooseFetches c

/-! ### Probes (R127, R128) -/

/-- A probe begins on the channel: an OFFLINE channel leaves OFFLINE (R127, R128). -/
def State.beginProbe (c : ChannelNo) (s : State) : State :=
  (s.updChan c fun ch =>
    { ch with offline := false, probePending := false, timeouts := 0, pageCount := none }).issue c (.probe 1)

/-- What a channel does when its operation has come to its end (R120, R121, R124, R128, R129): nothing while a counted
CLEAR is asserted, its probe when one is pending, else its choice; an OFFLINE channel makes none, and a directory page
that waits for it is unreadable at once. Where a discarded read's third timeout has just taken the channel OFFLINE while
its probe is pending, the probe takes it out again first, and the waiting page waits for the probe's end (DESIGN CHOICE,
log 37). -/
def State.afterOperation (c : ChannelNo) (s : State) : State :=
  if s.cleared then s
  else if (s.chan c).probePending then s.beginProbe c
  else if (s.chan c).offline then s.takeWaitingPage c
  else s.choose c

/-- Every channel's probe-pending flag set, and a probe begun on each channel with no operation in progress; while a
counted CLEAR is asserted the probes wait for its release (R128, R170). -/
def State.probeAll (s : State) : State :=
  channels.foldl (fun t c =>
    let u := t.updChan c fun ch => { ch with probePending := true }
    if (u.chan c).op.isNone && !u.cleared then u.beginProbe c else u) s

/-- The channel's probe is pending or in progress. -/
def Channel.probing (ch : Channel) : Bool :=
  ch.probePending || (match ch.op with
    | some op => (match op.kind with
      | .probe _ => true
      | .discardedProbe => true
      | _ => false)
    | none => false)

/-- All eight channels have finished their probes (R127). -/
def State.probesDone (s : State) : Bool := channels.all fun c => !(s.chan c).probing

/-- P: the first flash block address that some answering channel does not hold, 0 when none answered (R127). -/
def State.probedExtent (s : State) : Nat :=
  let ends := channels.filterMap fun c => (s.chan c).pageCount.map fun n => 8 * (n / 3) + c.val
  (ends.min?).getD 0

/-- The end of a channel's probe: when all eight have finished, P is computed and a start-up passes from PROBE to
DIRECTORY-LOAD (R127, R128). -/
def State.probeFinished (s : State) : State :=
  if s.probesDone then
    (s.onFetch fun e => { e with extent := s.probedExtent }).onStatus fun u =>
      { u with phase := if u.phase = .probe then .directoryLoad else u.phase }
  else s

/-! ### Fetch requests (R116) -/

/-- What a fetch request leaves to be reported once the lookup has returned (R104, R116): nothing, a whole fetch on an
OFFLINE channel, or page 0 of a fetch that lies beyond the page count of its channel. -/
inductive LateReport
  | none
  | offline (c : ChannelNo) (f : Fetch)
  | beyond (c : ChannelNo) (n : SlotNo)
  deriving DecidableEq, Repr

/-- A fetch request of the cache (R116): begun at once on an IDLE channel, queued on a READING one, on an OFFLINE one to
be completed patched. Nothing is reported here. -/
def State.requestFetch (n : SlotNo) (block : Nat) (deadline : Time) (s : State) : State × LateReport :=
  let c := channelOf block
  let f : Fetch :=
    { slot := n, block := block, deadline := deadline, pagesDone := 0, cancelPending := false
      order := (s.chan c).nextOrder }
  let t := s.updChan c fun ch => { ch with nextOrder := ch.nextOrder + 1 }
  if (s.chan c).offline then (t, .offline c f)
  else
    let u := t.updChan c fun ch => { ch with queue := insertFetch f ch.queue }
    if s.channelOpen c then
      match u.readNext c with
      | (v, none) => (v, .none)
      | (v, some m) => (v, .beyond c m)
    else (u, .none)

/-- The reports a request has left (R104, R106, R123): the fetch on the OFFLINE channel completes, or the page beyond the
extent is reported, unless its fetch has been cancelled meanwhile, and its channel chooses again (log 7). -/
def State.report (r : LateReport) (s : State) : State :=
  match r with
  | .none => s
  | .offline c f => s.finishPatched c f
  | .beyond c n => (s.completePage c n none).chooseFetches c

end Sys2Proof.Machine
end

