-- ==== Sys2Proof/Machine/Streams.lean ====
section
/-! DEFINITION. The stream engine's work on a window: lookup, entry creation, the head tests, drops, refill and the end
of a sequence (R76, R79 to R81, R88, R101 to R104). -/

namespace Sys2Proof.Machine

/-! ### Lookup (R101 to R104) -/

/-- The slot an allocation takes, with the cache after taking it: the head of the free list, else the head of the
reclaim list, whose old key leaves the index (R104). None only if both lists were empty, which R105 excludes (log 27). -/
def Cache.takeSlot (c : Cache) : Option (SlotNo × Cache) :=
  if h : c.freeNext < 262144 then some (⟨c.freeNext, h⟩, { c with freeNext := c.freeNext + 1 })
  else
    match c.freeTail, c.reclaim with
    | n :: rest, _ => some (n, { c with freeTail := rest })
    | [], n :: rest =>
      some (n, { c with reclaim := rest, slots := Sparse.erase c.slots n.val
                        counts := { c.counts with reclaim := inc c.counts.reclaim } })
    | [], [] => none

/-- What a lookup returns: the slot, the state after it, and what its fetch request has left to be reported. -/
structure Found where
  slot : SlotNo
  state : State
  report : LateReport
  deriving DecidableEq, Repr

/-- A miss: a slot allocated for the key, FILLING with one reference, and its fetch requested (R104). -/
def State.allocate (zone : Zone) (k block : Nat) (deadline : Time) (s : State) : Option Found :=
  match s.cache.takeSlot with
  | none => none
  | some (n, cache) =>
    let slot : Slot :=
      { state := .filling, zone := zone, k := k, refs := 1, pagesDone := 0, patched := 0, deadline := deadline }
    let r := (s.onCache fun _ =>
      { cache with slots := Sparse.put cache.slots n.val slot
                   counts := { cache.counts with miss := inc cache.counts.miss } }).requestFetch n block deadline
    some { slot := n, state := r.1, report := r.2 }

/-- A hit on a slot that is not EMPTY: one more reference, and what the slot's state adds (R101 to R103). A FILLING hit
withdraws a cancellation (R125) and may lower the deadline (R102, R108, R117). -/
def State.hit (n : SlotNo) (slot : Slot) (deadline : Time) (s : State) : State :=
  let t := s.updSlot n fun x => { x with refs := x.refs + 1 }
  match slot.state with
  | .valid =>
    t.onCache fun c =>
      { c with reclaim := if slot.refs = 0 then c.reclaim.filter (· != n) else c.reclaim
               counts := { c.counts with validHit := inc c.counts.validHit } }
  | .patched => t.countCache fun k => { k with patchedShare := inc k.patchedShare }
  | .filling =>
    let u := t.countCache fun k => { k with fillingHit := inc k.fillingHit }
    let v := match s.fetchingChannel n with
      | some c => u.updChan c (Channel.mapFetch n fun x => { x with cancelPending := false })
      | none => u
    if signedDiff deadline slot.deadline < 0 then
      let w := v.updSlot n fun x => { x with deadline := deadline }
      match s.fetchingChannel n with
      | some c => w.updChan c (Channel.lowerDeadline n deadline)
      | none => w
    else v

/-- The cache's answer to a lookup of block (zone, k), at flash block `block`: it returns before any page of a fetch it
requests is reported (R104). -/
def State.lookup (zone : Zone) (k block : Nat) (deadline : Time) (s : State) : Option Found :=
  match s.findKey zone k with
  | some (n, slot) => some { slot := n, state := s.hit n slot deadline, report := .none }
  | none => s.allocate zone k block deadline

/-! ### Entry creation (R12, R76) -/

/-- The entry appended, the created count raised, the generator advanced (R76). -/
def State.appendEntry (i : Nat) (e : Entry) (s : State) : State :=
  (s.updCtx i fun c => { c with window := c.window ++ [e], gen := c.advance c.gen }).countStreams fun k =>
    { k with created := inc k.created }

/-- The generator's next entry created for context i (R76): phantom at or beyond the effective count (R12), else with
the slot the lookup returns, ready when that slot is VALID or PATCHED; with what the lookup has left to be reported. None
when the cache has no slot (log 27). -/
def State.createEntry (i : Nat) (c : Context) (s : State) : Option (State × LateReport) :=
  let e := c.nextEntry s.lead
  if c.zone.effective ≤ e.k then some (s.appendEntry i { e with phantom := true, ready := true }, .none)
  else
    match s.lookup c.zone.zone e.k (c.zone.base + e.k) e.deadline with
    | none => none
    | some found =>
      let t := found.state
      let entry :=
        match t.slot? found.slot with
        | some slot =>
          if slot.state = .filling then { e with slot := some found.slot }
          else { e with slot := some found.slot, ready := true, patched := slot.patched }
        | none => { e with slot := some found.slot }
      some (t.appendEntry i entry, found.report)

/-! ### The head (R79 to R82) -/

/-- Context i's stale head dropped (R81). -/
def State.dropHead (i : Nat) (c : Context) (s : State) : State :=
  match c.window with
  | [] => s
  | e :: rest =>
    ((s.updCtx i fun x => { x with window := rest, dropped := inc x.dropped }).releaseEntry e).countStreams fun k =>
      { k with dropped := inc k.dropped }

/-- The tests of context i's head when it takes its place (R80 to R82): stale, it is dropped, and the answer is true; else
it has its policy test. R80 does not say which test comes first: a head that is stale and patched is dropped here without
its policy test, not counted as patched and no FAULT of a STRICT stream (DESIGN CHOICE, log 44). -/
def State.testHead (i : Nat) (s : State) : State × Bool :=
  match s.ctx? i with
  | none => (s, false)
  | some c =>
    match c.window with
    | [] => (s, false)
    | e :: _ => if e.isStale s.clock.sfc then (s.dropHead i c, true) else (s.policyTest i, false)

/-- The reason a closed sequence ends with: CUT when the context has acted on a CUT (R88). -/
def Context.endOfSequence (c : Context) : EndReason := if c.releaseMode = .cut then .cut else .complete

/-- Context i served until nothing is left to do at this event (R76, R80, R81, R82, R88). With `fresh` the head is due
for its tests: stale, it is dropped and the next is due; else it has its policy test. Then the window is refilled entry
by entry, an entry made into an empty window having its tests at once; and a RUNNING context whose sequence is closed
and whose window is empty enters SPENT. In a cascade every head that is stale is dropped before the first refill: R80
numbers the tests before the refill, and its "refilled after each drop" could also be read as a refill between two drops
(DESIGN CHOICE, log 36). What an entry's lookup has left is reported after the entry's own tests and before the next
entry is made (DESIGN CHOICE, log 7). `fuel` bounds the cascade (log 6). -/
def State.serve (i : Nat) : Nat → Bool → State → State
  | 0, _, s => s
  | fuel + 1, fresh, s =>
    match s.ctx? i with
    | none => s
    | some c =>
      if c.delivering then
        match c.window with
        | _ :: _ =>
          if fresh then
            let tested := s.testHead i
            tested.1.serve i fuel tested.2
          else if c.window.length < c.depth ∧ c.gen.closed = false then
            match s.createEntry i c with
            | some (t, r) => (t.report r).serve i fuel false
            | none => s
          else s
        | [] =>
          if c.gen.closed then (if c.state = .running then s.enterSpent i c.endOfSequence else s)
          else
            match s.createEntry i c with
            | some (t, r) =>
              let tested := t.testHead i
              (tested.1.report r).serve i fuel tested.2
            | none => s
      else s

/-- Context i served within the bound of one event. -/
def State.serveNow (i : Nat) (fresh : Bool) (s : State) : State := s.serve i Config.cascadeBound fresh

/-- The stale test of context i's head, as a change of the count and the return of a bus phase to none call for it
(R79, R81): a stale head is dropped and what follows is done. -/
def State.staleTest (s : State) (i : Nat) : State :=
  match s.ctx? i with
  | none => s
  | some c =>
    if c.delivering then
      match c.window with
      | e :: _ => if e.isStale s.clock.sfc then (s.dropHead i c).serveNow i true else s
      | [] => s
    else s

/-- Every head tested, in rising context number (R81, R137; log 5). -/
def State.staleTestAll (s : State) : State := s.live.foldl State.staleTest s

/-- Context i taken out of CONTENDING at the ACK of its OFFER (R78). -/
def State.takeStream (i : Nat) (c : Context) (s : State) : State :=
  if c.zone.length ≤ c.start then s.enterSpent i .empty
  else
    (s.updCtx i fun x =>
      { x with offer := none, state := if x.activeLoop then .looping else .running, gen := x.firstGenerator }).serveNow i
      false

/-! ### Releases (R84 to R87) -/

/-- The generator brought into line with an exit pass (R85): past the last entry of pass m_x it moves to the coda, with
j one past that entry, the overrun h, and s unchanged. -/
def Context.exitGenerator (c : Context) (l : Loop) (m : Nat) : Generator :=
  let last := c.firstCount l + m * c.passCount l
  if c.gen.index < last then c.gen
  else c.toCoda l { c.gen with overrun := c.gen.index - last, index := last }

/-- A PLAYOUT acted on by a LOOPING context; where the head is withdrawn, the new head has its tests (R80, R85). -/
def State.playoutLooping (i : Nat) (c : Context) (l : Loop) (dr : Distance) (s : State) : State :=
  let m := c.exitPassAt l dr
  let keep := fun e : Entry => decide (e.index < c.firstCount l + m * c.passCount l)
  let t := s.updCtx i fun x =>
    { x with state := .running, releaseMode := .playout, exitPass := some m
             gen := c.exitGenerator l m, window := c.window.filter keep }
  (t.withdraw (c.window.filter fun e => !keep e)).serveNow i (c.window.head?.any fun e => !keep e)

/-- A CUT acted on by a LOOPING or RUNNING context; where the head is withdrawn, the new head has its tests (R80, R87). -/
def State.cutStream (i : Nat) (c : Context) (dr : Distance) (s : State) : State :=
  let keep := fun e : Entry => decide (e.need < dr)
  let closed := if c.gen.closed = false ∧ dr ≤ c.needAt c.gen.part c.gen.k then { c.gen with closed := true } else c.gen
  let t := s.updCtx i fun x =>
    { x with state := .running, releaseMode := .cut, cutDistance := some dr
             gen := closed, window := c.window.filter keep }
  (t.withdraw (c.window.filter fun e => !keep e)).serveNow i (c.window.head?.any fun e => !keep e)

end Sys2Proof.Machine
end

