-- ==== Sys2Proof/Machine/Flags.lean ====
section
/-! DEFINITION. The standing conditions of the part, brought up to date at the end of every command: having something to
send, the start bit sent in FREE, the bus-stuck watch and the FAULT output (R148, R159, R175), and how a frame or a slot
reaches the 7240 (R146, R153 to R155, R158). -/

namespace Sys2Proof.Machine

/-- The view of a lane of a bridge is open (R131). -/
def State.laneOpen (s : State) (bridge : Station) (lane : BitVec 6) : Bool :=
  match s.delivery.views.find? fun v => v.1 == bridge with
  | some v => v.2.getLsbD lane.toNat
  | none => false

/-- The view of a lane closed; nothing for a station outside the bridge set (R133, R134). -/
def State.closeLane (bridge : Station) (lane : BitVec 6) (s : State) : State :=
  s.onDelivery fun d =>
    { d with views := d.views.map fun v =>
        if v.1 = bridge then (v.1, v.2 &&& ~~~(1#64 <<< lane.toNat)) else v }

/-- Every view of every bridge closed (R135, R136). -/
def State.closeViews (s : State) : State := s.onDelivery fun d => { d with views := d.views.map fun v => (v.1, 0) }

/-- The four tests of R137 on a context's head: not stale, ready, eligible, lane open. -/
def State.contends (s : State) (c : Context) (e : Entry) : Bool :=
  c.delivering && !(decide (0 ≤ signedDiff s.clock.sfc e.leaveTime)) && e.ready && e.isEligible s.clock.sfc
    && s.laneOpen (stationPart c.id) c.lane

/-- Some head would pass the four tests of R137 against the count as it stands (R148). -/
def State.blockWaiting (s : State) : Bool :=
  s.streams.contexts.any fun p => match p.2.window with
    | e :: _ => s.contends p.2 e
    | [] => false

/-- The 7240 has something to send (R148). -/
def State.somethingToSend (s : State) : Bool :=
  !s.bus.offers.isEmpty || !s.bus.notices.isEmpty || s.bus.requests != 0 || s.blockWaiting

/-- The 7240 may contend: no counted CLEAR, and the configuration image has been read (R148, R158, R160). -/
def State.mayContend (s : State) : Bool := !s.cleared && s.status.phase != .configLoad

/-- In FREE the 7240 sends a start bit at the moment it comes to have something to send (R148). That start bit neither
restarts a running bus-stuck watch nor ends an episode: both wait for the CONTEST_START that follows (R159; DESIGN CHOICE,
log 28). -/
def State.startInFree (s : State) : State :=
  if s.bus.state = .free ∧ s.somethingToSend = true ∧ s.mayContend = true then
    s.onBus fun b => { b with state := .busy, startBit := true }
  else s

/-- The bus-stuck watch runs while there is something to send and no counted CLEAR is asserted (R159). A watch that has
stopped for want of something to send, or at a CLEAR, starts again from 0, also with no frame boundary between (DESIGN
CHOICE, log 43). -/
def State.runWatch (s : State) : State :=
  s.onBus fun b =>
    { b with watch :=
        if s.somethingToSend && !s.cleared then
          (match b.watch with
            | .idle => .running s.now
            | w => w)
        else .idle }

/-- What every command ends with. -/
def State.finish (s : State) : State := s.startInFree.runWatch.updateFault

/-- A frame boundary: the bus-stuck watch restarts and an episode ends (R159). -/
def State.boundary (s : State) : State :=
  s.onBus fun b => { b with watch := (match b.watch with
    | .idle => .idle
    | _ => .running s.now) }

/-- The bus enters a state; a start bit of the 7240's that no contest start has followed is over. -/
def State.enterBus (state : BusState) (s : State) : State := s.onBus fun b => { b with state := state, startBit := false }

/-- The 7240 is listening: it knows where the bus stands and has no frame of its own in a contest or on the bus (R55,
R153, R160). -/
def State.listening (s : State) : Bool := s.bus.state != .unsynced && s.bus.tenure.isNone

/-- A received frame stands in the receive buffer (R153, log 26). -/
def State.received (frame : List Byte) (s : State) : State := s.onBus fun b => { b with receiveBuffer := some frame }

/-- A discarded frame leaves the buffer empty (R153, R157). -/
def State.discardFrame (s : State) : State := s.onBus fun b => { b with receiveBuffer := none }

/-- A well-formed broadcast frame of a kind held to the bridge set (R153, R154): the bus enters GAP; before the image is
read nothing is handed on; a source outside the bridge set is counted; else the frame reaches its owner. -/
def State.broadcastFrame (frame : List Byte) (src : Station) (owner : State → State) (s : State) : State :=
  if s.listening then
    let t := ((s.received frame).enterBus .gap).boundary
    if t.status.phase = .configLoad then t
    else if t.bridges.contains src then owner t
    else t.countBus fun k => { k with unknownSource := inc k.unknownSource }
  else s

/-- The 7240 is the addressee of a frame: its broadcast flag is clear and its destination is the station number held (R155,
R161, R168). -/
def State.isAddressee (frame : List Byte) (s : State) : Bool :=
  !Bytes.broadcastFlag frame && Bytes.destination frame == s.status.station

/-- The decision on a well-formed frame addressed to the 7240, its owner's where it reaches it (R155). Before the image is
read it is not accepted, nor counted, a counted CLEAR or not (R160; DEDUCED, log 18); after that, while a counted CLEAR is
asserted, it is counted and not handed on (R158, log 15). -/
def State.judge (owner : State → State × Bool) (s : State) : State × Bool :=
  if s.status.phase = .configLoad then (s, false)
  else if s.cleared then (s.countBus fun k => { k with clearedRefused := inc k.clearedRefused }, false)
  else owner s

/-- A well-formed addressed frame at its end delimiter: the bus enters ACK SLOT, the 7240 driving ACK when it is the
addressee and the owner accepts; a frame to another station is received and its slot never driven (R146, R153 to R155). -/
def State.addressedFrame (frame : List Byte) (owner : State → State × Bool) (s : State) : State :=
  if s.listening then
    let t := (s.received frame).boundary
    let r := if t.isAddressee frame then t.judge owner else (t, false)
    r.1.enterBus (.ackSlot r.2)
  else s

/-- A frame of a kind no station should address to the 7240: counted, not accepted (R155). -/
def State.refuseKind (s : State) : State × Bool :=
  (s.countBus fun k => { k with unexpectedKind := inc k.unexpectedKind }, false)

/-- A well-formed OFFER or BLOCK of another blade, handed on at the end of its slot (R65, R133, R153); one addressed to the
7240 itself reaches neither owner (R154, R155). -/
def State.observedFrame (frame : List Byte) (owner : State → State) (s : State) : State :=
  if s.listening then
    let t := ((s.received frame).enterBus .gap).boundary
    if t.isAddressee frame then (t.judge State.refuseKind).1
    else if t.status.phase = .configLoad then t
    else owner t
  else s

/-- The bus state after an end delimiter, nobody driving ACK here (R146, R157). -/
def afterDelimiter : Delimiter → BusState
  | .addressed => .ackSlot false
  | .broadcast => .gap

/-- The end of the acknowledge slot of a frame the 7240 sent: the bus enters GAP and the tenure is over (R151, R156). -/
def State.endTenure (s : State) : State :=
  ((s.enterBus .gap).boundary).onBus fun b => { b with tenure := none, contestWord := none, txFrame := none }

end Sys2Proof.Machine
end

