-- ==== Sys2Proof/Machine/Startup.lean ====
section
/-! DEFINITION. POWER_ON, the configuration image and the probes (R127, R168 to R171). -/

namespace Sys2Proof.Machine

/-- The outcome of a command. -/
abbrev Result := Host.Outcome State Fault Refusal

/-- A command's outcome from its body: local time passes, the body acts, the standing conditions follow. -/
def State.command (dt : Micros) (body : State → State) (s : State) : Result := .next (body (s.elapse dt)).finish

/-- A bad image: the part enters UNCONFIGURED (R169, R171). -/
def State.enterUnconfigured (s : State) : State := s.onStatus fun u => { u with phase := .unconfigured }

/-- A good image: its fields reach their owners, the clock takes its interval, each listed bridge has its views closed,
the phase becomes PROBE and every channel is probed (R21, R33, R128, R131, R169). -/
def State.takeImage (image : List Byte) (s : State) : State :=
  let config := imageFields image
  (((s.onStatus fun u => { u with phase := .probe, config := some config }).onClock fun c =>
    { c with interval := some (initialInterval config.rateCode) }).onDelivery fun d =>
    { d with views := config.bridges.map fun b => (b, 0) }).probeAll

/-- POWER_ON (R168): the straps are sampled and every block is set to its power-on state. -/
def execPowerOn (straps : Station) (s : State) : Result := .next (State.powerOn straps s.pending)

/-- CONFIG_IMAGE_READ (R169): the image is judged; one delivered later than 10,000 µs after power-on is bad. -/
def execConfigImageRead (dt : Micros) (image : List Byte) (s : State) : Result :=
  s.command dt fun t =>
    if t.status.phase = .configLoad then
      if imageGood image && !t.ran 0 (Config.configTimeout + 1) then t.takeImage image else t.enterUnconfigured
    else t

/-- CONFIG_READ_TIMEOUT (R169): the memory has not delivered the image within 10,000 µs. -/
def execConfigReadTimeout (dt : Micros) (s : State) : Result :=
  s.command dt fun t =>
    if t.status.phase = .configLoad ∧ t.ran 0 Config.configTimeout = true then t.enterUnconfigured else t

/-- A geometry read in progress on the channel: its attempt, or a discarded attempt. -/
def State.probeOn (s : State) (c : ChannelNo) : Option Operation :=
  match (s.chan c).op with
  | some op =>
    (match op.kind with
      | .probe _ => some op
      | .discardedProbe => some op
      | _ => none)
  | none => none

/-- The third attempt of a probe has timed out: the page count is none and the channel goes OFFLINE (R127), where a
directory page that waits for it is unreadable (R124). -/
def State.probeFailed (c : ChannelNo) (s : State) : State :=
  (((s.updChan c fun k => { k with pageCount := none }).enterOffline c).takeWaitingPage c).probeFinished

/-- An attempt of a probe has timed out: it is counted, and the next attempt begins; a third one ends the probe (R127). A
discarded attempt is counted and over (R129). -/
def State.attemptTimedOut (c : ChannelNo) (kind : OperationKind) (s : State) : State :=
  let u := s.countChan c fun k => { k with probeFailures := inc k.probeFailures }
  match kind with
  | .probe n => if n < 3 then u.issue c (.probe (n + 1)) else u.probeFailed c
  | _ => (u.endOp c).afterOperation c

/-- An attempt of a probe has been answered in time: the page count is recorded and the channel chooses (R127); a discarded
attempt's answer is not recorded (R129). -/
def State.attemptAnswered (c : ChannelNo) (kind : OperationKind) (pages : Nat) (s : State) : State :=
  if kind = .discardedProbe then (s.endOp c).afterOperation c
  else (((s.endOp c).updChan c fun k => { k with pageCount := some pages }).afterOperation c).probeFinished

/-- GEOMETRY_READ_ANSWER (R127): an answer within 2,000 µs is taken; by a later one the attempt has timed out, which comes
about at this command where GEOMETRY_READ_TIMEOUT has not come before it (DESIGN CHOICE, log 2). -/
def execGeometryReadAnswer (dt : Micros) (ch : ChannelNo) (pages : Nat) (s : State) : Result :=
  s.command dt fun t =>
    match t.probeOn ch with
    | none => t
    | some op => if t.answerLate op then t.attemptTimedOut ch op.kind else t.attemptAnswered ch op.kind pages

/-- GEOMETRY_READ_TIMEOUT (R127): an attempt without an answer for 2,000 µs. -/
def execGeometryReadTimeout (dt : Micros) (ch : ChannelNo) (s : State) : Result :=
  s.command dt fun t =>
    match t.probeOn ch with
    | none => t
    | some op => if t.ran op.issued Config.pageTimeout then t.attemptTimedOut ch op.kind else t

end Sys2Proof.Machine
end

