-- ==== Sys2Proof/Machine/ClockUnit.lean ====
section
/-! DEFINITION. The studio clock (chapter 2): marks, the mark watch, and TRANSPORT from the clock station. -/

namespace Sys2Proof.Machine

/-- ⌊I/2⌋. -/
def halfInterval (i : Nat) : Nat := i / 2

/-- The clock unit takes edges and TRANSPORT frames: a good image has been read and no counted CLEAR is asserted (R33,
R34). -/
def State.clockTakes (s : State) : Bool := s.status.config.isSome && !s.cleared

/-- A changed count is handed to the stream engine, which tests its heads (R23, R81). -/
def State.handCount (value : Time) (s : State) : State := (s.onClock fun c => { c with sfc := value }).staleTestAll

/-- The step count after a mark applies a pending value where the mark alone would give `plain` (R32). -/
def countStep (plain value : Time) (k : ClockCounts) : ClockCounts :=
  if value = plain then k else { k with steps := inc k.steps }

/-- A mark, real or synthetic, that moves a running count (R25, R26, R27): the pending value when there is one, else
64 more. -/
def State.moveCount (s : State) : State :=
  let plain := s.clock.sfc + 64
  match s.clock.load with
  | some l =>
    ((s.countClock (countStep plain l.value)).onClock fun c => { c with load := none }).handCount l.value
  | none => s.handCount plain

/-- An accepted real mark acts in the current clock state (R24, R25, R27, R29). -/
def State.realMark (s : State) : State :=
  match s.clock.state with
  | .unset =>
    match s.clock.load with
    | some l =>
      ((s.countClock fun k => { k with starts := inc k.starts }).onClock fun c =>
        { c with state := .running, load := none, synthRun := 0 }).handCount l.value
    | none => s
  | .running => s.moveCount
  | .paused =>
    match s.clock.load with
    | some l =>
      if l.kind = .run then
        ((s.countClock (countStep s.clock.sfc l.value)).onClock fun c =>
          { c with state := .running, load := none, synthRun := 0 }).handCount l.value
      else s
    | none => s
  | .flywheel => (s.onClock fun c => { c with state := .running, synthRun := 0 }).moveCount
  | .lost => (s.onClock fun c => { c with state := .running, synthRun := 0 }).moveCount

/-- The mark interval after an accepted edge t (R21): its distance from the last edge when the pairing is open and the
distance is 320 to 3,000 µs, else as it was. -/
def Clock.measure (c : Clock) (t : Time) : Option Nat :=
  match c.lastEdge with
  | some e =>
    if c.pairingOpen ∧ Config.minInterval ≤ signedDiff t e ∧ signedDiff t e ≤ Config.maxInterval then
      some (signedDiff t e).toNat
    else c.interval
  | none => c.interval

/-- The edge at t is a glitch (R20). -/
def Clock.isGlitch (c : Clock) (t : Time) : Bool :=
  match c.lastEdge, c.interval with
  | some e, some i => decide (signedDiff t e < (halfInterval i : Nat))
  | _, _ => false

/-- The watch as an accepted edge at t sets it (R22). -/
def watchAfterEdge (t : Time) (interval : Option Nat) : Option Time :=
  interval.map fun i => t + BitVec.ofNat 32 (i + halfInterval i)

/-- MARK_EDGE (R20): a glitch is counted; an accepted edge measures the interval, is recorded as the last edge, opens
the pairing, sets the watch, and acts as a real mark. -/
def execMarkEdge (dt : Micros) (s : State) : Result :=
  s.command dt fun t =>
    if t.clockTakes then
      if t.clock.isGlitch t.now then t.countClock fun k => { k with glitches := inc k.glitches }
      else
        (t.onClock fun c =>
          { c with interval := c.measure t.now, lastEdge := some t.now, pairingOpen := true
                   watch := watchAfterEdge t.now (c.measure t.now) }).realMark
    else t

/-- A synthetic mark (R26): the run count and the synthetic-mark count rise, the clock is in FLYWHEEL, the watch is set
I after the mark, and the count moves. -/
def State.syntheticMark (s : State) : State :=
  ((s.countClock fun k => { k with synthetic := inc k.synthetic }).onClock fun c =>
    { c with state := .flywheel, synthRun := c.synthRun + 1
             watch := c.interval.map fun i => s.now + BitVec.ofNat 32 i }).moveCount

/-- The watch expires: it closes the pairing and acts by the clock state (R22, R26). -/
def State.watchExpires (s : State) : State :=
  let t := s.onClock fun c => { c with pairingOpen := false, watch := none }
  match s.clock.state with
  | .running => t.syntheticMark
  | .flywheel =>
    if s.clock.synthRun < Config.flywheelRun then t.syntheticMark
    else
      (t.countClock fun k => { k with lost := inc k.lost }).onClock fun c => { c with state := .lost }
  | .unset => t
  | .paused => t
  | .lost => t

/-- WATCH_EXPIRY (R22), when the watch runs and local time has reached its expiry. -/
def execWatchExpiry (dt : Micros) (s : State) : Result :=
  s.command dt fun t =>
    match t.clock.watch with
    | some e => if t.reached e then t.watchExpires else t
    | none => t

/-- A RUN, TIMING or PAUSE reaches the clock unit (R30): ignored while a counted CLEAR is asserted (R34), counted when
it is not from the clock station, else taken. That one from another bridge during a counted CLEAR is not counted as foreign,
where R30 counts it and R34 takes no TRANSPORT frame, is read from R34 (DEDUCED, log 45). -/
def State.transport (src : Station) (taken : State → State) (s : State) : State :=
  if s.clockTakes then
    if (s.status.config.map ConfigImage.clockStation) = some src then taken s
    else s.countClock fun k => { k with foreign := inc k.foreign }
  else s

/-- A load armed, replacing any load pending (R30). -/
def State.arm (kind : LoadKind) (value : Time) (s : State) : State :=
  s.onClock fun c => { c with load := some { kind := kind, value := value } }

/-- RUN (R30): a pending RUN in every clock state. -/
def execRun (heard : Heard) (src : Station) (value : Time) (s : State) : Result :=
  s.command heard.dt (State.broadcastFrame heard.frame src (State.transport src (State.arm .run value)))

/-- TIMING (R30): a pending RUN in UNSET, ignored and counted in PAUSED, else a pending TIMING. -/
def State.takeTiming (value : Time) (s : State) : State :=
  match s.clock.state with
  | .unset => s.arm .run value
  | .paused => s.countClock fun k => { k with ignoredTiming := inc k.ignoredTiming }
  | .running => s.arm .timing value
  | .flywheel => s.arm .timing value
  | .lost => s.arm .timing value

/-- TIMING (R30). -/
def execTiming (heard : Heard) (src : Station) (value : Time) (s : State) : Result :=
  s.command heard.dt (State.broadcastFrame heard.frame src (State.transport src (State.takeTiming value)))

/-- A PAUSE taken (R31): any pending load is discarded; RUNNING, FLYWHEEL and LOST enter PAUSED. -/
def State.takePause (s : State) : State :=
  let t := s.onClock fun c => { c with load := none }
  match s.clock.state with
  | .unset => t
  | .paused => t
  | .running => t.onClock fun c => { c with state := .paused, synthRun := 0 }
  | .flywheel => t.onClock fun c => { c with state := .paused, synthRun := 0 }
  | .lost => t.onClock fun c => { c with state := .paused, synthRun := 0 }

/-- PAUSE (R31). -/
def execPause (heard : Heard) (src : Station) (s : State) : Result :=
  s.command heard.dt (State.broadcastFrame heard.frame src (State.transport src State.takePause))

end Sys2Proof.Machine
end

