-- ==== Sys2Proof/Machine/CueUnit.lean ====
section
/-! DEFINITION. Cues, releases and the offer contest (chapter 4 and 5.5): CUE, RELEASE, STOP_ALL, OFFER_OBSERVED,
OFFER_EXPIRY. -/

namespace Sys2Proof.Machine

/-! ### Taking a CUE (R55 to R61) -/

/-- A context holding the id is superseded (R58). -/
def State.supersede (id : StreamId) (s : State) : State :=
  match s.findStream id with
  | some i => (s.silentFree i).countCue fun k => { k with superseded := inc k.superseded }
  | none => s

/-- The record of a zone, none while a load is in progress (R11). -/
def State.zoneRecord (s : State) (zone : Zone) : Option ZoneRecord :=
  match s.dir.load with
  | some _ => none
  | none => s.dir.table.find? fun r => r.zone == zone

/-- The clamps counted: each one that changes a value (R36 to R38). -/
def State.countClamps (f : CueFields) (s : State) : State :=
  s.countClamp fun k =>
    { rate := if clampRate f.rate = f.rate.toNat then k.rate else inc k.rate
      depth := if clampDepth f.depth = f.depth.toNat then k.depth else inc k.depth
      origin := if clampOrigin s.clock.sfc f.origin = f.origin then k.origin else inc k.origin }

/-- The context an admission writes (R61). -/
def admittedContext (f : CueFields) (record : ZoneRecord) (origin : Time) (expiry : Time) : Context :=
  let base : Context :=
    { id := f.id, zone := record, f0 := f.f0, origin := origin, rate := clampRate f.rate
      depth := clampDepth f.depth, demand := demandOf (clampRate f.rate) record.format
      lane := takeLane f.lane, policy := takePolicy f.policy
      activeLoop := (match record.loop with | some l => decide (f.f0.toNat < l.stop) | none => false)
      state := .contending, releaseMode := .none, exitPass := none, cutDistance := none
      gen := { part := .first, k := 0, pos := 0, index := 0, overrun := 0, closed := false }
      window := [], delivered := 0, dropped := 0, patched := 0, nacks := 0, endReason := none
      offer := some { phase := .queued, expiry := expiry, lapsed := false } }
  { base with gen := base.firstGenerator }

/-- The admission of a CUE whose zone was found, its clamps counted (R60, R61). -/
def State.weighCue (f : CueFields) (record : ZoneRecord) (s : State) : State :=
  let c := admittedContext f record (clampOrigin s.clock.sfc f.origin)
    (s.now + BitVec.ofNat 32 Config.offerExpiry)
  match Sparse.lowestFree s.streams.contexts Config.contexts with
  | none => s.countCue fun k => { k with contextDeclined := inc k.contextDeclined }
  | some i =>
    if s.capacity < s.cue.demandSum + c.demand then
      s.countCue fun k => { k with capacityDeclined := inc k.capacityDeclined }
    else
      (((s.putCtx i c).onCue fun u => { u with demandSum := u.demandSum + c.demand }).countCue fun k =>
        { k with taken := inc k.taken }).onBus fun b => { b with offers := b.offers ++ [i] }

/-- The match, lookup, clamp and admission stages (R59, R60). -/
def State.cueStages (f : CueFields) (s : State) : State :=
  if (s.status.config.map fun c => c.zonePasses f.zone) = some true then
    match s.zoneRecord f.zone with
    | some record => (s.countClamps f).weighCue f record
    | none => s.countCue fun k => { k with absent := inc k.absent }
  else s.countCue fun k => { k with matchIgnored := inc k.matchIgnored }

/-- A CUE handed to the cue unit goes through the stages of 4.2 in order (R55). -/
def State.takeCue (src : Station) (f : CueFields) (s : State) : State :=
  if s.status.phase ≠ .serving ∨ s.cleared = true then
    s.countCue fun k => { k with phaseIgnored := inc k.phaseIgnored }
  else if stationPart f.id ≠ src then s.countCue fun k => { k with idMismatch := inc k.idMismatch }
  else (s.supersede f.id).cueStages f

/-- CUE (R55). -/
def execCue (heard : Heard) (src : Station) (fields : CueFields) (s : State) : Result :=
  s.command heard.dt (State.broadcastFrame heard.frame src (State.takeCue src fields))

/-! ### Releases (R69, R84 to R87) -/

/-- A RELEASE ignored (R84). -/
def State.ignoreRelease (s : State) : State :=
  s.countStreams fun k => { k with ignoredRelease := inc k.ignoredRelease }

/-- A CUT acted on (R84, R87). -/
def State.actCut (i : Nat) (c : Context) (time : Time) (s : State) : State :=
  (s.countStreams fun k => { k with cut := inc k.cut }).cutStream i c (c.distanceAt time)

/-- A PLAYOUT acted on by a LOOPING context (R84, R85). -/
def State.actPlayout (i : Nat) (c : Context) (time : Time) (s : State) : State :=
  let t := s.countStreams fun k => { k with playout := inc k.playout }
  match c.loop? with
  | some l => t.playoutLooping i c l (c.distanceAt time)
  | none => t

/-- A PLAYOUT acted on by a RUNNING context: only its release mode changes (R86). -/
def State.notePlayout (i : Nat) (s : State) : State :=
  (s.countStreams fun k => { k with playout := inc k.playout }).updCtx i fun x => { x with releaseMode := .playout }

/-- The table of R84 for a context found by its id. -/
def State.releaseContext (i : Nat) (c : Context) (f : ReleaseFields) (s : State) : State :=
  match c.state, takeMode f.mode, c.releaseMode with
  | .contending, _, _ => (s.silentFree i).countCue fun k => { k with released := inc k.released }
  | .looping, .playout, _ => s.actPlayout i c f.time
  | .looping, _, _ => s.actCut i c f.time
  | .running, .playout, .none => s.notePlayout i
  | .running, .playout, _ => s.ignoreRelease
  | .running, _, .cut => s.ignoreRelease
  | .running, _, _ => s.actCut i c f.time
  | .spent, _, _ => s.ignoreRelease

/-- A RELEASE handed to the cue unit and the stream engine (R84). -/
def State.takeRelease (f : ReleaseFields) (s : State) : State :=
  match s.findStream f.id with
  | none => s.countStreams fun k => { k with unmatchedRelease := inc k.unmatchedRelease }
  | some i =>
    match s.ctx? i with
    | some c => s.releaseContext i c f
    | none => s

/-- RELEASE (R84). -/
def execRelease (heard : Heard) (src : Station) (fields : ReleaseFields) (s : State) : Result :=
  s.command heard.dt (State.broadcastFrame heard.frame src (State.takeRelease fields))

/-! ### STOP-ALL (R70, R93) -/

/-- The contexts of a bridge, by the station part of their ids, in rising context number. -/
def State.contextsOf (s : State) (src : Station) : List Nat :=
  (s.streams.contexts.filter fun p => stationPart p.2.id == src).map Prod.fst

/-- Every context of the sending bridge is freed without notice, each counted as stopped (R70, R93). -/
def State.takeStopAll (src : Station) (s : State) : State :=
  (s.contextsOf src).foldl (fun t i => (t.silentFree i).countCue fun k => { k with stopped := inc k.stopped }) s

/-- STOP_ALL (R93). -/
def execStopAll (heard : Heard) (src : Station) (s : State) : Result :=
  s.command heard.dt (State.broadcastFrame heard.frame src (State.takeStopAll src))

/-! ### Other blades' OFFERs (R65, R66) -/

/-- An acknowledged OFFER of another blade frees the context here that holds its id (R66). -/
def State.takeOverBy (id : StreamId) (s : State) : State :=
  match s.findStream id with
  | none => s
  | some i =>
    match s.ctx? i with
    | none => s
    | some c =>
      (s.silentFree i).countCue fun k =>
        if c.state = .contending then { k with lostToMirror := inc k.lostToMirror }
        else { k with takenOver := inc k.takenOver }

/-- OFFER_OBSERVED (R66): the slot of another blade's OFFER ends; a slot read as NACK changes no context (R65). -/
def execOfferObserved (heard : Heard) (id : StreamId) (reading : Reading) (s : State) : Result :=
  s.command heard.dt (State.observedFrame heard.frame fun t =>
    match reading with
    | .ack => t.takeOverBy id
    | .nack => t)

/-! ### Expiry (R68) -/

/-- A context freed as expired (R67, R68). -/
def State.expireOffer (i : Nat) (s : State) : State :=
  (s.silentFree i).countCue fun k => { k with expired := inc k.expired }

/-- The expiry of an offer by its phase (R68). -/
def State.offerExpires (i : Nat) (o : OfferRecord) (s : State) : State :=
  match o.phase with
  | .queued => s.expireOffer i
  | .presented => s.updCtx i fun x => { x with offer := x.offer.map fun r => { r with lapsed := true } }
  | .sent => s

/-- OFFER_EXPIRY (R68), when local time has reached the expiry time of a CONTENDING context. -/
def execOfferExpiry (dt : Micros) (ctx : Nat) (s : State) : Result :=
  s.command dt fun t =>
    match (t.ctx? ctx).bind Context.offer with
    | some o => if t.reached o.expiry then t.offerExpires ctx o else t
    | none => t

end Sys2Proof.Machine
end

