-- ==== Sys2Proof/Machine/StateRecord.lean ====
section
/-! DEFINITION. The STATE record (R172 to R174). -/

namespace Sys2Proof.Machine

/-- The phase codes of byte 0. -/
def Phase.code : Phase → Nat
  | .configLoad => 1
  | .probe => 2
  | .directoryLoad => 3
  | .serving => 4
  | .service => 5
  | .unconfigured => 6

/-- The clock state codes of byte 3. -/
def ClockState.code : ClockState → Nat
  | .unset => 0
  | .running => 1
  | .paused => 2
  | .flywheel => 3
  | .lost => 4

/-- Byte 2: bit 7 driven, bits 0 to 3 the causes. -/
def State.faultByte (s : State) : Nat :=
  (if s.status.faultDriven then 128 else 0)
    + (s.faultCauses.zipIdx.map fun p => if p.1 then 2 ^ p.2 else 0).sum

/-- A group of counts, four bytes each. -/
def countBytes (counts : List Count) : List Byte := counts.flatMap fun c => Bytes.be 4 c.toNat

def BusCounts.list (k : BusCounts) : List Count :=
  [k.won, k.lost, k.empty, k.broken, k.sentOffer, k.sentBlock, k.sentNotice, k.sentState, k.refusedOffer,
    k.refusedBlock, k.refusedNotice, k.refusedState, k.checkFailures, k.malformed, k.unknownSource, k.unexpectedKind,
    k.queriesTaken, k.clearedRefused, k.shortClears, k.clears, k.busStuck]
def DirectoryCounts.list (k : DirectoryCounts) : List Count :=
  [k.loads, k.lengthSkips, k.formatSkips, k.orderSkips, k.matchSkips, k.droppedLoops, k.shortRecords, k.unreadable,
    k.refusedService, k.refusedStore, k.written, k.badAddress, k.programFailed]
def ClockCounts.list (k : ClockCounts) : List Count :=
  [k.glitches, k.synthetic, k.lost, k.starts, k.steps, k.foreign, k.ignoredTiming]
def ClampCounts.list (k : ClampCounts) : List Count := [k.rate, k.depth, k.origin]
def CueCounts.list (k : CueCounts) : List Count :=
  [k.phaseIgnored, k.idMismatch, k.superseded, k.matchIgnored, k.absent, k.contextDeclined, k.capacityDeclined,
    k.taken, k.offersWon, k.offersRefused, k.lostToMirror, k.takenOver, k.expired, k.released, k.stopped]
def StreamCounts.list (k : StreamCounts) : List Count :=
  [k.created, k.delivered, k.dropped, k.withdrawn, k.endComplete, k.endCut, k.endEmpty, k.endFault, k.endAbandoned,
    k.endSent, k.playout, k.cut, k.ignoredRelease, k.unmatchedRelease]
def CacheCounts.list (k : CacheCounts) : List Count :=
  [k.validHit, k.fillingHit, k.patchedShare, k.miss, k.reclaim, k.validFill, k.patchedFill, k.patchedRelease, k.cancel]
def DeliveryCounts.list (k : DeliveryCounts) : List Count :=
  [k.readyTaken, k.readyIgnored, k.foreignBlock, k.viewWipe, k.blocksSent, k.blocksAcknowledged, k.blocksRefused,
    k.phantomBlock, k.patchedDelivered]
def ChannelCounts.list (k : ChannelCounts) : List Count :=
  [k.good, k.corrected, k.uncorrectable, k.timeout, k.beyondExtent, k.patchedPages, k.offlinePatched, k.begun,
    k.breakIns, k.completed, k.cancels, k.offlineEntries, k.probeFailures]

/-- The channel state codes: 0 IDLE, 1 READING, 2 OFFLINE (R115, R173). -/
def Channel.stateCode (ch : Channel) : Nat := if ch.offline then 2 else if ch.op.isSome then 1 else 0

/-- A channel's 64 bytes (R173). -/
def Channel.record (ch : Channel) : List Byte :=
  Bytes.be 1 ch.stateCode ++ Bytes.be 1 ch.timeouts ++ Bytes.be 1 ch.partials.length ++ Bytes.be 1 0
    ++ Bytes.orNone 4 ch.pageCount ++ Bytes.be 4 ch.queue.length ++ countBytes ch.counts.list

/-- Bytes 11 and 16 to 39: the configuration image's fields, 0 without an image; a listed-bridge byte beyond the
bridge count has no value (log 13). -/
def configBytes : Option ConfigImage → List Byte × List Byte
  | none => (Bytes.be 1 0, List.replicate 24 0)
  | some c =>
    (Bytes.be 1 c.bridges.length,
      (List.range 4).flatMap (fun i => Bytes.orNone 1 (c.bridges[i]?.map BitVec.toNat))
        ++ Bytes.be 1 c.clockStation.toNat ++ Bytes.be 1 c.rateCode.toNat ++ Bytes.be 1 c.gapCode.toNat
        ++ Bytes.be 1 0 ++ Bytes.be 2 c.lead.toNat ++ Bytes.be 2 c.margin.toNat ++ Bytes.be 2 c.capacity.toNat
        ++ Bytes.be 2 0 ++ Bytes.be 3 c.zoneMatch.toNat ++ Bytes.be 3 c.zoneMask.toNat ++ Bytes.be 2 0)

/-- The number of set bits of a word. -/
def setBits {w : Nat} (x : BitVec w) : Nat := ((List.range w).filter x.getLsbD).length

/-- The contexts in one state that is not FREE. -/
def State.contextsIn (s : State) (st : ContextState) : Nat :=
  (s.streams.contexts.filter fun p => p.2.state == st).length

/-- The slots in one state that is not EMPTY. -/
def State.slotsIn (s : State) (st : SlotState) : Nat := (s.cache.slots.filter fun p => p.2.state == st).length

/-- The length of the free list (R99). -/
def Cache.freeLength (c : Cache) : Nat := (Config.slots - c.freeNext) + c.freeTail.length

/-- The 1,024-byte STATE record (R173), every field read at this one instant (R172). The open views of a list place
without a bridge, all four in UNCONFIGURED, have no value and are sent as all ones (DESIGN CHOICE, log 13). -/
def State.record (s : State) : List Byte :=
  let config := configBytes s.status.config
  Bytes.be 1 s.status.phase.code ++ Bytes.be 1 s.status.station.toNat ++ Bytes.be 1 s.faultByte
    ++ Bytes.be 1 s.clock.state.code ++ Bytes.be 4 s.clock.sfc.toNat ++ Bytes.orNone 2 s.clock.interval
    ++ Bytes.orNone 1 (s.dir.serviceStation.map BitVec.toNat) ++ config.1 ++ Bytes.be 4 s.clock.localTime.toNat
    ++ config.2
    ++ Bytes.be 2 (Config.contexts - s.streams.contexts.length) ++ Bytes.be 2 (s.contextsIn .contending)
    ++ Bytes.be 2 (s.contextsIn .running) ++ Bytes.be 2 (s.contextsIn .looping) ++ Bytes.be 2 (s.contextsIn .spent)
    ++ Bytes.be 2 s.cue.demandSum
    ++ (List.range 4).flatMap (fun i => Bytes.orNone 1 (s.delivery.views[i]?.map fun v => setBits v.2))
    ++ Bytes.be 2 s.bus.offers.length ++ Bytes.be 2 s.bus.notices.length ++ Bytes.be 1 (setBits s.bus.requests)
    ++ Bytes.be 3 0
    ++ Bytes.be 4 (Config.slots - s.cache.slots.length) ++ Bytes.be 4 (s.slotsIn .filling)
    ++ Bytes.be 4 (s.slotsIn .valid) ++ Bytes.be 4 (s.slotsIn .patched)
    ++ Bytes.be 4 s.cache.freeLength ++ Bytes.be 4 s.cache.reclaim.length
    ++ Bytes.be 4 (s.cache.slots.filter fun p => p.2.refs != 0).length
    ++ Bytes.be 4 s.fetch.extent ++ Bytes.be 4 s.dir.table.length ++ List.replicate 28 0
    ++ channels.flatMap (fun c => (s.chan c).record)
    ++ countBytes (s.dir.counts.list ++ s.clock.counts.list ++ s.cue.clamps.list ++ s.cue.counts.list
      ++ s.streams.counts.list ++ s.cache.counts.list ++ s.delivery.counts.list ++ s.bus.counts.list
      ++ [s.status.faultOnset])
    ++ List.replicate 16 0

end Sys2Proof.Machine
end

