-- ==== Sys2Proof/Machine/Lanes.lean ====
section
/-! DEFINITION. Lanes and block delivery (chapter 8): READY, BLOCK_OBSERVED, the BLOCK candidate, the acknowledges of
the blade's own BLOCK. -/

namespace Sys2Proof.Machine

/-- A READY taken: the sender's 64 views take the values of the open set; while a counted CLEAR is asserted it is only
counted (R132, R136). -/
def State.takeReady (src : Station) (openSet : LaneSet) (s : State) : State :=
  if s.cleared then s.countDelivery fun k => { k with readyIgnored := inc k.readyIgnored }
  else
    (s.onDelivery fun d => { d with views := d.views.map fun v => if v.1 = src then (v.1, openSet) else v }).countDelivery
      fun k => { k with readyTaken := inc k.readyTaken }

/-- READY (R132). -/
def execReady (heard : Heard) (src : Station) (openSet : LaneSet) (s : State) : Result :=
  s.command heard.dt (State.broadcastFrame heard.frame src (State.takeReady src openSet))

/-- BLOCK_OBSERVED (R133): the slot of another blade's BLOCK ends; read as ACK it closes the view of the destination at
the lane, taken from bits 5-0 (R166), and is counted; in UNCONFIGURED (R154, R171) and while a counted CLEAR is asserted
(R136) it changes nothing. That it is counted in every other phase after CONFIG-LOAD is read from the rules' silence (DEDUCED,
log 16). -/
def execBlockObserved (heard : Heard) (dest : Station) (lane : Byte) (reading : Reading) (s : State) : Result :=
  s.command heard.dt (State.observedFrame heard.frame fun t =>
    match reading with
    | .ack =>
      if t.status.phase = .unconfigured ∨ t.cleared = true then t
      else (t.closeLane dest (takeLane lane)).countDelivery fun k => { k with foreignBlock := inc k.foreignBlock }
    | .nack => t)

/-- Every lane view wiped by a damaged frame (R135). -/
def State.wipeViews (s : State) : State := s.closeViews.countDelivery fun k => { k with viewWipe := inc k.viewWipe }

/-! ### The BLOCK candidate (R137 to R139) -/

/-- The heads that pass the four tests, by context number (R137). -/
def State.contenders (s : State) : List (Nat × Context × Entry) :=
  s.streams.contexts.filterMap fun p => match p.2.window with
    | e :: _ => if s.contends p.2 e then some (p.1, p.2, e) else none
    | [] => none

/-- Contender x is chosen before contender y: less slack, or equal slack and the lower stream id (R138). -/
def chosenBefore (sfc : Time) (x y : Nat × Context × Entry) : Bool :=
  decide (x.2.2.slack sfc < y.2.2.slack sfc)
    || (decide (x.2.2.slack sfc = y.2.2.slack sfc) && decide (x.2.1.id < y.2.1.id))

/-- The contender chosen among several (R138). -/
def bestContender (sfc : Time) : List (Nat × Context × Entry) → Option (Nat × Context × Entry)
  | [] => none
  | x :: rest =>
    match bestContender sfc rest with
    | none => some x
    | some y => if chosenBefore sfc y x then some y else some x

/-- The flags byte of a BLOCK: bit 7 PHANTOM, bits 2-0 the patched-page set (R165). -/
def blockFlags (e : Entry) : Byte := (if e.phantom then 0x80#8 else 0#8) ||| e.patched.zeroExtend 8

/-- The BLOCK frame of a head, its data to be read at the win (R139). -/
def State.blockFrame (s : State) (c : Context) (e : Entry) : WireFrame where
  urgency := urgencyOf (e.slack s.clock.sfc)
  source := s.status.station
  dest := stationPart c.id
  body := .block
    { id := c.id, lane := c.lane.zeroExtend 8, flags := blockFlags e, k := BitVec.ofNat 16 e.k
      pass := BitVec.ofNat 16 e.part.passNumber, data := [] }

/-- The head's bus phase changed (R79). -/
def Context.setHeadPhase (phase : BusPhase) (c : Context) : Context :=
  { c with window := (match c.window with
      | e :: rest => { e with busPhase := phase } :: rest
      | [] => []) }

/-- The head of the context when its frame is on the bus (R141, R142). -/
def Context.sentHead (c : Context) : Option Entry :=
  match c.window with
  | e :: _ => if e.busPhase = .sent then some e else none
  | [] => none

/-! ### The acknowledge of the blade's own BLOCK (R141 to R144) -/

/-- The lane of the BLOCK a tenure carries, with its destination closed (R133, R134). -/
def State.closeFrameLane (frame : WireFrame) (s : State) : State :=
  match frame.body with
  | .block b => s.closeLane frame.dest (takeLane b.lane)
  | _ => s

/-- The counts of a delivery by the frame's flags (R141). -/
def DeliveryCounts.countDelivered (frame : WireFrame) (k : DeliveryCounts) : DeliveryCounts :=
  match frame.body with
  | .block b =>
    { k with blocksAcknowledged := inc k.blocksAcknowledged
             phantomBlock := if b.flags.getLsbD 7 then inc k.phantomBlock else k.phantomBlock
             patchedDelivered := if b.flags &&& 7#8 ≠ 0 then inc k.patchedDelivered else k.patchedDelivered }
  | _ => k

/-- The head taken by its bridge (R80, R141): removed as delivered, its reference released, and what follows. -/
def State.deliverHead (i : Nat) (e : Entry) (s : State) : State :=
  ((((s.updCtx i fun x => { x with window := x.window.tail, delivered := inc x.delivered }).releaseEntry e).countStreams
    fun k => { k with delivered := inc k.delivered })).serveNow i true

/-- The ACK of an own BLOCK: the view is closed, and when the stream still holds the head that was SENT, the NACK count
returns to 0, the counts rise and the head is delivered (R141, R144). -/
def State.blockAcked (i : Nat) (frame : WireFrame) (s : State) : State :=
  let t := s.closeFrameLane frame
  match (t.ctx? i).bind Context.sentHead with
  | none => t
  | some e =>
    ((t.updCtx i fun x => { x with nacks := 0 }).countDelivery (DeliveryCounts.countDelivered frame)).deliverHead i e

/-- The NACK of an own BLOCK: the view is closed, and when the stream still holds the head that was SENT, the NACK
count rises and the head is tested for staleness, or the fourth one in a row ends the stream (R142 to R144). -/
def State.blockNacked (i : Nat) (frame : WireFrame) (s : State) : State :=
  let t := s.closeFrameLane frame
  match t.ctx? i with
  | none => t
  | some c =>
    match c.sentHead with
    | none => t
    | some _ =>
      let u := (t.updCtx i fun x => { x.setHeadPhase .none with nacks := x.nacks + 1 }).countDelivery fun k =>
        { k with blocksRefused := inc k.blocksRefused }
      if c.nacks + 1 < 4 then u.staleTest i else u.enterSpent i .abandoned

/-- OWN_BLOCK_ACK (R141). -/
def execOwnBlockAck (dt : Micros) (s : State) : Result :=
  s.command dt fun t =>
    match t.bus.tenure with
    | some { item := .block i _, frame := frame, sent := true } => t.endTenure.blockAcked i frame
    | _ => t

/-- OWN_BLOCK_NACK (R142). The bus port counts the refused frame also where a CLEAR has freed the stream and its owner
ignores the reading (DEDUCED, log 41). -/
def execOwnBlockNack (dt : Micros) (s : State) : Result :=
  s.command dt fun t =>
    match t.bus.tenure with
    | some { item := .block i _, frame := frame, sent := true } =>
      (t.endTenure.countBus fun k => { k with refusedBlock := inc k.refusedBlock }).blockNacked i frame
    | _ => t

end Sys2Proof.Machine
end

