-- ==== Sys2Proof/Machine/Bus.lean ====
section
/-! DEFINITION. The Stave bus (chapter 9): contests, the 7240's own frames, damaged and malformed frames, the bus
states, the bus-stuck watch, and the frames addressed to the 7240 that no other file takes. -/

namespace Sys2Proof.Machine

/-! ### What the 7240 presents (R62, R90, R139, R150) -/

/-- The reason code of an END notice (R165). -/
def EndReason.code : EndReason → Byte
  | .complete => 1
  | .cut => 2
  | .empty => 3
  | .fault => 4
  | .abandoned => 5

/-- The outcome code of a STORED notice (R165). -/
def StoreOutcome.code : StoreOutcome → Byte
  | .written => 1
  | .badAddress => 2
  | .programFailed => 3

/-- The OFFER of a context (R62). -/
def State.offerFrame (s : State) (c : Context) : WireFrame where
  urgency := BitVec.ofNat 8 (loadFigure s.cue.demandSum s.capacity)
  source := s.status.station
  dest := stationPart c.id
  body := .offer c.id c.zone.zone

/-- The frame of a notice, urgency 0 (R90, R17). -/
def State.noticeFrame (s : State) : Notice → WireFrame
  | .ended _ id reason delivered dropped patched =>
    { urgency := 0, source := s.status.station, dest := stationPart id
      body := .endNotice id reason.code delivered dropped patched }
  | .stored dest address outcome =>
    { urgency := 0, source := s.status.station, dest := dest, body := .storedNotice address outcome.code }

/-- The item a notice at the head of its queue is presented as. -/
def Notice.item : Notice → OwnItem
  | .ended i _ _ _ _ _ => .ended i
  | .stored _ _ _ => .stored

/-- The lowest-numbered station in the state-request set. -/
def lowestRequest (requests : BitVec 16) : Option Nat := (List.range 16).find? fun i => requests.getLsbD i

/-- The STATE for a station, urgency 0; its record is filled in at the win (R150, R151). -/
def State.stateFrame (s : State) (dest : Nat) : WireFrame where
  urgency := 0
  source := s.status.station
  dest := BitVec.ofNat 4 dest
  body := .state []

/-- The class 4 candidate: the OFFER of the context at the head of the offer queue. -/
def State.offerCandidate (s : State) : Option (OwnItem × WireFrame) :=
  match s.bus.offers with
  | i :: _ => (s.ctx? i).map fun c => (.offer i, s.offerFrame c)
  | [] => none

/-- The class 5 candidate: the delivery unit's choice. -/
def State.blockCandidate (s : State) : Option (OwnItem × WireFrame) :=
  (bestContender s.clock.sfc s.contenders).map fun x => (.block x.1 x.2.2.slot, s.blockFrame x.2.1 x.2.2)

/-- The class 6 candidate: the notice at the head of the notice queue. -/
def State.noticeCandidate (s : State) : Option (OwnItem × WireFrame) :=
  s.bus.notices.head?.map fun n => (n.item, s.noticeFrame n)

/-- The class 7 candidate: the STATE for the lowest-numbered asking station. -/
def State.stateCandidate (s : State) : Option (OwnItem × WireFrame) :=
  (lowestRequest s.bus.requests).map fun i => (.state, s.stateFrame i)

/-- The candidate of the lowest class present (R150). -/
def State.candidate (s : State) : Option (OwnItem × WireFrame) :=
  s.offerCandidate.orElse fun _ => s.blockCandidate.orElse fun _ => s.noticeCandidate.orElse fun _ => s.stateCandidate

/-- The offer phase of context i changed, when it is CONTENDING (R53, R62). -/
def State.setOfferPhase (i : Nat) (phase : OfferPhase) (s : State) : State :=
  s.updCtx i fun c => { c with offer := c.offer.map fun o => { o with phase := phase } }

/-- The presented item's phase becomes PRESENTED (R62, R140). -/
def State.markPresented (item : OwnItem) (s : State) : State :=
  match item with
  | .offer i => s.setOfferPhase i .presented
  | .block i _ => s.updCtx i (Context.setHeadPhase .presented)
  | .ended _ => s
  | .stored => s
  | .state => s

/-- The candidate presented: its word becomes the current contest word (R150). -/
def State.present (p : OwnItem × WireFrame) (s : State) : State :=
  (s.markPresented p.1).onBus fun b =>
    { b with contestWord := some p.2.word, tenure := some { item := p.1, frame := p.2, sent := false } }

/-- The 7240 forms its word (R150): the stale drops of the delivery unit's choice, then the candidate of the lowest
class; with none it drives nothing. -/
def State.formWord (s : State) : State :=
  let t := s.staleTestAll
  match t.candidate with
  | some p => t.present p
  | none => t

/-- A contest start can come: the bus stands in GAP or FREE, or the 7240 has just sent a start bit (R146, R148). -/
def State.contestOpens (s : State) : Bool := s.bus.state == .gap || s.bus.state == .free || s.bus.startBit

/-- CONTEST_START (R148, R150). The bus-stuck watch restarts and an episode ends here, for a start bit of the 7240's own too
(R159; DESIGN CHOICE, log 28). -/
def execContestStart (dt : Micros) (s : State) : Result :=
  s.command dt fun t =>
    if t.contestOpens then
      let u := ((t.enterBus .busy).boundary).discardFrame
      if u.mayContend then u.formWord else u
    else t

/-! ### The end of the word (R151, R152, R147) -/

/-- The data of a BLOCK: the slot's bytes, or zeros for a phantom head (R139). -/
def State.blockData (s : State) : Option SlotNo → List Byte
  | some n => s.slotData n
  | none => List.replicate Config.blockBytes 0

/-- A body with the part that is fixed only at the win (R139, R151, R172). -/
def State.fillBody (s : State) (item : OwnItem) (body : FrameBody) : FrameBody :=
  match item, body with
  | .block _ slot, .block b => .block { b with data := s.blockData slot }
  | .state, .state _ => .state s.record
  | _, b => b

/-- The frames-sent count of a class raised (R151). -/
def BusCounts.countSent (item : OwnItem) (k : BusCounts) : BusCounts :=
  match item with
  | .offer _ => { k with sentOffer := inc k.sentOffer }
  | .block _ _ => { k with sentBlock := inc k.sentBlock }
  | .ended _ => { k with sentNotice := inc k.sentNotice }
  | .stored => { k with sentNotice := inc k.sentNotice }
  | .state => { k with sentState := inc k.sentState }

/-- The head of the notice queue leaves it when it is a STORED notice. -/
def popStored : List Notice → List Notice
  | .stored _ _ _ :: rest => rest
  | other => other

/-- A station leaves the state-request set. -/
def clearRequest (dest : Station) (requests : BitVec 16) : BitVec 16 := requests &&& ~~~(1#16 <<< dest.toNat)

/-- The presented item leaves its queue (R62, R140, R151). -/
def State.leaveQueue (item : OwnItem) (frame : WireFrame) (s : State) : State :=
  match item with
  | .offer i => (s.onBus fun b => { b with offers := b.offers.filter (· != i) }).setOfferPhase i .sent
  | .block i _ =>
    (s.updCtx i (Context.setHeadPhase .sent)).countDelivery fun k => { k with blocksSent := inc k.blocksSent }
  | .ended i => s.onBus fun b => { b with notices := dropEnd i b.notices }
  | .stored => s.onBus fun b => { b with notices := popStored b.notices }
  | .state => s.onBus fun b => { b with requests := clearRequest frame.dest b.requests }

/-- The 7240 wins (R151): the contest is counted, the item leaves its queue, a STATE takes its snapshot (log 14), and
the frame goes out whole and is counted. -/
def State.winContest (t : Tenure) (s : State) : State :=
  let left := (s.countBus fun k => { k with won := inc k.won }).leaveQueue t.item t.frame
  let frame := { t.frame with body := left.fillBody t.item t.frame.body }
  (left.countBus (BusCounts.countSent t.item)).onBus fun b =>
    { b with tenure := some { item := t.item, frame := frame, sent := true }, txFrame := some (encodeFrame frame) }

/-- CONTEST_WON (R151), when a frame of the 7240's is presented. -/
def execContestWon (dt : Micros) (s : State) : Result :=
  s.command dt fun t =>
    match t.bus.tenure with
    | some w => if w.sent then t else t.winContest w
    | none => t

/-- A lost OFFER: back to QUEUED in its place, or freed as expired when its expiry came while it was PRESENTED (R62,
R68). -/
def State.offerLost (i : Nat) (s : State) : State :=
  match (s.ctx? i).bind Context.offer with
  | some o => if o.lapsed then s.expireOffer i else s.setOfferPhase i .queued
  | none => s

/-- The 7240 loses (R152): the contest is counted, the word becomes none, the item stays where it was; a BLOCK's head
returns to bus phase none and is tested for staleness. -/
def State.loseContest (t : Tenure) (s : State) : State :=
  let u := (s.countBus fun k => { k with lost := inc k.lost }).onBus fun b =>
    { b with contestWord := none, tenure := none }
  match t.item with
  | .offer i => u.offerLost i
  | .block i _ => (u.updCtx i (Context.setHeadPhase .none)).staleTest i
  | .ended _ => u
  | .stored => u
  | .state => u

/-- CONTEST_LOST (R152), when a frame of the 7240's is presented. -/
def execContestLost (dt : Micros) (s : State) : Result :=
  s.command dt fun t =>
    match t.bus.tenure with
    | some w => if w.sent then t else t.loseContest w
    | none => t

/-- EMPTY_CONTEST (R147), in a contest in which the 7240 presents nothing. -/
def execEmptyContest (dt : Micros) (s : State) : Result :=
  s.command dt fun t =>
    if t.bus.state = .busy ∧ t.bus.startBit = false ∧ t.bus.tenure = none then
      (t.countBus fun k => { k with empty := inc k.empty }).enterBus .gap
    else t

/-! ### The slots of the 7240's own frames (R63, R64, R91, R156) -/

/-- The offer of a context is SENT (R63, R64). -/
def Context.offerSent (c : Context) : Bool :=
  match c.offer with
  | some o => c.state == .contending && o.phase == .sent
  | none => false

/-- The ACK of an own OFFER: a context still CONTENDING and SENT passes to the stream engine (R63). -/
def State.offerAcked (i : Nat) (s : State) : State :=
  match s.ctx? i with
  | some c =>
    if c.offerSent then (s.countCue fun k => { k with offersWon := inc k.offersWon }).takeStream i c else s
  | none => s

/-- The NACK of an own OFFER: a context still CONTENDING and SENT is freed (R64). -/
def State.offerNacked (i : Nat) (s : State) : State :=
  match s.ctx? i with
  | some c =>
    if c.offerSent then (s.silentFree i).countCue fun k => { k with offersRefused := inc k.offersRefused } else s
  | none => s

/-- OWN_OFFER_ACK (R63). -/
def execOwnOfferAck (dt : Micros) (s : State) : Result :=
  s.command dt fun t =>
    match t.bus.tenure with
    | some { item := .offer i, frame := _, sent := true } => t.endTenure.offerAcked i
    | _ => t

/-- OWN_OFFER_NACK (R64). The bus port counts the refused frame also where a CLEAR has freed the context (DEDUCED, log
41). -/
def execOwnOfferNack (dt : Micros) (s : State) : Result :=
  s.command dt fun t =>
    match t.bus.tenure with
    | some { item := .offer i, frame := _, sent := true } =>
      (t.endTenure.countBus fun k => { k with refusedOffer := inc k.refusedOffer }).offerNacked i
    | _ => t

/-- A NACK of an own notice counted (R156). -/
def State.noticeRefused (reading : Reading) (s : State) : State :=
  match reading with
  | .ack => s
  | .nack => s.countBus fun k => { k with refusedNotice := inc k.refusedNotice }

/-- The END of context i has been sent: a context still SPENT returns to FREE (R91). -/
def State.endGone (i : Nat) (s : State) : State :=
  match s.ctx? i with
  | some c =>
    if c.state = .spent then (s.freeCtx i c).countStreams fun k => { k with endSent := inc k.endSent } else s
  | none => s

/-- END_SENT (R91). A NACK is counted also where a CLEAR has freed the context (DEDUCED, log 41). -/
def execEndSent (dt : Micros) (reading : Reading) (s : State) : Result :=
  s.command dt fun t =>
    match t.bus.tenure with
    | some { item := .ended i, frame := _, sent := true } => (t.endTenure.noticeRefused reading).endGone i
    | _ => t

/-- STORED_SENT (R156). -/
def execStoredSent (dt : Micros) (reading : Reading) (s : State) : Result :=
  s.command dt fun t =>
    match t.bus.tenure with
    | some { item := .stored, frame := _, sent := true } => t.endTenure.noticeRefused reading
    | _ => t

/-- STATE_SENT (R156). -/
def execStateSent (dt : Micros) (reading : Reading) (s : State) : Result :=
  s.command dt fun t =>
    match t.bus.tenure with
    | some { item := .state, frame := _, sent := true } =>
      (match reading with
        | .ack => t.endTenure
        | .nack => t.endTenure.countBus fun k => { k with refusedState := inc k.refusedState })
    | _ => t

/-! ### The bus states (R146, R147, R160) -/

/-- GAP_END (R146, R148): a start bit when there is something to send, else FREE. R148 calls the moment of that start bit a
contest start, at which R159 restarts the bus-stuck watch or ends an episode; the model holds both over to the CONTEST_START
that follows, as it does the word (DESIGN CHOICE, log 28). -/
def execGapEnd (dt : Micros) (s : State) : Result :=
  s.command dt fun t =>
    if t.bus.state = .gap then
      if t.somethingToSend && t.mayContend then t.onBus fun b => { b with state := .busy, startBit := true }
      else t.enterBus .free
    else t

/-- BUS_SYNC (R160): an end delimiter or 64 recessive bit times end the assumed BUSY state of power-on. -/
def execBusSync (dt : Micros) (cause : SyncCause) (s : State) : Result :=
  s.command dt fun t =>
    if t.bus.state = .unsynced then
      match cause with
      | .delimiter form => (t.enterBus (afterDelimiter form)).boundary
      | .recessive => t.enterBus .free
    else t

/-- LINE_GOES_RECESSIVE (R147). -/
def execLineGoesRecessive (dt : Micros) (s : State) : Result :=
  s.command dt fun t => if t.bus.state = .busyDominant then t.enterBus .gap else t

/-- BUS_STUCK (R159), when the watch has run 10,000 µs: it is counted, the watch stops and the episode begins. -/
def execBusStuck (dt : Micros) (s : State) : Result :=
  s.command dt fun t =>
    match t.bus.watch with
    | .running since =>
      if t.ran since Config.busStuck then
        (t.countBus fun k => { k with busStuck := inc k.busStuck }).onBus fun b => { b with watch := .episode }
      else t
    | .idle => t
    | .episode => t

/-! ### Damaged and malformed frames (R147, R153, R157) -/

/-- CHECK_FAILURE (R157): discarded and counted, every lane view wiped, and the slot or gap that follows tracked. -/
def execCheckFailure (dt : Micros) (form : Delimiter) (s : State) : Result :=
  s.command dt fun t =>
    if t.listening then
      ((((t.countBus fun k => { k with checkFailures := inc k.checkFailures }).wipeViews).discardFrame).enterBus
        (afterDelimiter form)).boundary
    else t

/-- The watch restarts at a broken frame; an episode goes on (R159). -/
def State.brokenBoundary (s : State) : State :=
  s.onBus fun b => { b with watch := (match b.watch with
    | .running _ => .running s.now
    | w => w) }

/-- BROKEN_FRAME (R147, R157): counted as broken and as a check failure, every lane view wiped; GAP, or BUSY until a
dominant line goes recessive. -/
def execBrokenFrame (dt : Micros) (dominant : Bool) (s : State) : Result :=
  s.command dt fun t =>
    if t.listening then
      ((((t.countBus fun k =>
        { k with broken := inc k.broken, checkFailures := inc k.checkFailures }).wipeViews).discardFrame).enterBus
        (if dominant then .busyDominant else .gap)).brokenBoundary
    else t

/-- MALFORMED (R153): discarded and counted, no view changed, no ACK. That one addressed to the 7240 during a counted CLEAR
adds to the malformed count alone, where R158 counts every frame addressed to it, is read from R153 (DEDUCED, log 15). -/
def execMalformed (dt : Micros) (form : Delimiter) (s : State) : Result :=
  s.command dt fun t =>
    if t.listening then
      (((t.countBus fun k => { k with malformed := inc k.malformed }).discardFrame).enterBus
        (afterDelimiter form)).boundary
    else t

/-! ### Frames addressed to the 7240 (R155) -/

/-- A station joins the state-request set; a repeated query adds nothing but its count (R155). -/
def State.takeQuery (src : Station) (s : State) : State × Bool :=
  ((s.onBus fun b => { b with requests := b.requests ||| (1#16 <<< src.toNat) }).countBus fun k =>
    { k with queriesTaken := inc k.queriesTaken }, true)

/-- QUERY_STATUS (R155). -/
def execQueryStatus (heard : Heard) (src : Station) (s : State) : Result :=
  s.command heard.dt (State.addressedFrame heard.frame (State.takeQuery src))

/-- UNEXPECTED_KIND (R155). -/
def execUnexpectedKind (heard : Heard) (_kind : UnexpectedKind) (s : State) : Result :=
  s.command heard.dt (State.addressedFrame heard.frame State.refuseKind)

end Sys2Proof.Machine
end

