-- ==== Sys2Proof/Machine/Service.lean ====
section
/-! DEFINITION. SERVICE and the writing of the library (1.5): SERVICE_ENTER, SERVICE_EXIT, STORE, STORE_TAKEN and the
steps of a program. -/

namespace Sys2Proof.Machine

/-! ### Entering and leaving SERVICE (R14, R15, R114, R130) -/

/-- The store layout of a header: blocks 0 to D - 1 with the record blocks of R; block 0 alone without one (R14, R17). -/
def layoutOf (header : Option DirectoryHeader) : StoreLayout :=
  match header with
  | some h => { blocks := h.blocks, recordBlocks := ceilDiv h.records 384 }
  | none => { blocks := 1, recordBlocks := 0 }

/-- A fetch's page being read is to be discarded at its end (R129, R130). -/
def OperationKind.discardFetch : OperationKind → OperationKind
  | .fetchPage _ => .discardedFetchPage
  | .directoryPage => .directoryPage
  | .program write => .program write
  | .probe n => .probe n
  | .discardedFetchPage => .discardedFetchPage
  | .discardedDirectoryPage => .discardedDirectoryPage
  | .discardedProbe => .discardedProbe

/-- The queue emptied, and the page being read to be discarded: nothing counted (R130). -/
def Channel.dropFetches (ch : Channel) : Channel :=
  { ch with queue := [], op := ch.op.map fun o => { o with kind := o.kind.discardFetch } }

/-- The cache emptied at SERVICE entry; its counts and the DRAM's bytes are kept (R114). -/
def Cache.emptied (c : Cache) : Cache := { c with slots := [], freeNext := 0, freeTail := [], reclaim := [] }

/-- Entry to SERVICE (R14). -/
def State.enterService (src : Station) (s : State) : State :=
  (((s.onDir fun d => { d with serviceStation := some src, layout := some (layoutOf d.loaded) }).onStatus fun u =>
    { u with phase := .service }).onCache Cache.emptied).onFetch fun e =>
    { e with channels := e.channels.map Channel.dropFetches }

/-- A SERVICE-ENTER or SERVICE-EXIT refused (R14, R15). -/
def State.refuseService (s : State) : State × Bool :=
  (s.countDir fun k => { k with refusedService := inc k.refusedService }, false)

/-- The decision on a SERVICE-ENTER (R14). -/
def State.takeServiceEnter (src : Station) (s : State) : State × Bool :=
  if s.status.phase = .serving ∧ s.streams.contexts = [] ∧ src ∈ s.bridges then (s.enterService src, true)
  else if s.status.phase = .service ∧ s.dir.serviceStation = some src then (s, true)
  else s.refuseService

/-- SERVICE_ENTER (R14, R155). -/
def execServiceEnter (heard : Heard) (src : Station) (s : State) : Result :=
  s.command heard.dt (State.addressedFrame heard.frame (State.takeServiceEnter src))

/-- The decision on a SERVICE-EXIT (R15). -/
def State.takeServiceExit (src : Station) (s : State) : State × Bool :=
  if s.status.phase = .service ∧ s.dir.serviceStation = some src then
    ((s.onDir fun d => { d with serviceStation := none }).onStatus fun u => { u with phase := .directoryLoad }, true)
  else s.refuseService

/-- SERVICE_EXIT (R15, R155). -/
def execServiceExit (heard : Heard) (src : Station) (s : State) : Result :=
  s.command heard.dt (State.addressedFrame heard.frame (State.takeServiceExit src))

/-! ### STORE (R16) -/

/-- The decision on a STORE: unknown source (R154), accepted behind the requests already there, or refused (R16). -/
def State.takeStore (src : Station) (address : BitVec 32) (data : List Byte) (s : State) : State × Bool :=
  if src ∉ s.bridges then (s.countBus fun k => { k with unknownSource := inc k.unknownSource }, false)
  else if s.status.phase = .service ∧ s.dir.serviceStation = some src ∧ s.dir.storeQueue.length < Config.storeRoom then
    (s.onDir fun d => { d with storeQueue := d.storeQueue ++ [{ station := src, address := address, data := data }] },
      true)
  else (s.countDir fun k => { k with refusedStore := inc k.refusedStore }, false)

/-- STORE (R16, R155). -/
def execStore (heard : Heard) (src : Station) (address : BitVec 32) (data : List Byte) (s : State) : Result :=
  s.command heard.dt (State.addressedFrame heard.frame (State.takeStore src address data))

/-! ### The end of a slot (R146, R154, R155) -/

/-- The decision on the bytes of a frame addressed to the 7240, by their kind (R155). -/
def State.takeAddressed (bytes : List Byte) (s : State) : State × Bool :=
  match judgeFrame bytes .addressed with
  | .wellFormed f =>
    match f.body with
    | .queryStatus => s.takeQuery f.source
    | .serviceEnter => s.takeServiceEnter f.source
    | .serviceExit => s.takeServiceExit f.source
    | .store a d => s.takeStore f.source a d
    | .offer _ _ => s.refuseKind
    | .block _ => s.refuseKind
    | .endNotice _ _ _ _ _ => s.refuseKind
    | .storedNotice _ _ => s.refuseKind
    | .state _ => s.refuseKind
    | .run _ | .pause | .timing _ | .stopAll | .cue _ | .release _ | .ready _ => (s, false)
  | _ => (s, false)

/-- The frame whose slot ends in BUSY is received: one with no owner here, seen and no more (R154, log 4); one whose
destination is this part's station number is judged by R155, whichever row brings it (R168). -/
def State.receivedAtSlotEnd (frame : Option (List Byte)) (s : State) : State :=
  match frame, s.bus.state with
  | some bytes, .busy =>
    let t := s.received bytes
    if t.isAddressee bytes then (t.judge (State.takeAddressed bytes)).1 else t
  | _, _ => s

/-- ACK_SLOT_END (R146): the slot of a frame with no owner here ends, the frame received (log 4). On a line that a broken
frame left dominant no slot can end, and the bus stays BUSY (R147, log 2). -/
def execAckSlotEnd (ended : SlotEnd) (s : State) : Result :=
  s.command ended.dt fun t =>
    if t.listening = true ∧ t.bus.state ≠ .gap ∧ t.bus.state ≠ .free ∧ t.bus.state ≠ .busyDominant then
      ((t.receivedAtSlotEnd ended.frame).enterBus .gap).boundary
    else t

/-! ### Programs (R17) -/

/-- The notice is a STORED notice. -/
def Notice.isStored : Notice → Bool
  | .ended _ _ _ _ _ _ => false
  | .stored _ _ _ => true

/-- The count of an outcome raised (R17). -/
def DirectoryCounts.countOutcome (o : StoreOutcome) (k : DirectoryCounts) : DirectoryCounts :=
  match o with
  | .written => { k with written := inc k.written }
  | .badAddress => { k with badAddress := inc k.badAddress }
  | .programFailed => { k with programFailed := inc k.programFailed }

/-- A request's outcome: counted, and one STORED notice queued unless a CLEAR has counted since (R17, R18). -/
def State.answerStore (request : StoreRequest) (silent : Bool) (o : StoreOutcome) (s : State) : State :=
  let t := s.countDir (DirectoryCounts.countOutcome o)
  if silent then t
  else t.onBus fun b => { b with notices := b.notices ++ [.stored request.station request.address o] }

/-- A flash block address lies in the layout's directory region but is neither block 0 nor a record block (R17). -/
def StoreLayout.bars (l : StoreLayout) (a : Nat) : Bool := decide (a < l.blocks ∧ l.recordBlocks < a)

/-- What R17's table says of a request: BAD-ADDRESS, PROGRAM-FAILED, or none for one to be programmed. -/
def State.judgeStore (s : State) (a : Nat) : Option StoreOutcome :=
  if s.fetch.extent ≤ a then some .badAddress
  else if (s.dir.layout.map fun l => l.bars a) = some true then some .badAddress
  else if (s.chan (channelOf a)).offline then some .programFailed
  else none

/-- The oldest request taken and judged (R17). -/
def State.takeRequest (request : StoreRequest) (rest : List StoreRequest) (s : State) : State :=
  let t := s.onDir fun d => { d with storeQueue := rest }
  match s.judgeStore request.address.toNat with
  | some o => t.answerStore request false o
  | none => t.onDir fun d => { d with program := some { request := request, stage := .waiting, silent := false } }

/-- STORE_TAKEN (R17), when no program is in progress and the notice queue holds fewer than 4 STORED notices. -/
def execStoreTaken (dt : Micros) (s : State) : Result :=
  s.command dt fun t =>
    match t.dir.storeQueue with
    | request :: rest =>
      if t.dir.program = none ∧ (t.bus.notices.filter Notice.isStored).length < Config.storeRoom then
        t.takeRequest request rest
      else t
    | [] => t

/-- The store layout after a WRITTEN STORE to block 0: from its data (R17); not after a CLEAR (R18, log 20). -/
def State.layoutFromStore (p : Program) (o : StoreOutcome) (s : State) : State :=
  if o = .written ∧ p.request.address = 0 ∧ p.silent = false then
    s.onDir fun d => { d with layout := some (layoutOf (takeHeader s.fetch.extent p.request.data)) }
  else s

/-- The program has reached its outcome; the directory unit handles it (R17). -/
def State.concludeProgram (p : Program) (o : StoreOutcome) (s : State) : State :=
  ((s.onDir fun d => { d with program := none }).answerStore p.request p.silent o).layoutFromStore p o

/-- The program ends on its channel, which makes its choice (R120, R121). -/
def State.endProgram (p : Program) (o : StoreOutcome) (s : State) : State :=
  let c := channelOf p.request.address.toNat
  ((s.endOp c).concludeProgram p o).afterOperation c

/-- PROGRAM_BEGIN (R17): the erase begins when the channel can take it; on a channel that has gone OFFLINE the request
is answered PROGRAM-FAILED (R124, log 19). -/
def execProgramBegin (dt : Micros) (s : State) : Result :=
  s.command dt fun t =>
    match t.dir.program with
    | some p =>
      let c := channelOf p.request.address.toNat
      if p.stage = .waiting then
        if (t.chan c).offline then t.concludeProgram p .programFailed
        else if t.channelOpen c then t.runProgram p .erasing
        else t
      else t
    | none => t

/-- The next stage after a successful operation, none after the third page (R17). -/
def ProgramStage.next : ProgramStage → Option ProgramStage
  | .waiting => none
  | .erasing => some (.programming 0)
  | .programming j => if j < 2 then some (.programming (j + 1)) else none

/-- An erase or page program has reported success: the next one begins, or the outcome is WRITTEN. -/
def State.nextOperation (p : Program) (s : State) : State :=
  match p.stage.next with
  | some stage => s.runProgram p stage
  | none => s.endProgram p .written

/-- The erase or page program in progress. -/
def State.programOperation (s : State) : Option (Program × Operation) :=
  match s.dir.program with
  | some p =>
    (match (s.chan (channelOf p.request.address.toNat)).op with
      | some op => (match op.kind with
        | .program _ => some (p, op)
        | _ => none)
      | none => none)
  | none => none

/-- PROGRAM_OPERATION_COMPLETE (R17). An operation that reports later than 2,000 µs has not finished within the page timeout,
and its program has failed, whatever it reports; that comes about at this command where PROGRAM_TIMEOUT has not come before
it (DESIGN CHOICE, log 2). -/
def execProgramOperationComplete (dt : Micros) (success : Bool) (s : State) : Result :=
  s.command dt fun t =>
    match t.programOperation with
    | some (p, op) => if success && !t.answerLate op then t.nextOperation p else t.endProgram p .programFailed
    | none => t

/-- PROGRAM_TIMEOUT (R17), when the operation has run 2,000 µs. -/
def execProgramTimeout (dt : Micros) (s : State) : Result :=
  s.command dt fun t =>
    match t.programOperation with
    | some (p, op) => if t.ran op.issued Config.pageTimeout then t.endProgram p .programFailed else t
    | none => t

end Sys2Proof.Machine
end

