-- ==== Sys2Proof/Machine/FlashCommands.lean ====
section
/-! DEFINITION. DIRECTORY_LOAD and the ends of page reads: FETCH_PAGE_READ, DIRECTORY_PAGE_READ, PAGE_TIMEOUT (R4, R118,
R119, R122, R126, R129). -/

namespace Sys2Proof.Machine

/-- A load can begin: DIRECTORY-LOAD, no load in progress, no counted CLEAR, the store queue empty and no program in
progress (R4, R15), and every probe finished where a CLEAR in SERVICE or DIRECTORY-LOAD has put the load off (R18,
R128). -/
def State.loadReady (s : State) : Bool :=
  s.status.phase == .directoryLoad && s.dir.load.isNone && !s.cleared && (!s.dir.awaitsProbe || s.probesDone)
    && s.dir.storeQueue.isEmpty && s.dir.program.isNone

/-- The load begins: the table is discarded and the header-fault flag cleared (R4), the store layout is gone (log 20). -/
def State.beginLoad (s : State) : State :=
  s.onDir fun d =>
    { d with table := [], headerFault := false, loaded := none, layout := none, awaitsProbe := false
             load := some .header }

/-- DIRECTORY_LOAD (R4): the load begins and its header page is read. FAULT follows the cleared flag before the read can
set it again (R175). -/
def execDirectoryLoad (dt : Micros) (s : State) : Result :=
  s.command dt fun t =>
    if t.loadReady then t.beginLoad.updateFault.issueDirectory Config.directoryPages else t

/-- The data of an answer, none when the page is reported patched (R118). -/
def pageData : PageOutcome → Option (List Byte)
  | .good bytes => some bytes
  | .corrected bytes => some bytes
  | .uncorrectable => none

/-- An answer counted, and the consecutive-timeout count set to 0 by a good or corrected one (R118, R122). -/
def Channel.countAnswer (out : PageOutcome) (ch : Channel) : Channel :=
  match out with
  | .good _ => { ch with timeouts := 0, counts := { ch.counts with good := inc ch.counts.good } }
  | .corrected _ => { ch with timeouts := 0, counts := { ch.counts with corrected := inc ch.counts.corrected } }
  | .uncorrectable => { ch with counts := { ch.counts with uncorrectable := inc ch.counts.uncorrectable } }

/-- The page of a slot's fetch has completed: a fetch with cancel-pending set is removed (R126), else the page is
written and reported (R119). -/
def State.fetchPageDone (c : ChannelNo) (n : SlotNo) (data : Option (List Byte)) (s : State) : State :=
  match (s.chan c).fetchOf n with
  | some f => if f.cancelPending then s.removeFetch c n else s.completePage c n data
  | none => s

/-- A timeout counted; the consecutive-timeout count rises (R118, R122). -/
def Channel.countTimeout (ch : Channel) : Channel :=
  { ch with timeouts := min 3 (ch.timeouts + 1), op := none, counts := { ch.counts with timeout := inc ch.counts.timeout } }

/-- The third consecutive timeout takes the channel OFFLINE (R122). -/
def State.offlineAtThird (c : ChannelNo) (s : State) : State :=
  if 3 ≤ (s.chan c).timeouts then s.enterOffline c else s

/-- A page read that has timed out, by what it read (R118, R119, R121, R122, R126, R129). Where the third timeout of a
discarded read meets a pending probe, fetches queued since the CLEAR's release complete patched first (R123), and then
the probe begins: they do not wait for the probe's end, as R128 has them wait (DESIGN CHOICE, log 37). -/
def State.timedOut (c : ChannelNo) (kind : OperationKind) (s : State) : State :=
  let t := s.updChan c Channel.countTimeout
  match kind with
  | .fetchPage n => ((t.fetchPageDone c n none).offlineAtThird c).afterOperation c
  | .directoryPage =>
    (((t.offlineAtThird c).directoryPageDone none).afterOperation c).issueDirectory Config.directoryPages
  | .discardedFetchPage => (t.offlineAtThird c).afterOperation c
  | .discardedDirectoryPage => (t.offlineAtThird c).afterOperation c
  | .program _ => s
  | .probe _ => s
  | .discardedProbe => s

/-- A page read that an answer in time completes, by what it read: a page of a fetch is written and reported or its fetch
removed (R119, R126), a directory page handed on and the load's next page issued (R4), a discarded page counted alone
(R129); the channel then chooses (R120). -/
def State.answered (c : ChannelNo) (kind : OperationKind) (out : PageOutcome) (s : State) : State :=
  let t := (s.updChan c (Channel.countAnswer out)).endOp c
  match kind with
  | .fetchPage n => (t.fetchPageDone c n (pageData out)).afterOperation c
  | .directoryPage => ((t.directoryPageDone (pageData out)).afterOperation c).issueDirectory Config.directoryPages
  | .discardedFetchPage => t.afterOperation c
  | .discardedDirectoryPage => t.afterOperation c
  | .program _ => s
  | .probe _ => s
  | .discardedProbe => s

/-- The answer to a page read: in time it completes the read; later it is discarded unseen and the read completes as a
timeout (R118), at this command where PAGE_TIMEOUT has not come before it (DESIGN CHOICE, log 2). -/
def State.takeAnswer (c : ChannelNo) (op : Operation) (out : PageOutcome) (s : State) : State :=
  if s.answerLate op then s.timedOut c op.kind else s.answered c op.kind out

/-- The operation reads a page of a fetch, to be kept or discarded. -/
def OperationKind.readsFetch : OperationKind → Bool
  | .fetchPage _ => true
  | .discardedFetchPage => true
  | .directoryPage => false
  | .discardedDirectoryPage => false
  | .program _ => false
  | .probe _ => false
  | .discardedProbe => false

/-- The operation reads a directory page, to be handed on or discarded. -/
def OperationKind.readsDirectory : OperationKind → Bool
  | .directoryPage => true
  | .discardedDirectoryPage => true
  | .fetchPage _ => false
  | .discardedFetchPage => false
  | .program _ => false
  | .probe _ => false
  | .discardedProbe => false

/-- FETCH_PAGE_READ (R118, R119, R126, R129), when a page of a fetch is being read. -/
def execFetchPageRead (dt : Micros) (ch : ChannelNo) (out : PageOutcome) (s : State) : Result :=
  s.command dt fun t =>
    match (t.chan ch).op with
    | some op => if op.kind.readsFetch then t.takeAnswer ch op out else t
    | none => t

/-- DIRECTORY_PAGE_READ (R4, R118, R129), when a directory page is being read. -/
def execDirectoryPageRead (dt : Micros) (ch : ChannelNo) (out : PageOutcome) (s : State) : Result :=
  s.command dt fun t =>
    match (t.chan ch).op with
    | some op => if op.kind.readsDirectory then t.takeAnswer ch op out else t
    | none => t

/-- PAGE_TIMEOUT (R118), when the page read has run 2,000 µs. -/
def execPageTimeout (dt : Micros) (ch : ChannelNo) (s : State) : Result :=
  s.command dt fun t =>
    match (t.chan ch).op with
    | some op => if t.ran op.issued Config.pageTimeout then t.timedOut ch op.kind else t
    | none => t

end Sys2Proof.Machine
end

