-- ==== Sys2Proof/Machine/ClearLine.lean ====
section
/-! DEFINITION. The CLEAR line (R158) and what a counted CLEAR does in every block (R18, R34, R53, R71, R94, R113, R129,
R136, R170). -/

namespace Sys2Proof.Machine

/-- The bus port at a counted CLEAR: counted, and its three queues emptied; the contest under way completes (R158). An
acknowledge slot the 7240 is driving then is driven to its end (DESIGN CHOICE, log 38). -/
def BusPort.clearCounts (b : BusPort) : BusPort :=
  { b with clear := .counted, offers := [], notices := [], requests := 0
           counts := { b.counts with clears := inc b.counts.clears } }

/-- The clock unit at a counted CLEAR: the interval, the local time and the counts are kept (R34). -/
def Clock.clearCounts (c : Clock) : Clock :=
  { c with state := .unset, sfc := 0, load := none, lastEdge := none, watch := none, synthRun := 0 }

/-- The slots that pass a test, in ascending slot number. -/
def Cache.slotsWhere (c : Cache) (p : Slot → Bool) : List SlotNo :=
  c.slots.filterMap fun x => if h : x.1 < 262144 then (if p x.2 then some ⟨x.1, h⟩ else none) else none

/-- The cache at a counted CLEAR (R113): FILLING and PATCHED slots join the free list, referenced VALID ones the reclaim
list, and every count is 0. -/
def Cache.clearCounts (c : Cache) : Cache :=
  { c with
    slots := (c.slots.filter fun x => x.2.state == .valid).map fun x => (x.1, { x.2 with refs := 0 })
    freeTail := c.freeTail ++ c.slotsWhere fun x => x.state != .valid
    reclaim := c.reclaim ++ c.slotsWhere fun x => x.state == .valid && x.refs != 0 }

/-- What becomes of an operation in progress at a counted CLEAR (R129). -/
def OperationKind.discard : OperationKind → OperationKind
  | .fetchPage _ => .discardedFetchPage
  | .directoryPage => .discardedDirectoryPage
  | .program write => .program write
  | .probe _ => .discardedProbe
  | .discardedFetchPage => .discardedFetchPage
  | .discardedDirectoryPage => .discardedDirectoryPage
  | .discardedProbe => .discardedProbe

/-- A channel at a counted CLEAR (R129). -/
def Channel.clearCounts (ch : Channel) : Channel :=
  { ch with queue := [], op := ch.op.map fun o => { o with kind := o.kind.discard } }

/-- The directory unit at a counted CLEAR in SERVING: the table is kept (R18). -/
def Directory.clearInServing (d : Directory) : Directory :=
  { d with serviceStation := none, storeQueue := [], layout := none }

/-- The directory unit at a counted CLEAR in SERVICE or DIRECTORY-LOAD: the table and any load are discarded, and the next
load waits for the re-probe; a program goes on without a notice (R18). -/
def Directory.clearInLoad (d : Directory) : Directory :=
  { d with table := [], loaded := none, load := none, serviceStation := none, storeQueue := [], layout := none
           awaitsProbe := true, program := d.program.map fun p => { p with silent := true } }

/-- The directory unit at a counted CLEAR, by the phase (R18). -/
def Directory.clearCounts (phase : Phase) (d : Directory) : Directory :=
  match phase with
  | .serving => d.clearInServing
  | .service => d.clearInLoad
  | .directoryLoad => d.clearInLoad
  | .configLoad => d
  | .probe => d
  | .unconfigured => d

/-- The phase after a counted CLEAR (R170). -/
def Phase.clearCounts : Phase → Phase
  | .service => .directoryLoad
  | .configLoad => .configLoad
  | .probe => .probe
  | .directoryLoad => .directoryLoad
  | .serving => .serving
  | .unconfigured => .unconfigured

/-- A CLEAR that counts reaches every block; in UNCONFIGURED the bus port alone (R170, log 17). -/
def State.clearAll (s : State) : State :=
  let t := s.onBus BusPort.clearCounts
  if s.status.phase = .unconfigured then t
  else
    (((((((t.onClock Clock.clearCounts).onCue fun u => { u with demandSum := 0 }).onStreams fun e =>
      { e with contexts := [] }).onCache Cache.clearCounts).onFetch fun e =>
      { e with channels := e.channels.map Channel.clearCounts }).closeViews).onDir
      (Directory.clearCounts s.status.phase)).onStatus fun u => { u with phase := u.phase.clearCounts }

/-- CLEAR_ASSERTED (R158): the timing of the assertion begins. -/
def execClearAsserted (dt : Micros) (s : State) : Result :=
  s.command dt fun t =>
    match t.bus.clear with
    | .released => t.onBus fun b => { b with clear := .asserted t.now }
    | .asserted _ => t
    | .counted => t

/-- CLEAR_COUNTS (R158), when the CLEAR has been asserted for 100 µs. -/
def execClearCounts (dt : Micros) (s : State) : Result :=
  s.command dt fun t =>
    match t.bus.clear with
    | .asserted since => if t.ran since Config.clearWidth then t.clearAll else t
    | .released => t
    | .counted => t

/-- SHORT_CLEAR (R158): released before 100 µs. -/
def execShortClear (dt : Micros) (s : State) : Result :=
  s.command dt fun t =>
    match t.bus.clear with
    | .asserted since =>
      if t.ran since Config.clearWidth then t
      else
        (t.countBus fun k => { k with shortClears := inc k.shortClears }).onBus fun b => { b with clear := .released }
    | .released => t
    | .counted => t

/-- A counted CLEAR released: the pairing closes (R34), and every channel is probed again, but for a release in
CONFIG-LOAD (R128) or UNCONFIGURED (R170). That a release in UNCONFIGURED leaves the pairing as it stands, also where the
CLEAR had counted in CONFIG-LOAD, is read from R170, which names a CLEAR counted in UNCONFIGURED alone (DEDUCED, log 17). -/
def State.releaseClear (s : State) : State :=
  let t := s.onBus fun b => { b with clear := .released }
  match s.status.phase with
  | .unconfigured => t
  | .configLoad => t.onClock fun c => { c with pairingOpen := false }
  | .probe => (t.onClock fun c => { c with pairingOpen := false }).probeAll
  | .directoryLoad => (t.onClock fun c => { c with pairingOpen := false }).probeAll
  | .serving => (t.onClock fun c => { c with pairingOpen := false }).probeAll
  | .service => (t.onClock fun c => { c with pairingOpen := false }).probeAll

/-- CLEAR_RELEASE (R128, R158). -/
def execClearRelease (dt : Micros) (s : State) : Result :=
  s.command dt fun t =>
    match t.bus.clear with
    | .counted => t.releaseClear
    | .released => t
    | .asserted _ => t

end Sys2Proof.Machine
end

