-- ==== Sys2Proof/Machine/Dispatch.lean ====
section
/-! DEFINITION. exec: one arm per command. -/

namespace Sys2Proof.Machine

/-- A command's effect on everything but the queue of waiting commands. -/
def exec (i : Instr) (s : State) : Host.Outcome State Fault Refusal :=
  match i with
  | .powerOn straps => Sys2Proof.Machine.execPowerOn straps s
  | .configImageRead dt image => Sys2Proof.Machine.execConfigImageRead dt image s
  | .configReadTimeout dt => Sys2Proof.Machine.execConfigReadTimeout dt s
  | .geometryReadAnswer dt ch pages => Sys2Proof.Machine.execGeometryReadAnswer dt ch pages s
  | .geometryReadTimeout dt ch => Sys2Proof.Machine.execGeometryReadTimeout dt ch s
  | .directoryLoad dt => Sys2Proof.Machine.execDirectoryLoad dt s
  | .directoryPageRead dt ch out => Sys2Proof.Machine.execDirectoryPageRead dt ch out s
  | .pageTimeout dt ch => Sys2Proof.Machine.execPageTimeout dt ch s
  | .fetchPageRead dt ch out => Sys2Proof.Machine.execFetchPageRead dt ch out s
  | .storeTaken dt => Sys2Proof.Machine.execStoreTaken dt s
  | .programBegin dt => Sys2Proof.Machine.execProgramBegin dt s
  | .programOperationComplete dt success => Sys2Proof.Machine.execProgramOperationComplete dt success s
  | .programTimeout dt => Sys2Proof.Machine.execProgramTimeout dt s
  | .markEdge dt => Sys2Proof.Machine.execMarkEdge dt s
  | .watchExpiry dt => Sys2Proof.Machine.execWatchExpiry dt s
  | .run heard src value => Sys2Proof.Machine.execRun heard src value s
  | .timing heard src value => Sys2Proof.Machine.execTiming heard src value s
  | .pause heard src => Sys2Proof.Machine.execPause heard src s
  | .stopAll heard src => Sys2Proof.Machine.execStopAll heard src s
  | .cue heard src fields => Sys2Proof.Machine.execCue heard src fields s
  | .release heard src fields => Sys2Proof.Machine.execRelease heard src fields s
  | .ready heard src openSet => Sys2Proof.Machine.execReady heard src openSet s
  | .offerObserved heard id reading => Sys2Proof.Machine.execOfferObserved heard id reading s
  | .blockObserved heard dest lane reading => Sys2Proof.Machine.execBlockObserved heard dest lane reading s
  | .queryStatus heard src => Sys2Proof.Machine.execQueryStatus heard src s
  | .serviceEnter heard src => Sys2Proof.Machine.execServiceEnter heard src s
  | .serviceExit heard src => Sys2Proof.Machine.execServiceExit heard src s
  | .store heard src address data => Sys2Proof.Machine.execStore heard src address data s
  | .unexpectedKind heard kind => Sys2Proof.Machine.execUnexpectedKind heard kind s
  | .malformed dt form => Sys2Proof.Machine.execMalformed dt form s
  | .checkFailure dt form => Sys2Proof.Machine.execCheckFailure dt form s
  | .brokenFrame dt dominant => Sys2Proof.Machine.execBrokenFrame dt dominant s
  | .ackSlotEnd ended => Sys2Proof.Machine.execAckSlotEnd ended s
  | .contestStart dt => Sys2Proof.Machine.execContestStart dt s
  | .contestWon dt => Sys2Proof.Machine.execContestWon dt s
  | .contestLost dt => Sys2Proof.Machine.execContestLost dt s
  | .emptyContest dt => Sys2Proof.Machine.execEmptyContest dt s
  | .ownOfferAck dt => Sys2Proof.Machine.execOwnOfferAck dt s
  | .ownOfferNack dt => Sys2Proof.Machine.execOwnOfferNack dt s
  | .ownBlockAck dt => Sys2Proof.Machine.execOwnBlockAck dt s
  | .ownBlockNack dt => Sys2Proof.Machine.execOwnBlockNack dt s
  | .endSent dt reading => Sys2Proof.Machine.execEndSent dt reading s
  | .storedSent dt reading => Sys2Proof.Machine.execStoredSent dt reading s
  | .stateSent dt reading => Sys2Proof.Machine.execStateSent dt reading s
  | .gapEnd dt => Sys2Proof.Machine.execGapEnd dt s
  | .busSync dt cause => Sys2Proof.Machine.execBusSync dt cause s
  | .busStuck dt => Sys2Proof.Machine.execBusStuck dt s
  | .offerExpiry dt ctx => Sys2Proof.Machine.execOfferExpiry dt ctx s
  | .clearAsserted dt => Sys2Proof.Machine.execClearAsserted dt s
  | .clearCounts dt => Sys2Proof.Machine.execClearCounts dt s
  | .clearRelease dt => Sys2Proof.Machine.execClearRelease dt s
  | .shortClear dt => Sys2Proof.Machine.execShortClear dt s
  | .lineGoesRecessive dt => Sys2Proof.Machine.execLineGoesRecessive dt s

end Sys2Proof.Machine
end

