-- ==== Sys2Proof/Machine/Step.lean ====
section
/-! DEFINITION. One step of the part, and the placing of a command for the next step. -/

namespace Sys2Proof.Machine

/-- One microsecond of local time in which no command comes (DESIGN CHOICE, log 1). -/
def State.tick (s : State) : State := s.elapse 1

/-- The command at the front of the queue is executed on the state with the queue's rest; with none waiting, one
microsecond of local time passes (log 1). -/
def step (s : State) : Host.Outcome State Fault Refusal :=
  match s.pending with
  | [] => .next s.tick
  | i :: rest => exec i (s.withPending rest)

/-- The command a table word spells, put at the front of the queue; s unchanged where the word spells none (log 25). -/
def State.withFetchWord (s : State) (nbits w : Nat) : State :=
  match decodeTableWord nbits w with
  | some i => s.withPending (i :: s.pending)
  | none => s

end Sys2Proof.Machine
end

