-- ==== Sys2Proof/Safety.lean ====
section
/-! DEFINITION. What counts as a safe state of the part, and the words the statements use: how a command's outcome
compares with an expected state, and the laws the manual states of every state. -/

namespace Sys2Proof

/-! ### Frame boundaries -/

/-- The rows that bring a frame boundary: a contest start, an end delimiter, the end of an acknowledge slot, a broken frame
(R159). The contest start that R148 puts at a start bit of the 7240's own is taken at its CONTEST_START, so that no row after
which such a start bit is sent counts as one for it (DESIGN CHOICE, log 28). -/
def Instr.isBoundary : Instr → Bool
  | .run _ _ _ | .timing _ _ _ | .pause _ _ | .stopAll _ _ | .cue _ _ _ | .release _ _ _ | .ready _ _ _ => true
  | .offerObserved _ _ _ | .blockObserved _ _ _ _ | .queryStatus _ _ | .serviceEnter _ _ | .serviceExit _ _ => true
  | .store _ _ _ _ | .unexpectedKind _ _ | .malformed _ _ | .checkFailure _ _ | .brokenFrame _ _ | .ackSlotEnd _ => true
  | .contestStart _ | .ownOfferAck _ | .ownOfferNack _ | .ownBlockAck _ | .ownBlockNack _ => true
  | .endSent _ _ | .storedSent _ _ | .stateSent _ _ | .busSync _ (.delimiter _) => true
  | .powerOn _ | .configImageRead _ _ | .configReadTimeout _ | .geometryReadAnswer _ _ _ | .geometryReadTimeout _ _ => false
  | .directoryLoad _ | .directoryPageRead _ _ _ | .pageTimeout _ _ | .fetchPageRead _ _ _ => false
  | .storeTaken _ | .programBegin _ | .programOperationComplete _ _ | .programTimeout _ => false
  | .markEdge _ | .watchExpiry _ | .contestWon _ | .contestLost _ | .emptyContest _ | .gapEnd _ => false
  | .busSync _ .recessive | .busStuck _ | .offerExpiry _ _ | .lineGoesRecessive _ => false
  | .clearAsserted _ | .clearCounts _ | .clearRelease _ | .shortClear _ => false

end Sys2Proof

namespace Sys2Proof.Machine

/-! ### Comparing an outcome with an expected state -/

/-- t is the expected state e after the standing conditions have been brought up to date: nothing but the FAULT output,
its onset count and the bus-stuck watch may differ, but where e stands in FREE with something to send that may contend:
there t is BUSY with a start bit sent (R148, R159, R175). -/
def Settles (e t : State) : Prop :=
  t.status = { e.status with faultDriven := t.status.faultDriven, faultOnset := t.status.faultOnset }
  ∧ t.bus = { e.bus with state := t.bus.state, startBit := t.bus.startBit, watch := t.bus.watch }
  ∧ (if e.bus.state = .free ∧ e.somethingToSend = true ∧ e.mayContend = true
      then t.bus.state = .busy ∧ t.bus.startBit = true
      else t.bus.state = e.bus.state ∧ t.bus.startBit = e.bus.startBit)
  ∧ t.clock = e.clock ∧ t.dir = e.dir ∧ t.cue = e.cue ∧ t.streams = e.streams ∧ t.cache = e.cache ∧ t.fetch = e.fetch
  ∧ t.delivery = e.delivery ∧ t.pending = e.pending

/-- The outcome is a next state, the expected state e but for the standing conditions. -/
def Result.Gives (o : Result) (e : State) : Prop := ∃ t, o = .next t ∧ Settles e t

/-- s after dt microseconds of local time. -/
def State.later (s : State) (dt : Micros) : State :=
  { s with clock := { s.clock with localTime := s.clock.localTime + dt } }

/-- s after dt microseconds and a received frame, the bus then standing in state b. -/
def State.heard (s : State) (dt : Micros) (frame : List Byte) (b : BusState) : State :=
  { s.later dt with bus := { s.bus with state := b, startBit := false, receiveBuffer := some frame } }

/-- s after dt microseconds and the end of the slot of a frame of the 7240's own. -/
def State.slotEnded (s : State) (dt : Micros) : State :=
  { s.later dt with
    bus := { s.bus with state := .gap, startBit := false, tenure := none, contestWord := none, txFrame := none } }

/-- The 7240 handed a broadcast frame to its owner: it was listening, the image has been read, and the source is a
bridge (R153, R154). -/
def State.handsOn (s : State) (src : Station) : Prop :=
  s.listening = true ∧ s.status.phase ≠ .configLoad ∧ src ∈ s.bridges

/-- The frame is addressed to the 7240: its broadcast flag is clear and its destination is the station number held (R155,
R161, R168). -/
def State.isAddressed (s : State) (frame : List Byte) : Prop :=
  Bytes.byteAt frame 2 / 8 % 2 = 0 ∧ Bytes.byteAt frame 2 / 16 = s.status.station.toNat

/-- The 7240 judges a frame addressed to it: it was listening, the image has been read and no CLEAR stands (R155). -/
def State.judgesAddressed (s : State) (frame : List Byte) : Prop :=
  s.listening = true ∧ s.isAddressed frame ∧ s.status.phase ≠ .configLoad ∧ s.cleared = false

/-- No head of a RUNNING or LOOPING context is stale at a count: a change of the count to it drops nothing (R81). -/
def State.NoHeadStale (s : State) (sfc : Time) : Prop :=
  ∀ p ∈ s.streams.contexts, p.2.delivering = true → ∀ e rest, p.2.window = e :: rest → e.isStale sfc = false

/-- The outcome is a next state with the clock unit as given; where no head is stale at the new count, nothing else but
the standing conditions has changed. -/
def Result.GivesClock (o : Result) (s : State) (c : Clock) : Prop :=
  ∃ t, o = .next t ∧ t.clock = c ∧ (s.NoHeadStale c.sfc → Settles { s with clock := c } t)

/-- The clock unit after dt microseconds. -/
def Clock.later (c : Clock) (dt : Micros) : Clock := { c with localTime := c.localTime + dt }

/-- The clock unit after dt microseconds and the capture of an accepted edge (R20, R21, R22). -/
def Clock.captured (c : Clock) (dt : Micros) : Clock :=
  let t := c.localTime + dt
  { c with localTime := t, interval := c.measure t, lastEdge := some t, pairingOpen := true
           watch := watchAfterEdge t (c.measure t) }

/-- Context i returned to FREE by a silent free, as far as the bus port, the cue unit and the context table go (R67,
R92). -/
def State.freed (s : State) (i : Nat) (c : Context) : State :=
  { s with
    bus := { s.bus with offers := s.bus.offers.filter (· != i), notices := dropEnd i s.bus.notices }
    cue := { s.cue with demandSum := s.cue.demandSum - c.demand }
    streams := { s.streams with contexts := Sparse.erase s.streams.contexts i } }

/-- The references of delivered, dropped or withdrawn entries released in turn; what one release does is the statement
ReferenceReleased. -/
def State.released (entries : List Entry) (s : State) : State := entries.foldl (fun t e => t.releaseEntry e) s

/-- The outcome is a next state, the expected state e, with the entries' references released, but for the standing
conditions. -/
def Result.GivesReleasing (o : Result) (entries : List Entry) (e : State) : Prop := Result.Gives o (e.released entries)

/-- A context refilled by at most n entries of a zone none of whose blocks is stored: each entry phantom and ready, until
the generator closes (R12, R76). -/
def Context.fillPhantoms (lead : Nat) : Nat → Context → Context
  | 0, c => c
  | n + 1, c =>
    if c.gen.closed then c
    else Context.fillPhantoms lead n
      { c with window := c.window ++ [{ c.nextEntry lead with phantom := true, ready := true }], gen := c.advance c.gen }

/-- R120's table: of the fetches of a channel queue, the one whose next page is read, and whether that is a break-in. -/
def choiceOf (queue : List Fetch) (margin : Nat) : Option (Fetch × Bool) :=
  match queue.filter fun f => f.pagesDone == 1 || f.pagesDone == 2, queue.filter fun f => f.pagesDone == 0 with
  | [], [] => none
  | p :: _, [] => some (p, false)
  | [], u :: _ => some (u, false)
  | p :: others, u :: _ =>
    if (margin : Int) ≤ signedDiff p.deadline u.deadline ∧ others.length + 1 < 4 then some (u, true) else some (p, false)

/-- The heads of c that leave one after another before any other entry is looked at: those of `gone`, each stale at the
count, up to `stay`, whose first entry is not; and the refill, here where no block of the zone is stored or the sequence
is closed, brings no stale head (R80 to R82). -/
def State.ServesHeads (s : State) (c : Context) (gone stay : List Entry) : Prop :=
  c.window = gone ++ stay ∧ (∀ e ∈ gone, e.busPhase = .none ∧ 0 ≤ signedDiff s.clock.sfc e.leaveTime)
  ∧ (c.gen.closed = true ∨ c.zone.effective = 0)
  ∧ (∀ e rest, (Context.fillPhantoms s.lead (c.depth - stay.length) { c with window := stay }).window = e :: rest →
      e.isStale s.clock.sfc = false)
  ∧ (c.policy = .tolerant ∨ ∀ e rest, stay = e :: rest → e.ready = false ∨ e.patched = 0)

/-- s after the stale heads `gone` of context i have been dropped from c, with `stay` left: each is counted, a patched head
of a TOLERANT stream is counted, the window is refilled with phantom entries; and a RUNNING context left with no entry
enters SPENT with its END notice (R76, R80 to R82, R88 to R90). The references are released beside it. -/
def State.afterHeads (s : State) (i : Nat) (c : Context) (gone stay : List Entry) : State :=
  let patched := match stay with
    | e :: _ => e.ready && e.patched != 0
    | [] => false
  let after := Context.fillPhantoms s.lead (c.depth - stay.length)
    { c with window := stay, dropped := addCount c.dropped gone.length
             patched := if patched then inc c.patched else c.patched }
  let counts := { s.streams.counts with
    dropped := addCount s.streams.counts.dropped gone.length
    created := addCount s.streams.counts.created (after.window.length - stay.length) }
  if after.window = [] ∧ c.state = .running then
    let reason : EndReason := if c.releaseMode = .cut then .cut else .complete
    { s with
      bus := { s.bus with
        notices := s.bus.notices ++ [.ended i c.id reason c.delivered (addCount c.dropped gone.length) c.patched] }
      streams :=
        { contexts := Sparse.modify s.streams.contexts i fun _ =>
            { after with state := .spent, endReason := some reason, offer := none }
          counts := if c.releaseMode = .cut then { counts with endCut := inc counts.endCut }
            else { counts with endComplete := inc counts.endComplete } } }
  else { s with streams := { contexts := Sparse.modify s.streams.contexts i fun _ => after, counts := counts } }

/-- P is the first flash block that some answering channel does not hold, 0 when no channel has answered (R127). -/
def State.ExtentIs (s : State) (p : Nat) : Prop :=
  ((∀ c, (s.chan c).pageCount = none) → p = 0)
  ∧ ((∃ c, (s.chan c).pageCount ≠ none) →
    (∀ a < p, ∀ n, (s.chan (channelOf a)).pageCount = some n → channelPage a 2 < n)
    ∧ ∃ n, (s.chan (channelOf p)).pageCount = some n ∧ n ≤ channelPage p 2)

/-- The heads that leave a STRICT stream before it ends: those of `gone`, each stale at the count, and then `next`, not stale
but ready and patched, becomes head (R80 to R82). -/
def State.FaultsAtHead (s : State) (c : Context) (gone : List Entry) (next : Entry) (more : List Entry) : Prop :=
  c.policy = .strict ∧ c.window = gone ++ next :: more
  ∧ (∀ e ∈ gone, e.busPhase = .none ∧ 0 ≤ signedDiff s.clock.sfc e.leaveTime)
  ∧ next.isStale s.clock.sfc = false ∧ next.ready = true ∧ next.patched ≠ 0

/-- s after the stale heads `gone` of context i have been dropped from c and the patched head behind them has ended the STRICT
stream: SPENT with reason FAULT, its END notice queued, the entries `left` withdrawn (R81 to R83, R89, R90). The references
are released beside it. -/
def State.afterFault (s : State) (i : Nat) (c : Context) (gone left : List Entry) : State :=
  let dropped := addCount c.dropped gone.length
  { s with
    bus := { s.bus with notices := s.bus.notices ++ [.ended i c.id .fault c.delivered dropped (inc c.patched)] }
    streams :=
      { contexts := Sparse.modify s.streams.contexts i fun _ =>
          { c with window := [], dropped := dropped, patched := inc c.patched, state := .spent
                   gen := { c.gen with closed := true }, endReason := some .fault, offer := none }
        counts := { s.streams.counts with
          dropped := addCount s.streams.counts.dropped gone.length
          withdrawn := addCount s.streams.counts.withdrawn left.length
          endFault := inc s.streams.counts.endFault } } }

/-! ### The end of a page read (R118, R119, R122, R123) -/

/-- The command completes a page read as a timeout: PAGE_TIMEOUT, or the row of an answer that comes more than 2,000 µs after
the read's issue (R118; the latter by log 2). -/
def State.TimesOut (s : State) (c : Instr) : Prop :=
  (∃ dt ch, c = .pageTimeout dt ch)
  ∨ ∃ dt ch out op, (c = .fetchPageRead dt ch out ∨ c = .directoryPageRead dt ch out) ∧ (s.chan ch).op = some op
      ∧ 2000 < signedDiff (s.clock.localTime + dt) op.issued

/-- How a page read ends: with an answer, with its timeout, or with an answer that comes too late and is discarded unseen. -/
inductive PageEnd
  | answer (out : PageOutcome)
  | timeout
  | late (out : PageOutcome)
  deriving DecidableEq, Repr

/-- The command that ends a read of a fetch's page on channel ch. -/
def PageEnd.ofFetch (dt : Micros) (ch : ChannelNo) : PageEnd → Instr
  | .answer out => .fetchPageRead dt ch out
  | .timeout => .pageTimeout dt ch
  | .late out => .fetchPageRead dt ch out

/-- The read on channel ch, issued at `issued`, can end so after dt and leave the channel out of OFFLINE: an answer comes
within 2,000 µs and brings a whole page; a timeout comes at 2,000 µs, an answer to be discarded after them, and the timeout
is not the third in a row (R13, R118, R122). -/
def State.CanEnd (s : State) (dt : Micros) (ch : ChannelNo) (issued : Time) : PageEnd → Prop
  | .answer (.good bytes) => signedDiff (s.clock.localTime + dt) issued ≤ 2000 ∧ bytes.length = 4096
  | .answer (.corrected bytes) => signedDiff (s.clock.localTime + dt) issued ≤ 2000 ∧ bytes.length = 4096
  | .answer .uncorrectable => signedDiff (s.clock.localTime + dt) issued ≤ 2000
  | .timeout => 2000 ≤ signedDiff (s.clock.localTime + dt) issued ∧ (s.chan ch).timeouts < 2
  | .late _ => 2000 < signedDiff (s.clock.localTime + dt) issued ∧ (s.chan ch).timeouts < 2

/-- The page is reported patched: uncorrectable, or not answered in time (R118). -/
def PageEnd.patched : PageEnd → Bool
  | .answer (.good _) => false
  | .answer (.corrected _) => false
  | .answer .uncorrectable => true
  | .timeout => true
  | .late _ => true

/-- Byte i of the page as it is written into the slot: the byte read, or 0 (R119). -/
def PageEnd.byte (i : Nat) : PageEnd → Byte
  | .answer (.good bytes) => bytes[i]?.getD 0
  | .answer (.corrected bytes) => bytes[i]?.getD 0
  | .answer .uncorrectable => 0
  | .timeout => 0
  | .late _ => 0

/-- The channel's count of the outcome raised, and its consecutive-timeout count: 0 after a good or corrected page, one
more after a timeout, as it was after an uncorrectable page (R118, R122). -/
def PageEnd.counted : PageEnd → Channel → Channel
  | .answer (.good _), k => { k with timeouts := 0, counts := { k.counts with good := inc k.counts.good } }
  | .answer (.corrected _), k => { k with timeouts := 0, counts := { k.counts with corrected := inc k.counts.corrected } }
  | .answer .uncorrectable, k => { k with counts := { k.counts with uncorrectable := inc k.counts.uncorrectable } }
  | .timeout, k => { k with timeouts := k.timeouts + 1, counts := { k.counts with timeout := inc k.counts.timeout } }
  | .late _, k => { k with timeouts := k.timeouts + 1, counts := { k.counts with timeout := inc k.counts.timeout } }

/-- The fetches of a queue have completed between s and t with their remaining pages patched: those pages hold zeros and no
other byte has changed; a slot with no reference is EMPTY, at the tail of the free list, any other is PATCHED; the entries
that refer to it are ready with its patched-page set, and a patched head is counted by its stream, here where every stream
is TOLERANT (R77, R82, R107, R119, R123). -/
def QueuePatched (queue : List Fetch) (s t : State) : Prop :=
  let unused := queue.filter fun f => decide ((s.slot? f.slot).map Slot.refs = some 0)
  let full := fun f : Fetch => ((s.slot? f.slot).map Slot.patched).getD 0 ||| (7#3 <<< f.pagesDone)
  let fetchOf := fun e : Entry => queue.find? fun f => decide (e.slot = some f.slot)
  (∀ f ∈ queue, ∀ a, Dram.pageAddress f.slot f.pagesDone ≤ a → a < Dram.pageAddress f.slot 3 →
    Dram.read t.cache.dram a = 0)
  ∧ (∀ a, (∀ f ∈ queue, a < Dram.pageAddress f.slot f.pagesDone ∨ Dram.pageAddress f.slot 3 ≤ a) →
      Dram.read t.cache.dram a = Dram.read s.cache.dram a)
  ∧ (∀ f ∈ queue, ∀ slot, s.slot? f.slot = some slot → t.slot? f.slot =
      if slot.refs = 0 then none else some { slot with
        state := .patched, pagesDone := slot.pagesDone + (3 - f.pagesDone), patched := full f })
  ∧ (∀ n, (∀ f ∈ queue, f.slot ≠ n) → t.slot? n = s.slot? n)
  ∧ t.cache.reclaim = s.cache.reclaim ∧ t.cache.freeNext = s.cache.freeNext
  ∧ (∃ joined, t.cache.freeTail = s.cache.freeTail ++ joined ∧ joined.Perm (unused.map Fetch.slot))
  ∧ t.cache.counts = { s.cache.counts with
      patchedFill := addCount s.cache.counts.patchedFill queue.length
      patchedRelease := addCount s.cache.counts.patchedRelease unused.length }
  ∧ t.streams = { s.streams with contexts := s.streams.contexts.map fun p => (p.1, { p.2 with
      window := p.2.window.map fun e => match fetchOf e with
        | some f => { e with ready := true, patched := full f }
        | none => e
      patched := if ((p.2.window.head?.bind fetchOf).isSome) then inc p.2.patched else p.2.patched }) }

/-! ### Laws of every state -/

/-- The listed bytes of the stacked DRAM are in canonical form. -/
def State.MemoryLaw (s : State) : Prop := Dram.wf s.cache.dram

/-- The context table holds contexts 0 to 1,023, each at most once (R72), and the slot table slots 0 to 262,143 (R96). -/
def State.TableLaw (s : State) : Prop :=
  Sparse.wf s.streams.contexts ∧ (∀ p ∈ s.streams.contexts, p.1 < Config.contexts)
  ∧ Sparse.wf s.cache.slots ∧ ∀ p ∈ s.cache.slots, p.1 < Config.slots

/-- The demand sum is the sum of the demand figures of the contexts that are not FREE, and never exceeds the demand
capacity (R54); before the image is read every context is FREE. -/
def State.DemandLaw (s : State) : Prop :=
  s.cue.demandSum = (s.streams.contexts.map fun p => p.2.demand).sum ∧ s.cue.demandSum ≤ s.capacity
  ∧ (s.status.phase = .configLoad → s.streams.contexts = [])

/-- At most one context that is not FREE holds any one stream id (R58). -/
def State.StreamIdLaw (s : State) : Prop := (s.streams.contexts.map fun p => p.2.id).Nodup

/-- A context's window: empty while CONTENDING, of at most Q entries, Q being 2 to 16, in strictly rising sequence
position, every position below the generator's next one (R37, R74). -/
def Context.WindowLaw (c : Context) : Prop :=
  (c.state = .contending → c.window = []) ∧ 2 ≤ c.depth ∧ c.depth ≤ 16 ∧ c.window.length ≤ c.depth
  ∧ (c.window.map Entry.pos).Pairwise (· < ·) ∧ ∀ e ∈ c.window, e.pos < c.gen.pos

/-- The window law of every context. -/
def State.WindowLaw (s : State) : Prop := ∀ p ∈ s.streams.contexts, p.2.WindowLaw

/-- Every reference of the offer queue is to a CONTENDING context whose offer is not yet SENT, and no context is
referred to twice (R61). -/
def State.OfferLaw (s : State) : Prop :=
  s.bus.offers.Nodup ∧ ∀ i ∈ s.bus.offers, ∃ c o, s.ctx? i = some c ∧ c.state = .contending ∧ c.offer = some o ∧
    o.phase ≠ .sent

/-- The registers whose range the manual gives stay in it: the synthetic run count, which counts since the last real
mark (R26), the mark interval (R21), the store queue (R16) and the consecutive-timeout counts (R115). -/
def State.RangeLaw (s : State) : Prop :=
  s.clock.synthRun ≤ Config.flywheelRun
  ∧ (s.clock.state = .running → s.clock.synthRun = 0)
  ∧ (∀ i, s.clock.interval = some i → Config.minInterval ≤ i ∧ i ≤ Config.maxInterval)
  ∧ s.dir.storeQueue.length ≤ Config.storeRoom
  ∧ ∀ c : ChannelNo, (s.chan c).timeouts ≤ 3

/-- The window entries, over all contexts, that refer to a slot (R98). -/
def State.refsTo (s : State) (n : Nat) : Nat :=
  (s.streams.contexts.map fun p => (p.2.window.filter fun e => e.slot.map Fin.val == some n).length).sum

/-- The cache agrees with the windows and with its own lists: no two slots carry one key (R97); a slot's reference count
is the number of window entries that refer to it, and an entry refers to no EMPTY slot (R98); the free list holds each
EMPTY slot once (R99), and the reclaim list each VALID slot of count 0 once (R100); a PATCHED slot is referred to (R103);
and a SPENT context has no entry (R89). -/
def State.CacheLaw (s : State) : Prop :=
  (s.cache.slots.map fun p => (p.2.zone, p.2.k)).Nodup
  ∧ (∀ p ∈ s.cache.slots, p.2.refs = s.refsTo p.1)
  ∧ (∀ p ∈ s.streams.contexts, ∀ e ∈ p.2.window, ∀ n, e.slot = some n → s.slot? n ≠ none)
  ∧ s.cache.freeNext ≤ Config.slots ∧ s.cache.freeTail.Nodup ∧ (∀ n ∈ s.cache.freeTail, n.val < s.cache.freeNext)
  ∧ (∀ n, s.slot? n = none ↔ n ∈ s.cache.freeTail ∨ s.cache.freeNext ≤ n.val)
  ∧ s.cache.reclaim.Nodup
  ∧ (∀ n, n ∈ s.cache.reclaim ↔ ∃ slot, s.slot? n = some slot ∧ slot.state = .valid ∧ slot.refs = 0)
  ∧ (∀ p ∈ s.cache.slots, p.2.state = .patched → p.2.refs ≠ 0)
  ∧ ∀ p ∈ s.streams.contexts, p.2.state = .spent → p.2.window = []

/-- A page 0 is being read on the channel. -/
def Channel.beginning (ch : Channel) : Prop :=
  ∃ op f, ch.op = some op ∧ op.kind = .fetchPage f.slot ∧ f ∈ ch.queue ∧ f.pagesDone = 0

/-- The channel queues agree with the cache: each fetch stands on its block's channel and fills a FILLING slot, no two
fill one slot, and every FILLING slot has its fetch (R115, R116); a fetch awaits cancellation only while nothing refers
to its slot (R125); a page being read is of a fetch in that channel's queue (R115, R118, R126); and a partial set holds at
most 4 fetches, at most 3 while a page 0 is being read (R120). -/
def State.FetchLaw (s : State) : Prop :=
  (∀ c, ∀ f ∈ (s.chan c).queue, channelOf f.block = c ∧ f.pagesDone < 3
    ∧ ∃ slot, s.slot? f.slot = some slot ∧ slot.state = .filling ∧ (f.cancelPending = true → slot.refs = 0))
  ∧ (∀ c, ((s.chan c).queue.map Fetch.slot).Nodup)
  ∧ (∀ c d, ∀ f ∈ (s.chan c).queue, ∀ g ∈ (s.chan d).queue, f.slot = g.slot → c = d)
  ∧ (∀ n slot, s.slot? n = some slot → slot.state = .filling → ∃ c, ∃ f ∈ (s.chan c).queue, f.slot = n)
  ∧ (∀ c n issued, (s.chan c).op = some { kind := .fetchPage n, issued := issued } → ∃ f ∈ (s.chan c).queue, f.slot = n)
  ∧ ∀ c, (s.chan c).partials.length ≤ 4 ∧ ((s.chan c).beginning → (s.chan c).partials.length ≤ 3)

/-- A directory load is in progress only in DIRECTORY-LOAD (R4, R10, R18). -/
def State.LoadLaw (s : State) : Prop := s.dir.load ≠ none → s.status.phase = .directoryLoad

/-- Every count the STATE record carries (R173). -/
def State.counts (s : State) : List Count :=
  channels.flatMap (fun c => (s.chan c).counts.list) ++ s.dir.counts.list ++ s.clock.counts.list ++ s.cue.clamps.list
    ++ s.cue.counts.list ++ s.streams.counts.list ++ s.cache.counts.list ++ s.delivery.counts.list ++ s.bus.counts.list
    ++ [s.status.faultOnset]

/-! ### The layout of the STATE record (R173) -/

/-- The value a field without one is sent as: all ones over its bytes. -/
def orOnes (bytes : Nat) (v : Option Nat) : Nat := v.getD (256 ^ bytes - 1)

/-- The fields of the STATE record outside the channels and the counts, in R173's order: offset, bytes, value. -/
def State.recordFields (s : State) : List (Nat × Nat × Nat) :=
  let image := s.status.config
  let ofImage := fun (f : ConfigImage → Nat) => (image.map f).getD 0
  let bridge := fun (i : Nat) => ofImage fun c => orOnes 1 (c.bridges[i]?.map BitVec.toNat)
  let opened := fun (i : Nat) =>
    orOnes 1 (s.delivery.views[i]?.map fun v => ((List.range 64).filter fun l => v.2.getLsbD l).length)
  let contexts := fun st => (s.streams.contexts.filter fun p => p.2.state == st).length
  let slots := fun st => (s.cache.slots.filter fun p => p.2.state == st).length
  let bit := fun (b : Bool) (v : Nat) => if b then v else 0
  [(0, 1, match s.status.phase with
      | .configLoad => 1 | .probe => 2 | .directoryLoad => 3 | .serving => 4 | .service => 5 | .unconfigured => 6),
    (1, 1, s.status.station.toNat),
    (2, 1, bit s.status.faultDriven 128 + bit (s.status.phase == .unconfigured) 1 + bit s.dir.headerFault 2
      + bit (s.fetch.channels.toList.any Channel.offline) 4 + bit (s.clock.state == .lost) 8),
    (3, 1, match s.clock.state with | .unset => 0 | .running => 1 | .paused => 2 | .flywheel => 3 | .lost => 4),
    (4, 4, s.clock.sfc.toNat), (8, 2, orOnes 2 s.clock.interval), (10, 1, orOnes 1 (s.dir.serviceStation.map BitVec.toNat)),
    (11, 1, ofImage fun c => c.bridges.length), (12, 4, s.clock.localTime.toNat),
    (16, 1, bridge 0), (17, 1, bridge 1), (18, 1, bridge 2), (19, 1, bridge 3),
    (20, 1, ofImage fun c => c.clockStation.toNat), (21, 1, ofImage fun c => c.rateCode.toNat),
    (22, 1, ofImage fun c => c.gapCode.toNat), (23, 1, 0),
    (24, 2, ofImage fun c => c.lead.toNat), (26, 2, ofImage fun c => c.margin.toNat),
    (28, 2, ofImage fun c => c.capacity.toNat), (30, 2, 0),
    (32, 3, ofImage fun c => c.zoneMatch.toNat), (35, 3, ofImage fun c => c.zoneMask.toNat), (38, 2, 0),
    (40, 2, 1024 - s.streams.contexts.length), (42, 2, contexts .contending), (44, 2, contexts .running),
    (46, 2, contexts .looping), (48, 2, contexts .spent), (50, 2, s.cue.demandSum),
    (52, 1, opened 0), (53, 1, opened 1), (54, 1, opened 2), (55, 1, opened 3),
    (56, 2, s.bus.offers.length), (58, 2, s.bus.notices.length),
    (60, 1, ((List.range 16).filter fun i => s.bus.requests.getLsbD i).length), (61, 3, 0),
    (64, 4, 262144 - s.cache.slots.length), (68, 4, slots .filling), (72, 4, slots .valid), (76, 4, slots .patched),
    (80, 4, (262144 - s.cache.freeNext) + s.cache.freeTail.length), (84, 4, s.cache.reclaim.length),
    (88, 4, (s.cache.slots.filter fun p => p.2.refs != 0).length),
    (92, 4, s.fetch.extent), (96, 4, s.dir.table.length)]

/-- The fields of channel c's 64 bytes of the STATE record, from offset 128 + 64c on: offset, bytes, value. -/
def State.channelFields (s : State) (c : ChannelNo) : List (Nat × Nat × Nat) :=
  let ch := s.chan c
  let base := 128 + 64 * c.val
  [(base, 1, if ch.offline then 2 else if ch.op.isSome then 1 else 0), (base + 1, 1, ch.timeouts),
    (base + 2, 1, (ch.queue.filter fun f => f.pagesDone == 1 || f.pagesDone == 2).length), (base + 3, 1, 0),
    (base + 4, 4, orOnes 4 ch.pageCount), (base + 8, 4, ch.queue.length)]
    ++ ch.counts.list.zipIdx.map fun x => (base + 12 + 4 * x.2, 4, x.1.toNat)

/-- The count groups of the STATE record, each from its offset on. -/
def State.countFields (s : State) : List (Nat × Nat × Nat) :=
  [(640, s.dir.counts.list), (692, s.clock.counts.list), (720, s.cue.clamps.list), (732, s.cue.counts.list),
    (792, s.streams.counts.list), (848, s.cache.counts.list), (884, s.delivery.counts.list),
    (920, s.bus.counts.list), (1004, [s.status.faultOnset])].flatMap fun g =>
    g.2.zipIdx.map fun x => (g.1 + 4 * x.2, 4, x.1.toNat)

/-- The free list of the cache, head first (R99). -/
def Cache.freeList (c : Cache) : List Nat :=
  (List.range (Config.slots - c.freeNext)).map (· + c.freeNext) ++ c.freeTail.map Fin.val

end Sys2Proof.Machine
end

