-- ==== Sys2Proof/Certificates/Slice0/Obligations.lean ====
section
/-! DEFINITION. The statements for the provers. A command that ends in a next state ends with the standing conditions
brought up to date, so most conclusions say: a next state, the one written out but for those conditions
(`Result.Gives`, `Settles`). The model's choices run through all of them: local time passes before a command (log 1), a
timer is taken at or after its moment and an answer too late ends its read as a timeout (log 2), a frame is taken in every listening bus state (log 3), and
the standing conditions are brought up to date at the end of a command (log 30). -/

open Sys2Proof Sys2Proof.Machine

/-! ### The step, power-on and the standing conditions -/

/-- The model's queue (log 1, 25): a step takes the command at the front and executes it on the state with the rest. -/
def Obligations.StepRunsFrontCommand : Prop :=
  ∀ (c : Instr) (rest : List Instr) (s : State), s.pending = c :: rest → step s = exec c { s with pending := rest }

/-- POWER_ON sets every block to its power-on state, whatever the state before, with the straps as the station number;
the waiting commands stay (log 25), and the CLEAR line is taken as released (log 39) (R18, R33, R53, R95, R130, R131,
R160, R168, R174). -/
def Obligations.PowerOnSetsEveryBlock : Prop :=
  ∀ (straps : Station) (s : State), ∃ t, exec (.powerOn straps) s = .next t
    ∧ t.status = { phase := .configLoad, station := straps, config := none, faultDriven := false, faultOnset := 0 }
    ∧ t.bus.state = .unsynced ∧ t.bus.offers = [] ∧ t.bus.notices = [] ∧ t.bus.requests = 0 ∧ t.bus.contestWord = none
    ∧ t.bus.receiveBuffer = none ∧ t.bus.tenure = none ∧ t.bus.txFrame = none ∧ t.bus.startBit = false
    ∧ t.bus.watch = .idle ∧ t.bus.clear = .released
    ∧ t.clock = { state := .unset, sfc := 0, load := none, localTime := 0, lastEdge := none, interval := none
                  pairingOpen := true, watch := none, synthRun := 0, counts := ⟨0, 0, 0, 0, 0, 0, 0⟩ }
    ∧ t.dir.table = [] ∧ t.dir.headerFault = false ∧ t.dir.load = none ∧ t.dir.awaitsProbe = false ∧ t.dir.serviceStation = none
    ∧ t.dir.storeQueue = [] ∧ t.dir.program = none ∧ t.dir.layout = none
    ∧ t.cue.demandSum = 0 ∧ t.streams.contexts = []
    ∧ (∀ c : ChannelNo, (t.chan c).op = none ∧ (t.chan c).offline = false ∧ (t.chan c).pageCount = none
        ∧ (t.chan c).timeouts = 0 ∧ (t.chan c).queue = [] ∧ (t.chan c).probePending = false)
    ∧ t.fetch.extent = 0 ∧ t.delivery.views = [] ∧ (∀ k ∈ t.counts, k = 0) ∧ t.pending = s.pending

/-- R112, whole: the block cache at power-on, and the slot the first lookup takes. -/
def Obligations.PowerOnCacheState : Prop :=
  ∀ (straps : Station) (s : State), ∃ t, exec (.powerOn straps) s = .next t
    ∧ (∀ n, t.slot? n = none) ∧ (∀ zone k, t.findKey zone k = none)
    ∧ t.cache.freeList = List.range 262144 ∧ t.cache.reclaim = [] ∧ (∀ k ∈ t.cache.counts.list, k = 0)
    ∧ ∀ (zone : Zone) (k block : Nat) (deadline : Time), ∃ u, t.lookup zone k block deadline = some u ∧ u.slot = 0

/-- The laws of every state hold right after power-on, the model's choices among them: station 0, no DRAM byte listed
(log 12, 9). -/
def Obligations.ResetMeetsEveryLaw : Prop :=
  State.reset.MemoryLaw ∧ State.reset.TableLaw ∧ State.reset.DemandLaw ∧ State.reset.StreamIdLaw
  ∧ State.reset.WindowLaw ∧ State.reset.OfferLaw ∧ State.reset.RangeLaw ∧ State.reset.LoadLaw
  ∧ State.reset.CacheLaw ∧ State.reset.FetchLaw

/-- FAULT is driven exactly while a cause holds, and each change from released to driven is counted (R175). Two kinds of
command are left out of that count and follow it: DIRECTORY_LOAD, whose cleared header fault the same command may set again,
and PAGE_TIMEOUT and the answers that come too late (`State.TimesOut`, log 2), which count an OFFLINE that a probe of the
same command ends. The start bit and the bus-stuck watch follow
what there is to send (R148, R159): after a command the bus does not stand in FREE with something to send that may
contend; a command that brings no frame boundary leaves a bus in FREE there without a start bit, or, with something to send
that may contend, BUSY with one; a start bit is sent only then; and the watch is not idle exactly while there is something
to send and no counted CLEAR is asserted. That a start bit sent is a flag until its contest start is the model's choice
(log 28). -/
def Obligations.StandingConditions : Prop :=
  (∀ (c : Instr) (s t : State), exec c s = .next t → (∀ straps, c ≠ .powerOn straps) →
    (t.status.faultDriven = true ↔ t.status.phase = .unconfigured ∨ t.dir.headerFault = true
      ∨ (∃ ch : ChannelNo, (t.chan ch).offline = true) ∨ t.clock.state = .lost)
    ∧ ((∀ dt, c ≠ .directoryLoad dt) → ¬ s.TimesOut c → t.status.faultOnset =
        if t.status.faultDriven = true ∧ s.status.faultDriven = false then inc s.status.faultOnset
        else s.status.faultOnset)
    ∧ (s.TimesOut c →
        (s.status.faultDriven = true → t.status.faultOnset = s.status.faultOnset)
        ∧ (s.status.faultDriven = false → t.status.faultDriven = true →
            t.status.faultOnset = inc s.status.faultOnset)
        ∧ (t.status.faultOnset = s.status.faultOnset ∨ t.status.faultOnset = inc s.status.faultOnset)))
  ∧ ∀ (c : Instr) (s t : State), exec c s = .next t → (∀ straps, c ≠ .powerOn straps) →
    let sends := t.bus.offers ≠ [] ∨ t.bus.notices ≠ [] ∨ t.bus.requests ≠ 0
      ∨ ∃ p ∈ t.streams.contexts, ∃ e rest, p.2.window = e :: rest ∧ t.contends p.2 e = true
    let contends := sends ∧ t.cleared = false ∧ t.status.phase ≠ .configLoad
    (t.bus.state = .free → ¬ contends)
    ∧ (c.isBoundary = false → s.bus.state = .free →
      (contends → t.bus.state = .busy ∧ t.bus.startBit = true)
      ∧ (¬ contends → t.bus.state = .free ∧ t.bus.startBit = s.bus.startBit))
    ∧ (t.bus.startBit = true → s.bus.startBit = true ∨ (contends ∧ t.bus.state = .busy))
    ∧ (t.bus.watch ≠ .idle ↔ sends ∧ t.cleared = false)

/-- What no command but POWER_ON changes: the waiting commands, the station number (R168), a good image once
CONFIG-LOAD is over (R169), and local time but by the time that passes before the command (R19, log 1). The Studio
Frame Count changes only at a mark, real or synthetic, that leaves the clock in RUNNING or FLYWHEEL, by 64 or to the
pending value, and at power-on and at a counted CLEAR, to 0 (R23); the clock leaves UNSET only by a real mark (R24). -/
def Obligations.WhatCommandsMayMove : Prop :=
  (∀ (c : Instr) (s t : State), exec c s = .next t → (∀ straps, c ≠ .powerOn straps) →
    t.pending = s.pending ∧ t.status.station = s.status.station
    ∧ (s.status.phase ≠ .configLoad → t.status.config = s.status.config)
    ∧ t.clock.localTime = s.clock.localTime + c.elapsed)
  ∧ ∀ (c : Instr) (s t : State), exec c s = .next t →
    (t.clock.sfc = s.clock.sfc
      ∨ (((∃ dt, c = .markEdge dt) ∨ ∃ dt, c = .watchExpiry dt)
          ∧ (t.clock.state = .running ∨ t.clock.state = .flywheel)
          ∧ (t.clock.sfc = s.clock.sfc + 64 ∨ ∃ l, s.clock.load = some l ∧ t.clock.sfc = l.value))
      ∨ (((∃ straps, c = .powerOn straps) ∨ ∃ dt, c = .clearCounts dt) ∧ t.clock.sfc = 0))
    ∧ (s.clock.state = .unset → t.clock.state ≠ .unset → ∃ dt, c = .markEdge dt)

/-- No count but by POWER_ON ever falls (R174). -/
def Obligations.CountsNeverFall : Prop :=
  ∀ (c : Instr) (s t : State), exec c s = .next t → (∀ straps, c ≠ .powerOn straps) →
    List.Forall₂ (fun a b : Count => a.toNat ≤ b.toNat) s.counts t.counts

/-- The phase moves as the table of 11.2 says, and a load stands only in DIRECTORY-LOAD (R4, R10, R14, R15, R128, R169,
R170). A SERVICE-ENTER or SERVICE-EXIT addressed to the 7240 is judged also where it comes as the frame of ACK_SLOT_END,
whose row is for frames without an owner here (log 33). -/
def Obligations.PhaseMovesByTheTable : Prop :=
  ∀ (c : Instr) (s t : State), s.LoadLaw → exec c s = .next t →
    let slotOf := fun (body : FrameBody) => ∃ dt bytes f, c = .ackSlotEnd ⟨dt, some bytes⟩ ∧ s.isAddressed bytes
      ∧ judgeFrame bytes .addressed = .wellFormed f ∧ f.body = body
    t.LoadLaw
    ∧ (t.status.phase = s.status.phase
      ∨ ((∃ straps, c = .powerOn straps) ∧ t.status.phase = .configLoad)
      ∨ (s.status.phase = .configLoad ∧ t.status.phase = .probe
          ∧ ∃ dt image, c = .configImageRead dt image ∧ imageGood image = true)
      ∨ (s.status.phase = .configLoad ∧ t.status.phase = .unconfigured
          ∧ ((∃ dt image, c = .configImageRead dt image) ∨ ∃ dt, c = .configReadTimeout dt))
      ∨ (s.status.phase = .probe ∧ t.status.phase = .directoryLoad
          ∧ ((∃ dt ch pages, c = .geometryReadAnswer dt ch pages) ∨ ∃ dt ch, c = .geometryReadTimeout dt ch))
      ∨ (s.status.phase = .directoryLoad ∧ t.status.phase = .serving)
      ∨ (s.status.phase = .serving ∧ t.status.phase = .service
          ∧ ((∃ heard src, c = .serviceEnter heard src) ∨ slotOf .serviceEnter))
      ∨ (s.status.phase = .service ∧ t.status.phase = .directoryLoad
          ∧ ((∃ heard src, c = .serviceExit heard src) ∨ slotOf .serviceExit ∨ ∃ dt, c = .clearCounts dt)))

/-! ### Laws every step keeps -/

/-- The listed bytes of the stacked DRAM (R96; the form is the model's, log 9), the context table and the slot table stay
in canonical form, within 1,024 contexts (R72) and 262,144 slots (R96). -/
def Obligations.MemoryAndTablesStayCanonical : Prop :=
  (∀ s t : State, s.MemoryLaw → step s = .next t → t.MemoryLaw)
  ∧ ∀ s t : State, s.TableLaw → step s = .next t → t.TableLaw

/-- The demand sum is the sum of the demand figures of the contexts not in FREE and never exceeds C (R54). -/
def Obligations.DemandSumLaw : Prop :=
  ∀ s t : State, s.TableLaw → s.DemandLaw → step s = .next t → t.DemandLaw

/-- At most one context that is not FREE holds any one stream id (R58). -/
def Obligations.StreamIdsStayDistinct : Prop :=
  ∀ s t : State, s.TableLaw → s.StreamIdLaw → step s = .next t → t.StreamIdLaw

/-- A window holds at most Q entries in strictly rising sequence position, none while CONTENDING (R74).
-/
def Obligations.WindowsStayWithinDepth : Prop :=
  ∀ s t : State, s.TableLaw → s.WindowLaw → step s = .next t → t.WindowLaw

/-- The offer queue refers, once each, to CONTENDING contexts whose offer has not been SENT (R53, R61, R62). -/
def Obligations.OfferQueueHoldsContenders : Prop :=
  ∀ s t : State, s.WindowLaw → s.OfferLaw → step s = .next t → t.OfferLaw

/-- The synthetic run count (R26), the mark interval (R21), the store queue (R16) and the consecutive-timeout counts
(R115) stay in the ranges the manual gives. -/
def Obligations.RegistersStayInRange : Prop :=
  ∀ s t : State, s.RangeLaw → step s = .next t → t.RangeLaw

/-- The cache agrees with the windows, with its two lists and with the channel queues: no two slots carry one key (R97);
a slot's reference count is the number of window entries that refer to it, and is 0 on the free and reclaim lists (R98 to
R100); a FILLING slot has one fetch, on its block's channel (R115, R116), which awaits cancellation only while nothing
refers to the slot (R125); a page being read is of a fetch in that channel's queue (R115, R118, R126); and a partial set
holds at most 4 fetches, at most 3 while a page 0 is being read (R120). -/
def Obligations.CacheAndQueuesAgree : Prop :=
  ∀ s t : State, s.TableLaw → s.CacheLaw → s.FetchLaw → step s = .next t → t.CacheLaw ∧ t.FetchLaw

/-! ### Frames and words -/

/-- Every well-formed frame, with every field at every value its width admits, is read back as it was sent (R161 to
R165). -/
def Obligations.FrameRoundTrip : Prop :=
  ∀ f : WireFrame, f.wellFormed = true → judgeFrame (encodeFrame f) f.delimiter = .wellFormed f

/-! ### Start-up (R127, R128, R169, R171) -/

/-- CONFIG_IMAGE_READ with a good image, within 10,000 µs of power-on, hands the fields to their owners, byte for byte by
R169's layout, gives the clock its initial interval by the rate code and has every channel probed (R21, R33, R128, R131,
R169); an image that fails a test of R169's table, or that comes after 10,000 µs, and the memory's silence for 10,000 µs,
put the part in UNCONFIGURED (R169, R171). That a late image is a bad one is the model's reading (log 31). -/
def Obligations.ConfigImageJudged : Prop :=
  ∀ (dt : Micros) (image : List Byte) (s : State), s.status.phase = .configLoad →
    let at' := fun offset bytes : Nat => Bytes.field image offset bytes
    let fields : ConfigImage :=
      { bridges := (List.range (at' 0 1)).map fun i => BitVec.ofNat 4 (at' (1 + i) 1)
        clockStation := BitVec.ofNat 4 (at' 5 1), rateCode := BitVec.ofNat 2 (at' 6 1)
        gapCode := BitVec.ofNat 2 (at' 7 1), lead := BitVec.ofNat 16 (at' 8 2), margin := BitVec.ofNat 16 (at' 10 2)
        capacity := BitVec.ofNat 16 (at' 12 2), zoneMatch := BitVec.ofNat 24 (at' 14 3)
        zoneMask := BitVec.ofNat 24 (at' 17 3) }
    let interval := if fields.rateCode = 0 then 1451 else if fields.rateCode = 1 then 1333
      else if fields.rateCode = 2 then 726 else 667
    let good := image.length = 64 ∧ ((List.range 32).map fun i => at' (2 * i) 2).sum % 65536 = 0xA55A
      ∧ 1 ≤ at' 0 1 ∧ at' 0 1 ≤ 4 ∧ fields.bridges.Nodup ∧ fields.clockStation ∈ fields.bridges
      ∧ fields.capacity ≠ 0 ∧ fields.lead.toNat ≤ 16383
    let late := 10000 < signedDiff (s.clock.localTime + dt) 0
    (good → ¬ late → s.cleared = false → (∀ ch : ChannelNo, (s.chan ch).op = none) →
      Result.Gives (exec (.configImageRead dt image) s)
        { s with
          status := { s.status with phase := .probe, config := some fields }
          clock := { s.clock.later dt with interval := some interval }
          delivery := { s.delivery with views := fields.bridges.map fun b => (b, 0) }
          fetch := { s.fetch with channels := s.fetch.channels.map fun ch =>
            { ch with offline := false, probePending := false, timeouts := 0, pageCount := none
                      op := some { kind := .probe 1, issued := s.clock.localTime + dt } } } })
    ∧ (¬ good ∨ late → Result.Gives (exec (.configImageRead dt image) s)
        { s.later dt with status := { s.status with phase := .unconfigured } })
    ∧ (10000 ≤ signedDiff (s.clock.localTime + dt) 0 → Result.Gives (exec (.configReadTimeout dt) s)
        { s.later dt with status := { s.status with phase := .unconfigured } })

/-- GEOMETRY_READ_ANSWER within 2,000 µs, on a channel with nothing waiting: the page count is recorded and the channel is
IDLE (R127). GEOMETRY_READ_TIMEOUT after 2,000 µs: the first two attempts are followed by the next, the third takes the
channel OFFLINE with no page count (R127). Either way the last probe of the eight to finish fixes P, and a start-up passes
to DIRECTORY-LOAD (R127, R128). An answer later than 2,000 µs is not recorded, the attempt having timed out (R127); that its
command then has the timeout's effect, and a timer at or after its moment, are the model's choice (log 2). -/
def Obligations.ProbesRunAndEnd : Prop :=
  ∀ (dt : Micros) (ch : ChannelNo) (pages attempt : Nat) (issued : Time) (s : State),
    (s.chan ch).op = some { kind := .probe attempt, issued := issued } →
    let failed := fun (k : Channel) =>
      { k with counts := { k.counts with probeFailures := inc k.counts.probeFailures } }
    let finished := fun (cmd : Instr) (u : State) =>
      ((∃ c, c ≠ ch ∧ (s.chan c).probing = true) → Result.Gives (exec cmd s) u)
      ∧ ((∀ c, c ≠ ch → (s.chan c).probing = false) → ∃ p, u.ExtentIs p ∧ Result.Gives (exec cmd s)
          { u with fetch := { u.fetch with extent := p }
                   status := { s.status with phase :=
                     if s.status.phase = .probe then .directoryLoad else s.status.phase } })
    let waited := signedDiff (s.clock.localTime + dt) issued
    (waited ≤ 2000 →
      (s.chan ch).queue = [] → (s.chan ch).probePending = false → (s.chan ch).offline = false → s.cleared = false →
      s.dir.load = none → s.dir.program = none →
      finished (.geometryReadAnswer dt ch pages)
        ((s.later dt).updChan ch fun k => { k with op := none, pageCount := some pages }))
    ∧ (∀ cmd, (cmd = .geometryReadTimeout dt ch ∧ 2000 ≤ waited) ∨ (cmd = .geometryReadAnswer dt ch pages ∧ 2000 < waited) →
      (attempt < 3 → Result.Gives (exec cmd s)
        ((s.later dt).updChan ch fun k =>
          { failed k with op := some { kind := .probe (attempt + 1), issued := s.clock.localTime + dt } }))
      ∧ (3 ≤ attempt → (s.chan ch).queue = [] → (s.chan ch).probePending = false → s.dir.load = none →
        finished cmd
          ((s.later dt).updChan ch fun k =>
            { k with op := none, offline := true, pageCount := none
                     counts := { k.counts with probeFailures := inc k.counts.probeFailures
                                               offlineEntries := inc k.counts.offlineEntries } })))

/-! ### The directory (R3 to R10) -/

/-- DIRECTORY_LOAD: the table and the header fault are gone, and the header page's read is issued on channel 0, waits for
the operation in progress there, or on an OFFLINE channel is unreadable at once (R4, R13, R15, R121, R124). The header
page read: a good header with records has its first record page read, on channel 1, and one without records completes the
load at once; a bad header, or an unreadable page, an unread one that times out, answered later than 2,000 µs or not, and
one still waiting when channel 0 goes OFFLINE, complete the load with an empty table and the header-fault flag set (R3, R4,
R10, R118, R121, R122, R124). That the header is judged against the extent in force when its page completes is the model's
choice (log 40), and so are a timer at or after its moment and that the row of an answer too late has the timeout's effect
(log 2); that the store layout is none from the load's beginning is its reading (log 20). -/
def Obligations.DirectoryHeaderReadAndJudged : Prop :=
  (∀ (dt : Micros) (s : State),
    s.status.phase = .directoryLoad → s.dir.load = none → s.cleared = false → s.dir.storeQueue = [] →
    s.dir.program = none → (s.dir.awaitsProbe = false ∨ ∀ ch : ChannelNo, (s.chan ch).probing = false) →
    let begun := { s.dir with table := [], headerFault := false, loaded := none, layout := none, awaitsProbe := false
                              load := some .header }
    ((s.chan 0).offline = false →
      (∀ n, (s.chan 0).op = none → (s.chan 0).probePending = false → (s.chan 0).pageCount = some n → 0 < n →
        Result.Gives (exec (.directoryLoad dt) s)
          (({ s.later dt with dir := begun }).updChan 0
            fun k => { k with op := some { kind := .directoryPage, issued := s.clock.localTime + dt } }))
      ∧ ((s.chan 0).op ≠ none → Result.Gives (exec (.directoryLoad dt) s) { s.later dt with dir := begun }))
    ∧ ((s.chan 0).offline = true → Result.Gives (exec (.directoryLoad dt) s)
        { s.later dt with
          dir := { begun with headerFault := true, load := none
                              counts := { s.dir.counts with loads := inc s.dir.counts.loads } }
          status := { s.status with phase := .serving } }))
  ∧ ∀ (dt : Micros) (issued : Time) (s : State), s.dir.load = some .header →
    (s.chan 0).queue = [] → (s.chan 0).probePending = false → (s.chan 0).offline = false → s.cleared = false →
    s.dir.program = none →
    let reads := fun (k : OperationKind) => (s.chan 0).op = some { kind := k, issued := issued }
    let ends := fun (header : Option DirectoryHeader) (channel : Channel → Channel) =>
      { (s.later dt).updChan 0 channel with
        dir := { s.dir with table := [], headerFault := header.isNone, loaded := header, load := none
                            counts := { s.dir.counts with loads := inc s.dir.counts.loads } }
        status := { s.status with phase := .serving } }
    let late := fun (k : Channel) => { PageEnd.timeout.counted k with op := none }
    let third := fun (k : Channel) =>
      { k with op := none, timeouts := 3, offline := true
               counts := { k.counts with timeout := inc k.counts.timeout
                                         offlineEntries := inc k.counts.offlineEntries } }
    let waited := signedDiff (s.clock.localTime + dt) issued
    (reads .directoryPage → waited ≤ 2000 → ∀ (out : PageOutcome) (bytes : List Byte),
      let records := Bytes.field bytes 4 4
      let blocks := Bytes.field bytes 8 4
      let good := Bytes.field bytes 0 4 = 0x72400D1A ∧ records ≤ 1048576 ∧ 1 + ceilDiv records 384 ≤ blocks
        ∧ blocks ≤ s.fetch.extent
      let header : DirectoryHeader := { records := records, blocks := blocks }
      let answered := fun (k : Channel) => { (PageEnd.answer out).counted k with op := none }
      ((out = .good bytes ∨ out = .corrected bytes) →
        (good → 0 < records →
          (s.chan 1).op = none → (s.chan 1).probePending = false → (s.chan 1).offline = false →
          (∃ n, (s.chan 1).pageCount = some n ∧ 0 < n) →
          Result.Gives (exec (.directoryPageRead dt 0 out) s)
            (({ (s.later dt).updChan 0 answered with
                dir := { s.dir with load := some (.records header 0 []) } }).updChan 1
              fun k => { k with op := some { kind := .directoryPage, issued := s.clock.localTime + dt } }))
        ∧ (good → records = 0 →
          Result.Gives (exec (.directoryPageRead dt 0 out) s) (ends (some header) answered))
        ∧ (¬ good → Result.Gives (exec (.directoryPageRead dt 0 out) s) (ends none answered)))
      ∧ (out = .uncorrectable → Result.Gives (exec (.directoryPageRead dt 0 out) s) (ends none answered)))
    ∧ ∀ (cmd : Instr) (out : PageOutcome),
      let expires := fun row => (cmd = .pageTimeout dt 0 ∧ 2000 ≤ waited) ∨ (cmd = row ∧ 2000 < waited)
      (reads .directoryPage → expires (.directoryPageRead dt 0 out) → (s.chan 0).timeouts < 2 →
        Result.Gives (exec cmd s) (ends none late))
      ∧ ((reads .directoryPage ∧ expires (.directoryPageRead dt 0 out))
          ∨ (reads .discardedFetchPage ∧ expires (.fetchPageRead dt 0 out)) → (s.chan 0).timeouts = 2 →
        Result.Gives (exec cmd s) (ends none third))

/-- DIRECTORY_PAGE_READ of a record page, or its PAGE_TIMEOUT: its records, read by R167's layout, are checked in position
order behind those accepted before, or counted unreadable, as they are too where the answer comes later than 2,000 µs (R4,
R118, R122, R167); then the next record page is read, on the
channel and at the channel page that its place in the directory gives (R4, R13), or, after the last, the load completes
into SERVING with the table as built (R10). That a record is judged against the extent in force when its page completes is
the model's choice (log 40), and so are a timer at or after its moment and that the row of an answer too late has the
timeout's effect (log 2). -/
def Obligations.RecordPagesBuildTheTable : Prop :=
  ∀ (dt : Micros) (ch : ChannelNo) (issued : Time) (header : DirectoryHeader) (page : Nat)
    (accepted : List ZoneRecord) (config : ConfigImage) (s : State),
    (s.chan ch).op = some { kind := .directoryPage, issued := issued } →
    s.dir.load = some (.records header page accepted) → s.status.config = some config →
    (s.chan ch).queue = [] → (s.chan ch).probePending = false → (s.chan ch).offline = false → s.cleared = false →
    s.dir.program = none →
    let more := page + 1 < ceilDiv header.records 128
    let block := 1 + (page + 1) / 3
    let next := channelOf block
    (more → (next = ch ∨ (s.chan next).op = none) ∧ (s.chan next).probePending = false ∧ (s.chan next).offline = false
      ∧ ∃ n, (s.chan next).pageCount = some n ∧ channelPage block ((page + 1) % 3) < n) →
    let onPage := min 128 (header.records - 128 * page)
    let unread := { s.dir.counts with unreadable := addCount s.dir.counts.unreadable onPage }
    let record := fun (bytes : List Byte) (i : Nat) =>
      let at' := fun offset width : Nat => Bytes.field bytes (32 * i + offset) width
      ({ zone := BitVec.ofNat 24 (at' 0 3), format := at' 3 1, length := at' 4 4, base := at' 8 4, stored := at' 12 2
         loop := if at' 14 1 = 0 then none else some { first := at' 16 4, stop := at' 20 4 } } : RawRecord)
    let ends := fun (cmd : Instr) (how : PageEnd) (table : List ZoneRecord) (counts : DirectoryCounts) =>
      let u := (s.later dt).updChan ch fun k => { how.counted k with op := none }
      Result.Gives (exec cmd s) (if more then
        ({ u with dir := { s.dir with load := some (.records header (page + 1) table), counts := counts } }).updChan next
          fun k => { k with op := some { kind := .directoryPage, issued := s.clock.localTime + dt } }
      else
        { u with
          dir := { s.dir with table := table, headerFault := false, loaded := some header, load := none
                              counts := { counts with loads := inc counts.loads } }
          status := { s.status with phase := .serving } })
    let waited := signedDiff (s.clock.localTime + dt) issued
    (waited ≤ 2000 → ∀ out : PageOutcome,
      (∀ bytes, (out = .good bytes ∨ out = .corrected bytes) →
        let checked := ((List.range onPage).map (record bytes)).foldl
          (checkRecord config s.fetch.extent header.blocks) (accepted, s.dir.counts)
        ends (.directoryPageRead dt ch out) (.answer out) checked.1 checked.2)
      ∧ (out = .uncorrectable → ends (.directoryPageRead dt ch out) (.answer out) accepted unread))
    ∧ ((s.chan ch).timeouts < 2 →
      (2000 ≤ waited → ends (.pageTimeout dt ch) .timeout accepted unread)
      ∧ (2000 < waited → ∀ out, ends (.directoryPageRead dt ch out) (.late out) accepted unread))

/-- R5, whole: the length and format skips, each counted alone, and a skipped record leaves no trace for those that
follow. -/
def Obligations.RecordSkippedForLengthOrFormat : Prop :=
  ∀ (config : ConfigImage) (extent blocks : Nat) (table : List ZoneRecord) (counts : DirectoryCounts) (r : RawRecord),
    let badLength := r.length = 0 ∨ 67108864 < r.length
    let badFormat := r.format ∉ [1, 2, 3, 4]
    let after := checkRecord config extent blocks (table, counts) r
    let length := (table, { counts with lengthSkips := inc counts.lengthSkips })
    let badly := (table, { counts with formatSkips := inc counts.formatSkips })
    (badLength → ¬ badFormat → after = length) ∧ (badFormat → ¬ badLength → after = badly)
    ∧ (badLength → badFormat → after = length ∨ after = badly)
    ∧ (badLength ∨ badFormat → ∀ rest : List RawRecord,
        (rest.foldl (checkRecord config extent blocks) after).1
          = (rest.foldl (checkRecord config extent blocks) (table, counts)).1)

/-- A record that passes R5 is skipped for its order (R6) or its match (R7), or accepted with its loop kept or dropped
(R8), its stored count lowered to what the zone needs (R167), its effective count and its short flag (R9). -/
def Obligations.RecordJudged : Prop :=
  ∀ (config : ConfigImage) (extent blocks : Nat) (table : List ZoneRecord) (counts : DirectoryCounts) (r : RawRecord)
    (format : Format),
    r.length ≠ 0 → r.length ≤ 67108864 → Format.ofCode r.format = some format →
    let inOrder := ∀ p, table.getLast? = some p → p.zone < r.zone
    let passes := r.zone &&& config.zoneMask = config.zoneMatch &&& config.zoneMask
    let needed := ceilDiv r.length format.framesPerBlock
    let c := if r.base < blocks then 0 else min r.stored (min needed (extent - r.base))
    let keep := ∀ l, r.loop = some l → l.first < l.stop ∧ l.stop ≤ r.length ∧ 256 ≤ l.stop - l.first
    let after := checkRecord config extent blocks (table, counts) r
    let record := fun loop => ({ zone := r.zone, format := format, length := r.length, base := r.base
                                 stored := min r.stored needed, loop := loop, effective := c
                                 short := decide (c < needed) } : ZoneRecord)
    let short := if c < needed then inc counts.shortRecords else counts.shortRecords
    (¬ inOrder → after = (table, { counts with orderSkips := inc counts.orderSkips }))
    ∧ (inOrder → ¬ passes → after = (table, { counts with matchSkips := inc counts.matchSkips }))
    ∧ (inOrder → passes → keep → after = (table ++ [record r.loop], { counts with shortRecords := short }))
    ∧ (inOrder → passes → ¬ keep → after = (table ++ [record none],
        { counts with shortRecords := short, droppedLoops := inc counts.droppedLoops }))

/-! ### Fetches (R106, R107, R118, R119, R122) -/

/-- FETCH_PAGE_READ or PAGE_TIMEOUT of page 0 or 1 of a fetch, the channel staying out of OFFLINE: the page's 4,096 bytes
stand in the slot, as read when good or corrected, zeros when uncorrectable or not answered within 2,000 µs, and no other
byte has changed; the page is reported, patched in the latter two cases and counted so; the outcome is counted and the consecutive-timeout
count set; and the channel reads the page that R120's table chooses among all its fetches, a break-in counted as one (R96,
R106, R118 to R120, R122). That the row of an answer too late has the timeout's effect, and a timer at or after its moment,
are the model's choice (log 2). -/
def Obligations.FetchPageWritten : Prop :=
  ∀ (dt : Micros) (ch : ChannelNo) (how : PageEnd) (n : SlotNo) (f next : Fetch) (breakIn : Bool) (issued : Time)
    (m : Nat) (s : State),
    (s.chan ch).op = some { kind := .fetchPage n, issued := issued } → s.CanEnd dt ch issued how →
    f ∈ (s.chan ch).queue → f.slot = n →
    ((s.chan ch).queue.map Fetch.slot).Nodup → f.cancelPending = false → f.pagesDone < 2 →
    (s.chan ch).offline = false → (s.chan ch).probePending = false → s.cleared = false →
    s.dir.program = none → s.dir.load = none → s.MemoryLaw →
    let queue := (s.chan ch).queue.map fun x => if x.slot = n then { x with pagesDone := x.pagesDone + 1 } else x
    choiceOf queue s.margin = some (next, breakIn) →
    (s.chan ch).pageCount = some m → channelPage next.block next.pagesDone < m →
    ∃ t, exec (how.ofFetch dt ch) s = .next t
      ∧ (∀ i < 4096, Dram.read t.cache.dram (Dram.pageAddress n f.pagesDone + i) = how.byte i)
      ∧ (∀ a, a < Dram.pageAddress n f.pagesDone ∨ Dram.pageAddress n f.pagesDone + 4096 ≤ a →
          Dram.read t.cache.dram a = Dram.read s.cache.dram a)
      ∧ Settles
        (({ s.later dt with cache := { s.cache with
              dram := t.cache.dram
              slots := Sparse.modify s.cache.slots n.val fun x =>
                { x with pagesDone := x.pagesDone + 1
                         patched := if how.patched = true then x.patched ||| (1#3 <<< f.pagesDone) else x.patched } } }
            ).updChan ch fun k =>
          { how.counted k with
            queue := queue, op := some { kind := .fetchPage next.slot, issued := s.clock.localTime + dt }
            counts := { (how.counted k).counts with
              patchedPages := if how.patched = true then inc k.counts.patchedPages else k.counts.patchedPages
              begun := if next.pagesDone = 0 then inc k.counts.begun else k.counts.begun
              breakIns := if breakIn = true then inc k.counts.breakIns else k.counts.breakIns } }) t

/-- FETCH_PAGE_READ or PAGE_TIMEOUT of the third page, the channel staying out of OFFLINE: the page is written and reported
as every page is, the fetch is finished and every entry that refers to the slot is ready with its patched-page set. With no
page patched the slot is VALID, and with no reference it joins the reclaim list; with a page patched it is PATCHED, and with
no reference it is emptied. A patched head is counted by its TOLERANT stream and ends a STRICT one with reason FAULT, its
entries withdrawn (R77, R82, R83, R89, R90, R107, R118, R119, R122). That their references are released from head to tail
is the model's choice (log 5), and so are a timer at or after its moment and that the row of an answer too late has the
timeout's effect (log 2). -/
def Obligations.FillMakesEntriesReady : Prop :=
  ∀ (dt : Micros) (ch : ChannelNo) (how : PageEnd) (n : SlotNo) (f : Fetch) (slot : Slot) (issued : Time)
    (s : State),
    (s.chan ch).op = some { kind := .fetchPage n, issued := issued } → s.CanEnd dt ch issued how →
    (s.chan ch).queue = [f] → f.slot = n →
    f.cancelPending = false → f.pagesDone = 2 → s.slot? n = some slot →
    (s.chan ch).offline = false → (s.chan ch).probePending = false → s.cleared = false →
    s.dir.program = none → s.dir.load = none → s.TableLaw → s.MemoryLaw →
    ∃ t, exec (how.ofFetch dt ch) s = .next t
      ∧ (∀ i < 4096, Dram.read t.cache.dram (Dram.pageAddress n 2 + i) = how.byte i)
      ∧ (∀ a, a < Dram.pageAddress n 2 ∨ Dram.pageAddress n 2 + 4096 ≤ a →
          Dram.read t.cache.dram a = Dram.read s.cache.dram a)
      ∧ (let set := if how.patched = true then slot.patched ||| 4#3 else slot.patched
        let done := fun (cache : Cache) (streams : StreamEngine) =>
          ({ s.later dt with cache := { cache with dram := t.cache.dram }, streams := streams }).updChan ch fun k =>
            { how.counted k with
              queue := [], op := none
              counts := { (how.counted k).counts with
                patchedPages := if how.patched = true then inc k.counts.patchedPages else k.counts.patchedPages
                completed := inc k.counts.completed } }
        let full := fun (state : SlotState) => Sparse.modify s.cache.slots n.val fun x =>
          { x with pagesDone := x.pagesDone + 1, state := state, patched := set }
        let filled := fun (e : Entry) =>
          if e.slot = some n then { e with ready := true, patched := set } else e
        let seen := fun (c : Context) => { c with window := c.window.map filled }
        let counts := { s.cache.counts with patchedFill := inc s.cache.counts.patchedFill }
        let patched := { s.cache with slots := full .patched, counts := counts }
        (set = 0 → Settles
          (done
            { s.cache with
              slots := full .valid
              reclaim := if slot.refs = 0 then s.cache.reclaim ++ [n] else s.cache.reclaim
              counts := { s.cache.counts with validFill := inc s.cache.counts.validFill } }
            { s.streams with contexts := if slot.refs = 0 then s.streams.contexts
                else s.streams.contexts.map fun p => (p.1, seen p.2) }) t)
        ∧ (set ≠ 0 → slot.refs = 0 → Settles
          (done { s.cache with
              slots := Sparse.erase s.cache.slots n.val, freeTail := s.cache.freeTail ++ [n]
              counts := { counts with patchedRelease := inc s.cache.counts.patchedRelease } } s.streams) t)
        ∧ (set ≠ 0 → slot.refs ≠ 0 →
          ((∀ p ∈ s.streams.contexts, p.2.policy = .tolerant) → Settles
            (done patched { s.streams with contexts := s.streams.contexts.map fun p => (p.1, { seen p.2 with
              patched := if p.2.window.head?.bind Entry.slot = some n then inc p.2.patched else p.2.patched }) }) t)
          ∧ ∀ i c e rest, s.ctx? i = some c → c.policy = .strict → c.window = e :: rest → e.slot = some n →
            (∀ p ∈ s.streams.contexts, p.1 ≠ i → ∀ x ∈ p.2.window, x.slot ≠ some n) →
            let ended := done patched
              { contexts := Sparse.modify s.streams.contexts i fun x =>
                  { x with patched := inc x.patched, state := .spent, window := []
                           gen := { x.gen with closed := true }, endReason := some .fault, offer := none }
                counts := { s.streams.counts with
                  withdrawn := addCount s.streams.counts.withdrawn c.window.length
                  endFault := inc s.streams.counts.endFault } }
            Settles (({ ended with bus := { s.bus with
              notices := s.bus.notices ++ [Notice.ended i c.id .fault c.delivered c.dropped (inc c.patched)] } }).released
                c.window) t))

/-- PAGE_TIMEOUT after 2,000 µs of a discarded read, or an answer later than that: it is counted as a timeout, and nothing is
written (R118, R122, R129). The third
timeout in a row, of a discarded read or of any page of a fetch, takes the channel OFFLINE: every fetch of its queue, the
one whose page timed out among them, completes with its remaining pages zeros and patched, its slot PATCHED or, with no
reference, emptied, and its entries ready (R77, R107, R119, R122, R123); a page patched for OFFLINE is counted as such, the
page that timed out is not; FAULT's onset is counted, also where a pending probe ends OFFLINE at once (R128, R175). That
the queue completes patched before that probe is the model's choice (log 37), and so are a timer at or after its moment and
that the row of an answer too late has the timeout's effect (log 2). -/
def Obligations.PageTimeoutCounts : Prop :=
  ∀ (dt : Micros) (ch : ChannelNo) (kind : OperationKind) (issued : Time) (cmd : Instr) (out : PageOutcome) (s : State),
    (s.chan ch).op = some { kind := kind, issued := issued } →
    let waited := signedDiff (s.clock.localTime + dt) issued
    (cmd = .pageTimeout dt ch ∧ 2000 ≤ waited) ∨ (cmd = .fetchPageRead dt ch out ∧ 2000 < waited) →
    (s.chan ch).offline = false →
    s.cleared = false → s.dir.program = none → s.dir.load = none →
    let queue := (s.chan ch).queue
    let left := (queue.map fun f => 3 - f.pagesDone).sum
    let offline := fun (own : Nat) (k : Channel) =>
      { k with timeouts := 3, op := none, queue := [], offline := true
               counts := { k.counts with
                 timeout := inc k.counts.timeout, offlineEntries := inc k.counts.offlineEntries
                 offlinePatched := addCount k.counts.offlinePatched (left - own)
                 patchedPages := addCount k.counts.patchedPages left
                 completed := addCount k.counts.completed queue.length } }
    let probed := fun (k : Channel) =>
      { k with timeouts := 0, offline := false, probePending := false, pageCount := none
               op := some { kind := .probe 1, issued := s.clock.localTime + dt } }
    (kind = .discardedFetchPage → queue = [] →
      let after := fun (k : Channel) => if (s.chan ch).timeouts < 2 then { PageEnd.timeout.counted k with op := none }
        else offline 0 k
      (s.chan ch).timeouts ≤ 2 →
      Result.Gives (exec cmd s) ((s.later dt).updChan ch fun k =>
        if (s.chan ch).probePending = true then probed (after k) else after k))
    ∧ ((s.chan ch).timeouts = 2 → s.TableLaw → s.MemoryLaw → s.CacheLaw → s.FetchLaw →
      (∀ p ∈ s.streams.contexts, p.2.policy = .tolerant) →
      ∀ own, ((kind = .discardedFetchPage ∧ own = 0)
          ∨ ∃ f ∈ queue, kind = .fetchPage f.slot ∧ f.cancelPending = false ∧ own = 1) →
        ∃ t, exec cmd s = .next t ∧ QueuePatched queue s t
          ∧ Settles { s.later dt with
              streams := t.streams, cache := t.cache
              fetch := (s.updChan ch fun k =>
                if (s.chan ch).probePending = true then probed (offline own k) else offline own k).fetch } t
          ∧ (s.status.faultDriven = false → t.status.faultOnset = inc s.status.faultOnset))

/-! ### SERVICE (R14 to R17) -/

/-- SERVICE_ENTER and SERVICE_EXIT of a frame addressed to the 7240: accepted, repeated or refused (R14, R15, R114, R130, R155). -/
def Obligations.ServiceEnteredAndLeft : Prop :=
  ∀ (dt : Micros) (src : Station) (frame : List Byte) (s : State), s.judgesAddressed frame →
    (s.status.phase = .serving → s.streams.contexts = [] → src ∈ s.bridges →
      Result.Gives (exec (.serviceEnter ⟨dt, frame⟩ src) s)
        { s.heard dt frame (.ackSlot true) with
          status := { s.status with phase := .service }
          dir := { s.dir with serviceStation := some src, layout := some (match s.dir.loaded with
            | some h => { blocks := h.blocks, recordBlocks := ceilDiv h.records 384 }
            | none => { blocks := 1, recordBlocks := 0 }) }
          cache := { s.cache with slots := [], freeNext := 0, freeTail := [], reclaim := [] }
          fetch := { s.fetch with channels := s.fetch.channels.map Channel.dropFetches } })
    ∧ (s.status.phase = .service → s.dir.serviceStation = some src →
      Result.Gives (exec (.serviceEnter ⟨dt, frame⟩ src) s) (s.heard dt frame (.ackSlot true))
      ∧ Result.Gives (exec (.serviceExit ⟨dt, frame⟩ src) s)
        { s.heard dt frame (.ackSlot true) with
          status := { s.status with phase := .directoryLoad }, dir := { s.dir with serviceStation := none } })
    ∧ (¬ (s.status.phase = .serving ∧ s.streams.contexts = [] ∧ src ∈ s.bridges) →
      ¬ (s.status.phase = .service ∧ s.dir.serviceStation = some src) →
      Result.Gives (exec (.serviceEnter ⟨dt, frame⟩ src) s)
        { s.heard dt frame (.ackSlot false) with
          dir := { s.dir with counts := { s.dir.counts with refusedService := inc s.dir.counts.refusedService } } })
    ∧ (¬ (s.status.phase = .service ∧ s.dir.serviceStation = some src) →
      Result.Gives (exec (.serviceExit ⟨dt, frame⟩ src) s)
        { s.heard dt frame (.ackSlot false) with
          dir := { s.dir with counts := { s.dir.counts with refusedService := inc s.dir.counts.refusedService } } })

/-- STORE of a frame addressed to the 7240: queued behind the requests already there, refused, or from an unknown source (R16, R154, R155). -/
def Obligations.StoreQueued : Prop :=
  ∀ (dt : Micros) (src : Station) (address : BitVec 32) (data frame : List Byte) (s : State),
    s.judgesAddressed frame →
    let cmd : Instr := .store ⟨dt, frame⟩ src address data
    let accepts := s.status.phase = .service ∧ s.dir.serviceStation = some src ∧ s.dir.storeQueue.length < 4
    (src ∈ s.bridges → accepts → Result.Gives (exec cmd s)
      { s.heard dt frame (.ackSlot true) with dir := { s.dir with
          storeQueue := s.dir.storeQueue ++ [{ station := src, address := address, data := data }] } })
    ∧ (src ∈ s.bridges → ¬ accepts → Result.Gives (exec cmd s)
      { s.heard dt frame (.ackSlot false) with
        dir := { s.dir with counts := { s.dir.counts with refusedStore := inc s.dir.counts.refusedStore } } })
    ∧ (src ∉ s.bridges → Result.Gives (exec cmd s)
      { s.heard dt frame (.ackSlot false) with
        bus := { (s.heard dt frame (.ackSlot false)).bus with
          counts := { s.bus.counts with unknownSource := inc s.bus.counts.unknownSource } } })

/-- STORE_TAKEN: the oldest request is judged by R17's table: beyond the probed flash or inside the directory region
but neither block 0 nor a record block, BAD-ADDRESS; on an OFFLINE channel, PROGRAM-FAILED; else it becomes the program
in progress. -/
def Obligations.StoreTakenJudged : Prop :=
  ∀ (dt : Micros) (request : StoreRequest) (rest : List StoreRequest) (s : State),
    s.dir.storeQueue = request :: rest → s.dir.program = none →
    (s.bus.notices.filter Notice.isStored).length < 4 →
    let a := request.address.toNat
    let barred := ∃ l, s.dir.layout = some l ∧ a < l.blocks ∧ l.recordBlocks < a
    let answered := fun (o : StoreOutcome) (counts : DirectoryCounts) =>
      { s.later dt with
        dir := { s.dir with storeQueue := rest, counts := counts }
        bus := { s.bus with notices := s.bus.notices ++ [Notice.stored request.station request.address o] } }
    (s.fetch.extent ≤ a ∨ barred → Result.Gives (exec (.storeTaken dt) s)
      (answered .badAddress { s.dir.counts with badAddress := inc s.dir.counts.badAddress }))
    ∧ (a < s.fetch.extent → ¬ barred → (s.chan (channelOf a)).offline = true →
      Result.Gives (exec (.storeTaken dt) s)
        (answered .programFailed { s.dir.counts with programFailed := inc s.dir.counts.programFailed }))
    ∧ (a < s.fetch.extent → ¬ barred → (s.chan (channelOf a)).offline = false →
      Result.Gives (exec (.storeTaken dt) s)
        { s.later dt with dir := { s.dir with
            storeQueue := rest, program := some { request := request, stage := .waiting, silent := false } } })

/-- PROGRAM_BEGIN and PROGRAM_OPERATION_COMPLETE while the program goes on: the erase of flash block a, then its three
pages in order on the block's channel, page j at channel page 3·(a div 8) + j with bytes 4,096·j to 4,096·j + 4,095 of
the request (R13, R17). The end of a program on a channel with nothing waiting: WRITTEN after the third page, with the
store layout set by a STORE to block 0; PROGRAM-FAILED at a failure, after 2,000 µs, or at a success reported later than
that; one STORED notice is queued (R17). A program that was in progress when a CLEAR counted ends with its outcome counted
and no notice, during the CLEAR or after it, when a pending probe of its channel then begins (R18, R128, R129); that it sets
no store layout is the model's reading (log 20). A timer at or after its moment, and that a report too late has the timeout's effect, are its choice (log 2). -/
def Obligations.ProgramRunsAndEnds : Prop :=
  ∀ (dt : Micros) (p : Program) (write : FlashWrite) (issued : Time) (s : State), s.dir.program = some p →
    let a := p.request.address.toNat
    let ch : ChannelNo := ⟨a % 8, Nat.mod_lt _ (by decide)⟩
    let goesOn := fun (stage : ProgramStage) (next : FlashWrite) =>
      ({ s.later dt with dir := { s.dir with program := some { p with stage := stage } } }).updChan ch
        fun k => { k with op := some { kind := .program next, issued := s.clock.localTime + dt } }
    let page := fun j : Nat => FlashWrite.page (3 * (a / 8) + j) ((p.request.data.drop (4096 * j)).take 4096)
    let ended := fun (o : StoreOutcome) (counts : DirectoryCounts) (layout : Option StoreLayout) =>
      ({ s.later dt with
        dir := { s.dir with program := none, counts := counts, layout := layout }
        bus := { s.bus with notices := s.bus.notices ++ [Notice.stored p.request.station p.request.address o] } }).updChan ch
        fun k => { k with op := none }
    let failed := ended .programFailed { s.dir.counts with programFailed := inc s.dir.counts.programFailed } s.dir.layout
    (p.stage = .waiting → (s.chan ch).op = none → (s.chan ch).offline = false → (s.chan ch).probePending = false →
      s.cleared = false → Result.Gives (exec (.programBegin dt) s) (goesOn .erasing (.erase a)))
    ∧ ((s.chan ch).op = some { kind := .program write, issued := issued } →
      let waited := signedDiff (s.clock.localTime + dt) issued
      (waited ≤ 2000 → p.stage = .erasing →
        Result.Gives (exec (.programOperationComplete dt true) s) (goesOn (.programming 0) (page 0)))
      ∧ (waited ≤ 2000 → ∀ j < 2, p.stage = .programming j →
          Result.Gives (exec (.programOperationComplete dt true) s) (goesOn (.programming (j + 1)) (page (j + 1))))
      ∧ (p.silent = false → s.dir.load = none → s.cleared = false → (s.chan ch).queue = [] →
        (s.chan ch).probePending = false → (s.chan ch).offline = false →
        (waited ≤ 2000 → p.stage = .programming 2 → Result.Gives (exec (.programOperationComplete dt true) s)
          (ended .written { s.dir.counts with written := inc s.dir.counts.written }
            (if a = 0 then some (layoutOf (takeHeader s.fetch.extent p.request.data)) else s.dir.layout)))
        ∧ Result.Gives (exec (.programOperationComplete dt false) s) failed
        ∧ (2000 < waited → Result.Gives (exec (.programOperationComplete dt true) s) failed)
        ∧ (2000 ≤ waited → Result.Gives (exec (.programTimeout dt) s) failed))
      ∧ (p.silent = true → (s.cleared = true ∨ (s.chan ch).probePending = true
          ∨ (s.dir.load = none ∧ (s.chan ch).queue = [] ∧ (s.chan ch).offline = false)) →
        let silent := fun (counts : DirectoryCounts) =>
          ({ s.later dt with dir := { s.dir with program := none, counts := counts } }).updChan ch fun k =>
            if s.cleared = false ∧ k.probePending = true then
              { k with op := some { kind := .probe 1, issued := s.clock.localTime + dt }
                       offline := false, probePending := false, timeouts := 0, pageCount := none }
            else { k with op := none }
        let failed := silent { s.dir.counts with programFailed := inc s.dir.counts.programFailed }
        (waited ≤ 2000 → p.stage = .programming 2 → Result.Gives (exec (.programOperationComplete dt true) s)
          (silent { s.dir.counts with written := inc s.dir.counts.written }))
        ∧ Result.Gives (exec (.programOperationComplete dt false) s) failed
        ∧ (2000 < waited → Result.Gives (exec (.programOperationComplete dt true) s) failed)
        ∧ (2000 ≤ waited → Result.Gives (exec (.programTimeout dt) s) failed)))

/-! ### The studio clock (R20 to R32) -/

/-- What moves a RUNNING clock: an accepted mark, a synthetic one and a PAUSE (R25, R26, R31, R32). That an expiry handled
after its moment sets the next watch from its handling is the model's choice (log 2). -/
def Obligations.RunningClockMoves : Prop :=
  ∀ (dt : Micros) (frame : List Byte) (s : State), s.clock.state = .running → s.clockTakes = true →
    let c := s.clock
    let plain := c.sfc + 64
    (c.isGlitch (c.localTime + dt) = false →
      (c.load = none → Result.GivesClock (exec (.markEdge dt) s) s { c.captured dt with sfc := plain })
      ∧ ∀ l, c.load = some l → Result.GivesClock (exec (.markEdge dt) s) s
          { c.captured dt with
            sfc := l.value, load := none
            counts := if l.value = plain then c.counts else { c.counts with steps := inc c.counts.steps } })
    ∧ (∀ i e, c.interval = some i → c.watch = some e → 0 ≤ signedDiff (c.localTime + dt) e →
      let synthetic := { c.later dt with
        state := .flywheel, pairingOpen := false, synthRun := c.synthRun + 1
        watch := some (c.localTime + dt + BitVec.ofNat 32 i)
        counts := { c.counts with synthetic := inc c.counts.synthetic } }
      (c.load = none → Result.GivesClock (exec (.watchExpiry dt) s) s { synthetic with sfc := plain })
      ∧ ∀ l, c.load = some l → Result.GivesClock (exec (.watchExpiry dt) s) s
          { synthetic with
            sfc := l.value, load := none
            counts := if l.value = plain then synthetic.counts
              else { synthetic.counts with steps := inc c.counts.steps } })
    ∧ ∀ src, s.handsOn src → s.status.config.map ConfigImage.clockStation = some src →
        Result.Gives (exec (.pause ⟨dt, frame⟩ src) s)
          { s.heard dt frame .gap with
            clock := { c.later dt with state := .paused, load := none, synthRun := 0 } }

/-- An accepted real mark in the other clock states: UNSET starts with a pending load (R24), PAUSED resumes with a
pending RUN (R29), FLYWHEEL and LOST return to RUNNING (R27); a mark that applies a load counts a step where the value
differs from what the mark alone would give (R32). -/
def Obligations.RealMarkByClockState : Prop :=
  ∀ (dt : Micros) (s : State), s.clockTakes = true → s.clock.isGlitch (s.clock.localTime + dt) = false →
    let c := s.clock
    let gives := Result.GivesClock (exec (.markEdge dt) s) s
    let stepped := fun (plain value : Time) =>
      if value = plain then c.counts else { c.counts with steps := inc c.counts.steps }
    (c.state = .unset ∨ c.state = .paused → c.load = none →
        Result.Gives (exec (.markEdge dt) s) { s with clock := c.captured dt })
    ∧ (c.state = .unset → ∀ l, c.load = some l → gives
        { c.captured dt with state := .running, sfc := l.value, load := none, synthRun := 0
                             counts := { c.counts with starts := inc c.counts.starts } })
    ∧ (c.state = .paused → ∀ value, c.load = some { kind := .run, value := value } → gives
        { c.captured dt with state := .running, sfc := value, load := none, synthRun := 0
                             counts := stepped c.sfc value })
    ∧ (c.state = .flywheel ∨ c.state = .lost →
        (c.load = none → gives { c.captured dt with state := .running, sfc := c.sfc + 64, synthRun := 0 })
        ∧ ∀ l, c.load = some l → gives
            { c.captured dt with state := .running, sfc := l.value, load := none, synthRun := 0
                                 counts := stepped (c.sfc + 64) l.value })

/-- The glitch test (R20), the measurement of the interval (R21) and the watch after an accepted edge (R22). -/
def Obligations.EdgeCapture : Prop :=
  ∀ (dt : Micros) (i : Nat) (s : State), s.clockTakes = true → s.clock.interval = some i →
    let c := s.clock
    let t := c.localTime + dt
    (∀ e, c.lastEdge = some e → signedDiff t e < (i / 2 : Nat) →
      Result.Gives (exec (.markEdge dt) s)
        { s with clock := { c.later dt with counts := { c.counts with glitches := inc c.counts.glitches } } })
    ∧ ((c.lastEdge = none ∨ ∃ e, c.lastEdge = some e ∧ (i / 2 : Nat) ≤ signedDiff t e) →
      ∃ u j, exec (.markEdge dt) s = .next u ∧ u.clock.lastEdge = some t ∧ u.clock.pairingOpen = true
        ∧ u.clock.interval = some j ∧ u.clock.watch = some (t + BitVec.ofNat 32 (j + j / 2))
        ∧ (∀ e, c.lastEdge = some e → c.pairingOpen = true → 320 ≤ signedDiff t e → signedDiff t e ≤ 3000 →
            (j : Int) = signedDiff t e)
        ∧ ((c.lastEdge = none ∨ c.pairingOpen = false
              ∨ ∃ e, c.lastEdge = some e ∧ (signedDiff t e < 320 ∨ 3000 < signedDiff t e)) → j = i))

/-- WATCH_EXPIRY outside RUNNING: a synthetic mark in FLYWHEEL up to the 256th of a run, which takes the value of a pending
load, a step where it differs from the count plus 64; then LOST with the count holding; in UNSET, PAUSED and LOST only the
pairing closes (R22, R26, R32). A timer at or after its moment is the model's
choice (log 2). -/
def Obligations.FlywheelEndsInLost : Prop :=
  ∀ (dt : Micros) (i : Nat) (e : Time) (s : State), s.clock.interval = some i → s.clock.watch = some e →
    0 ≤ signedDiff (s.clock.localTime + dt) e →
    let c := s.clock
    let synthetic := { c.later dt with
      pairingOpen := false, synthRun := c.synthRun + 1, watch := some (c.localTime + dt + BitVec.ofNat 32 i)
      counts := { c.counts with synthetic := inc c.counts.synthetic } }
    (c.state = .flywheel → c.synthRun < 256 →
      (c.load = none → Result.GivesClock (exec (.watchExpiry dt) s) s { synthetic with sfc := c.sfc + 64 })
      ∧ ∀ l, c.load = some l → Result.GivesClock (exec (.watchExpiry dt) s) s
          { synthetic with
            sfc := l.value, load := none
            counts := if l.value = c.sfc + 64 then synthetic.counts
              else { synthetic.counts with steps := inc c.counts.steps } })
    ∧ (c.state = .flywheel → c.synthRun = 256 → Result.Gives (exec (.watchExpiry dt) s)
        { s with clock := { c.later dt with
            state := .lost, pairingOpen := false, watch := none
            counts := { c.counts with lost := inc c.counts.lost } } })
    ∧ (c.state = .unset ∨ c.state = .paused ∨ c.state = .lost → Result.Gives (exec (.watchExpiry dt) s)
        { s with clock := { c.later dt with pairingOpen := false, watch := none } })

/-- RUN, TIMING and PAUSE from the clock station, by the clock state (R30, R31), and from another bridge of the set,
counted as foreign (R30). While a counted CLEAR is asserted each leaves the clock unit as it is (R34); that one from another
bridge is not counted then is the model's reading (log 45). -/
def Obligations.TransportByClockState : Prop :=
  ∀ (dt : Micros) (src : Station) (value : Time) (frame : List Byte) (s : State), s.handsOn src →
    let c := s.clock
    let gives := fun (cmd : Instr) (clock : Clock) =>
      Result.Gives (exec cmd s) { s.heard dt frame .gap with clock := clock }
    let foreign := { c.later dt with counts := { c.counts with foreign := inc c.counts.foreign } }
    (s.clockTakes = true → s.status.config.map ConfigImage.clockStation = some src →
      gives (.run ⟨dt, frame⟩ src value) { c.later dt with load := some { kind := .run, value := value } }
      ∧ (c.state = .unset →
          gives (.timing ⟨dt, frame⟩ src value) { c.later dt with load := some { kind := .run, value := value } })
      ∧ (c.state = .running ∨ c.state = .flywheel ∨ c.state = .lost →
          gives (.timing ⟨dt, frame⟩ src value) { c.later dt with load := some { kind := .timing, value := value } }
          ∧ gives (.pause ⟨dt, frame⟩ src) { c.later dt with state := .paused, load := none, synthRun := 0 })
      ∧ (c.state = .paused →
          gives (.timing ⟨dt, frame⟩ src value)
            { c.later dt with counts := { c.counts with ignoredTiming := inc c.counts.ignoredTiming } })
      ∧ (c.state = .unset ∨ c.state = .paused → gives (.pause ⟨dt, frame⟩ src) { c.later dt with load := none }))
    ∧ (s.clockTakes = true → s.status.config.map ConfigImage.clockStation ≠ some src →
      gives (.run ⟨dt, frame⟩ src value) foreign ∧ gives (.timing ⟨dt, frame⟩ src value) foreign
      ∧ gives (.pause ⟨dt, frame⟩ src) foreign)
    ∧ (s.cleared = true →
      gives (.run ⟨dt, frame⟩ src value) (c.later dt) ∧ gives (.timing ⟨dt, frame⟩ src value) (c.later dt)
      ∧ gives (.pause ⟨dt, frame⟩ src) (c.later dt))

/-! ### Cues and the offer contest (R36 to R39, R51, R55 to R71) -/

/-- CUE admitted: the lowest-numbered FREE context enters CONTENDING with the clamped figures of the CUE, its demand
joins the sum, and its OFFER joins the tail of the queue (R36 to R39, R51, R53 to R55, R57, R60, R61). A CUE whose
id some context holds is taken as on the state in which that context has been freed without notice and counted as
superseded, its entries withdrawn (R58, R67, R92). That their references are released from head to tail is the model's
choice (log 5). -/
def Obligations.CueAdmitted : Prop :=
  (∀ (dt : Micros) (src : Station) (f : CueFields) (frame : List Byte) (record : ZoneRecord) (config : ConfigImage)
    (i : Nat) (s : State),
    s.handsOn src → s.status.phase = .serving → s.cleared = false → f.id.extractLsb' 12 4 = src →
    (∀ p ∈ s.streams.contexts, p.2.id ≠ f.id) → s.status.config = some config →
    f.zone &&& config.zoneMask = config.zoneMatch &&& config.zoneMask →
    s.dir.load = none → s.dir.table.find? (fun r => r.zone == f.zone) = some record →
    s.TableLaw → i < 1024 → s.ctx? i = none → (∀ j < i, s.ctx? j ≠ none) →
    let rate := max 16384 (min f.rate.toNat 262144)
    let depth := max 2 (min f.depth.toNat 16)
    let origin := if 16777216 < signedDiff f.origin s.clock.sfc then s.clock.sfc + 16777216 else f.origin
    let demand := (rate * record.format.frameBytes + 65535) / 65536
    s.cue.demandSum + demand ≤ config.capacity.toNat →
    let cmd : Instr := .cue ⟨dt, frame⟩ src f
    let context : Context :=
      { id := f.id, zone := record, f0 := f.f0, origin := origin, rate := rate, depth := depth, demand := demand
        lane := f.lane.extractLsb' 0 6, policy := if f.policy = 0 then .tolerant else .strict
        activeLoop := match record.loop with | some l => decide (f.f0.toNat < l.stop) | none => false
        state := .contending, releaseMode := .none, exitPass := none, cutDistance := none
        gen := { part := .first, k := f.f0.toNat / record.format.framesPerBlock, pos := 0, index := 0, overrun := 0
                 closed := false }
        window := [], delivered := 0, dropped := 0, patched := 0, nacks := 0, endReason := none
        offer := some { phase := .queued, expiry := s.clock.localTime + dt + 2000, lapsed := false } }
    ∃ contexts, Result.Gives (exec cmd s)
        { s.heard dt frame .gap with
          bus := { (s.heard dt frame .gap).bus with offers := s.bus.offers ++ [i] }
          streams := { s.streams with contexts := contexts }
          cue := { s.cue with
            demandSum := s.cue.demandSum + demand
            counts := { s.cue.counts with taken := inc s.cue.counts.taken }
            clamps :=
              { rate := if rate = f.rate.toNat then s.cue.clamps.rate else inc s.cue.clamps.rate
                depth := if depth = f.depth.toNat then s.cue.clamps.depth else inc s.cue.clamps.depth
                origin := if origin = f.origin then s.cue.clamps.origin else inc s.cue.clamps.origin } } }
      ∧ Sparse.get contexts i = some context ∧ ∀ j, j ≠ i → Sparse.get contexts j = s.ctx? j)
  ∧ ∀ (dt : Micros) (src : Station) (f : CueFields) (frame : List Byte) (j : Nat) (c : Context) (s : State),
    s.handsOn src → s.status.phase = .serving → s.cleared = false → f.id.extractLsb' 12 4 = src →
    s.TableLaw → s.StreamIdLaw → s.ctx? j = some c → c.id = f.id →
    let freed := (s.freed j c).released c.window
    let superseded : State := { freed with
      cue := { freed.cue with counts := { s.cue.counts with superseded := inc s.cue.counts.superseded } }
      streams := { freed.streams with counts := { s.streams.counts with
        withdrawn := addCount s.streams.counts.withdrawn c.window.length } } }
    exec (.cue ⟨dt, frame⟩ src f) s = exec (.cue ⟨dt, frame⟩ src f) superseded
    ∧ ∀ p ∈ superseded.streams.contexts, p.2.id ≠ f.id

/-- CUE ended at a stage: outside SERVING or under a counted CLEAR (R56), with another station's id (R57), outside the
zone match, or absent from the directory (R59), each only counted; and declined at admission, no context being FREE or
the demand beyond the capacity, its clamps counted and nothing else changed (R36 to R38, R60). -/
def Obligations.CueTurnedAwayOrDeclined : Prop :=
  (∀ (dt : Micros) (src : Station) (f : CueFields) (frame : List Byte) (s : State), s.handsOn src →
    let cmd : Instr := .cue ⟨dt, frame⟩ src f
    let counted := fun counts => { s.heard dt frame .gap with cue := { s.cue with counts := counts } }
    let mine := s.status.phase = .serving ∧ s.cleared = false ∧ f.id.extractLsb' 12 4 = src
      ∧ ∀ p ∈ s.streams.contexts, p.2.id ≠ f.id
    (s.status.phase ≠ .serving ∨ s.cleared = true →
      Result.Gives (exec cmd s) (counted { s.cue.counts with phaseIgnored := inc s.cue.counts.phaseIgnored }))
    ∧ (s.status.phase = .serving → s.cleared = false → f.id.extractLsb' 12 4 ≠ src →
      Result.Gives (exec cmd s) (counted { s.cue.counts with idMismatch := inc s.cue.counts.idMismatch }))
    ∧ (mine → ∀ config, s.status.config = some config →
      (f.zone &&& config.zoneMask ≠ config.zoneMatch &&& config.zoneMask →
        Result.Gives (exec cmd s) (counted { s.cue.counts with matchIgnored := inc s.cue.counts.matchIgnored }))
      ∧ (f.zone &&& config.zoneMask = config.zoneMatch &&& config.zoneMask →
        (∀ r ∈ s.dir.table, r.zone ≠ f.zone) →
        Result.Gives (exec cmd s) (counted { s.cue.counts with absent := inc s.cue.counts.absent }))))
  ∧ ∀ (dt : Micros) (src : Station) (f : CueFields) (frame : List Byte) (record : ZoneRecord) (config : ConfigImage)
    (s : State),
    s.handsOn src → s.status.phase = .serving → s.cleared = false → f.id.extractLsb' 12 4 = src →
    (∀ p ∈ s.streams.contexts, p.2.id ≠ f.id) → s.status.config = some config →
    f.zone &&& config.zoneMask = config.zoneMatch &&& config.zoneMask →
    s.dir.load = none → s.dir.table.find? (fun r => r.zone == f.zone) = some record → s.TableLaw →
    let rate := max 16384 (min f.rate.toNat 262144)
    let depth := max 2 (min f.depth.toNat 16)
    let cmd : Instr := .cue ⟨dt, frame⟩ src f
    let declined := fun counts =>
      { s.heard dt frame .gap with cue := { s.cue with
          counts := counts
          clamps :=
            { rate := if rate = f.rate.toNat then s.cue.clamps.rate else inc s.cue.clamps.rate
              depth := if depth = f.depth.toNat then s.cue.clamps.depth else inc s.cue.clamps.depth
              origin := if 16777216 < signedDiff f.origin s.clock.sfc then inc s.cue.clamps.origin
                else s.cue.clamps.origin } } }
    ((∀ i < 1024, s.ctx? i ≠ none) →
      Result.Gives (exec cmd s) (declined { s.cue.counts with contextDeclined := inc s.cue.counts.contextDeclined }))
    ∧ ((∃ i < 1024, s.ctx? i = none) →
      config.capacity.toNat < s.cue.demandSum + (rate * record.format.frameBytes + 65535) / 65536 →
      Result.Gives (exec cmd s)
        (declined { s.cue.counts with capacityDeclined := inc s.cue.counts.capacityDeclined }))

/-- RELEASE of a stream that is not being delivered (R67, R69, R84): no context, a CONTENDING one in either mode, a
SPENT one; and the releases a RUNNING context ignores (R84, R86). -/
def Obligations.ReleaseWithoutEffectOnBlocks : Prop :=
  ∀ (dt : Micros) (src : Station) (f : ReleaseFields) (frame : List Byte) (i : Nat) (c : Context)
    (s : State), s.handsOn src →
    let cmd : Instr := .release ⟨dt, frame⟩ src f
    let ignored := { s.heard dt frame .gap with streams := { s.streams with
      counts := { s.streams.counts with ignoredRelease := inc s.streams.counts.ignoredRelease } } }
    ((∀ p ∈ s.streams.contexts, p.2.id ≠ f.id) → Result.Gives (exec cmd s)
      { s.heard dt frame .gap with streams := { s.streams with
          counts := { s.streams.counts with unmatchedRelease := inc s.streams.counts.unmatchedRelease } } })
    ∧ (s.TableLaw → s.StreamIdLaw → s.ctx? i = some c → c.id = f.id →
      (c.state = .contending → c.window = [] → Result.Gives (exec cmd s)
        { ((s.heard dt frame .gap).freed i c) with cue := { (s.freed i c).cue with
            counts := { s.cue.counts with released := inc s.cue.counts.released } } })
      ∧ (c.state = .spent → Result.Gives (exec cmd s) ignored)
      ∧ (c.state = .running → c.releaseMode = .cut → Result.Gives (exec cmd s) ignored)
      ∧ (c.state = .running → c.releaseMode = .playout → f.mode = 1 → Result.Gives (exec cmd s) ignored)
      ∧ (c.state = .running → c.releaseMode = .none → f.mode = 1 → Result.Gives (exec cmd s)
        { s.heard dt frame .gap with streams := { s.streams with
            contexts := Sparse.modify s.streams.contexts i fun x => { x with releaseMode := .playout }
            counts := { s.streams.counts with playout := inc s.streams.counts.playout } } }))

/-- RELEASE in CUT mode on a RUNNING or LOOPING context: the entries at or above the cut distance are withdrawn, the rest
stay. Where the sequence ends at the cut distance the generator is closed, and with no entry left the context enters SPENT
with reason CUT and one END notice; where the generator's next element lies below it the generator stays open and the window
is refilled up to the cut distance, here where it needs no refill or no block of the zone is stored. Where the head is
withdrawn and entries are left behind it, possible only past the wrap of a distance, the new head has its tests (R35, R48,
R50, R75, R76, R80 to R84, R87 to R90). That the references of the withdrawn entries are released from head to tail is the
model's choice (log 5), and so are the moment the refill closes the generator (log 32), that the drops of one cascade all
come before the first refill (log 36) and that a head stale in its place has no policy test (log 44). -/
def Obligations.CutTruncates : Prop :=
  ∀ (dt : Micros) (src : Station) (f : ReleaseFields) (frame : List Byte) (i : Nat) (c : Context) (s : State),
    s.handsOn src → s.TableLaw → s.StreamIdLaw → s.ctx? i = some c → c.id = f.id → f.mode ≠ 1 →
    c.state = .looping ∨ (c.state = .running ∧ c.releaseMode ≠ .cut) →
    let ahead := signedDiff f.time c.origin
    let dr : Distance := if ahead ≤ 0 then 0 else BitVec.ofNat 48 (c.rate * ahead.toNat / 65536)
    let cmd : Instr := .release ⟨dt, frame⟩ src f
    let held := fun keep : List Entry =>
      { c with state := .running, releaseMode := .cut, cutDistance := some dr, window := keep }
    let counts := fun gone : List Entry => { s.streams.counts with
      cut := inc s.streams.counts.cut, withdrawn := addCount s.streams.counts.withdrawn gone.length }
    let leaves := fun (x : Context) (counts : StreamCounts) =>
      { s.heard dt frame .gap with streams :=
          { contexts := Sparse.modify s.streams.contexts i fun _ => x, counts := counts } }
    (∀ keep gone, c.window = keep ++ gone → (∀ e ∈ keep, e.need < dr) → (∀ e ∈ gone, dr ≤ e.need) →
      (c.gen.closed = true ∨ dr ≤ c.needAt c.gen.part c.gen.k →
        let cut := { held keep with gen := { c.gen with closed := true } }
        (keep ≠ [] → Result.GivesReleasing (exec cmd s) gone (leaves cut (counts gone)))
        ∧ (keep = [] → Result.GivesReleasing (exec cmd s) gone
          { leaves { cut with state := .spent, endReason := some .cut, offer := none }
              { counts gone with endCut := inc s.streams.counts.endCut } with
            bus := { (s.heard dt frame .gap).bus with
              notices := s.bus.notices ++ [.ended i c.id .cut c.delivered c.dropped c.patched] } }))
      ∧ (c.gen.closed = false → c.needAt c.gen.part c.gen.k < dr → c.WindowLaw →
        let after := Context.fillPhantoms s.lead (c.depth - keep.length) (held keep)
        keep.length = c.depth ∨ c.zone.effective = 0 →
        (keep = [] → ∀ e rest, after.window = e :: rest → e.isStale s.clock.sfc = false) →
        Result.GivesReleasing (exec cmd s) gone
          (leaves after { counts gone with
            created := addCount s.streams.counts.created (after.window.length - keep.length) })))
    ∧ ∀ e rest dropped stay, c.window = e :: rest → dr ≤ e.need → c.WindowLaw →
      let keep := rest.filter fun x => decide (x.need < dr)
      let gone := e :: rest.filter fun x => decide (dr ≤ x.need)
      let cut := { held keep with gen :=
        { c.gen with closed := c.gen.closed || decide (dr ≤ c.needAt c.gen.part c.gen.k) } }
      keep ≠ [] → s.ServesHeads cut dropped stay →
      Result.GivesReleasing (exec cmd s) (gone ++ dropped) ((leaves cut (counts gone)).afterHeads i cut dropped stay)

/-- RELEASE in PLAYOUT mode on a LOOPING context: the exit pass is fixed from the release distance, the context is
RUNNING, the entries of passes after the exit pass are withdrawn, and a generator past the exit pass moves to the coda, or
closes when the loop ends at N, its position kept and its overrun the entries made beyond; the window is refilled, here
where it needs no refill or no block of the zone is stored; with nothing left the context enters SPENT with reason
COMPLETE (R12, R39 to R43, R48, R49, R75, R76, R83 to R85, R88 to R90). That the references of the withdrawn entries are
released from head to tail is the model's choice (log 5). -/
def Obligations.PlayoutFixesTheExit : Prop :=
  ∀ (dt : Micros) (src : Station) (f : ReleaseFields) (frame : List Byte) (i : Nat) (c : Context) (l : Loop)
    (keep gone : List Entry) (s : State),
    s.handsOn src → s.TableLaw → s.StreamIdLaw → s.ctx? i = some c → c.WindowLaw → c.id = f.id → f.mode = 1 →
    c.state = .looping → c.activeLoop = true → c.zone.loop = some l →
    let ahead := signedDiff f.time c.origin
    let dr : Distance := if ahead ≤ 0 then 0 else BitVec.ofNat 48 (c.rate * ahead.toNat / 65536)
    let m := if dr.toNat < l.stop - c.f0.toNat then 0
      else 1 + (dr.toNat - (l.stop - c.f0.toNat)) / (l.stop - l.first)
    let b := c.zone.format.framesPerBlock
    let last := ((l.stop - 1) / b - c.f0.toNat / b + 1) + m * ((l.stop - 1) / b - l.first / b + 1)
    c.window = keep ++ gone → (∀ e ∈ keep, e.index < last) → (∀ e ∈ gone, last ≤ e.index) →
    let gen := if c.gen.index < last then c.gen
      else if l.stop = c.zone.length then
        { c.gen with index := last, overrun := c.gen.index - last, closed := true }
      else { c.gen with part := .coda, k := l.stop / b, index := last, overrun := c.gen.index - last }
    let held := { c with state := .running, releaseMode := .playout, exitPass := some m, gen := gen, window := keep }
    let after := Context.fillPhantoms s.lead (c.depth - keep.length) held
    (keep.length = c.depth ∨ gen.closed = true ∨ c.zone.effective = 0) →
    (keep = [] → ∀ e rest, after.window = e :: rest → e.isStale s.clock.sfc = false) →
    let counts := { s.streams.counts with
      playout := inc s.streams.counts.playout
      withdrawn := addCount s.streams.counts.withdrawn gone.length
      created := addCount s.streams.counts.created (after.window.length - keep.length) }
    (after.window ≠ [] → Result.GivesReleasing (exec (.release ⟨dt, frame⟩ src f) s) gone
      { s.heard dt frame .gap with streams :=
          { contexts := Sparse.modify s.streams.contexts i fun _ => after, counts := counts } })
    ∧ (after.window = [] → Result.GivesReleasing (exec (.release ⟨dt, frame⟩ src f) s) gone
      { s.heard dt frame .gap with
        bus := { (s.heard dt frame .gap).bus with
          notices := s.bus.notices ++ [.ended i c.id .complete c.delivered c.dropped c.patched] }
        streams :=
          { contexts := Sparse.modify s.streams.contexts i fun _ =>
              { after with state := .spent, gen := { after.gen with closed := true }
                           endReason := some .complete, offer := none }
            counts := { counts with endComplete := inc s.streams.counts.endComplete } } })

/-- STOP_ALL frees every context of the sending bridge without notice, each counted, and no other (R70, R83, R92, R93). That
the references of their entries are released in rising context number, and from head to tail in each, is the model's choice
(log 5). -/
def Obligations.StopAllFreesTheBridge : Prop :=
  ∀ (dt : Micros) (src : Station) (frame : List Byte) (s : State), s.handsOn src → s.TableLaw →
    let cmd : Instr := .stopAll ⟨dt, frame⟩ src
    let stopped := s.streams.contexts.filter fun p => p.2.id.extractLsb' 12 4 == src
    let entries := stopped.flatMap fun p => p.2.window
    Result.GivesReleasing (exec cmd s) entries
      { s.heard dt frame .gap with
        bus := { (s.heard dt frame .gap).bus with
          offers := s.bus.offers.filter fun i => !(stopped.map Prod.fst).contains i
          notices := s.bus.notices.filter fun n => match n with
            | .ended i _ _ _ _ _ => !(stopped.map Prod.fst).contains i
            | .stored _ _ _ => true }
        cue := { s.cue with
          demandSum := s.cue.demandSum - (stopped.map fun p => p.2.demand).sum
          counts := { s.cue.counts with stopped := addCount s.cue.counts.stopped stopped.length } }
        streams :=
          { contexts := s.streams.contexts.filter fun p => p.2.id.extractLsb' 12 4 != src
            counts := { s.streams.counts with
              withdrawn := addCount s.streams.counts.withdrawn entries.length } } }

/-- OFFER_OBSERVED of a frame to another station: an ACK frees the context here that holds the id, counted by its state; a NACK, or an id no context
holds, changes no context (R65, R66, R67, R92). OFFER_EXPIRY at or after the expiry time: a QUEUED offer frees its
context, a PRESENTED one is marked for the end of its contest, a SENT one is untouched (R53, R67, R68). That references
are released from head to tail is the model's choice (log 5), and so is a timer at or after its moment (log 2). -/
def Obligations.OffersEndWithoutANotice : Prop :=
  (∀ (dt : Micros) (id : StreamId) (frame : List Byte) (s : State), s.listening = true → ¬ s.isAddressed frame →
    s.status.phase ≠ .configLoad →
    let cmd := fun reading => Instr.offerObserved ⟨dt, frame⟩ id reading
    Result.Gives (exec (cmd .nack) s) (s.heard dt frame .gap)
    ∧ ((∀ p ∈ s.streams.contexts, p.2.id ≠ id) → Result.Gives (exec (cmd .ack) s) (s.heard dt frame .gap))
    ∧ ∀ i c, s.TableLaw → s.StreamIdLaw → s.ctx? i = some c → c.id = id →
        Result.GivesReleasing (exec (cmd .ack) s) c.window
          { ((s.heard dt frame .gap).freed i c) with
            cue := { (s.freed i c).cue with
              counts := if c.state = .contending
                then { s.cue.counts with lostToMirror := inc s.cue.counts.lostToMirror }
                else { s.cue.counts with takenOver := inc s.cue.counts.takenOver } }
            streams := { (s.freed i c).streams with counts := { s.streams.counts with
              withdrawn := addCount s.streams.counts.withdrawn c.window.length } } })
  ∧ ∀ (dt : Micros) (i : Nat) (c : Context) (o : OfferRecord) (s : State),
    s.ctx? i = some c → c.window = [] → c.offer = some o → 0 ≤ signedDiff (s.clock.localTime + dt) o.expiry →
    (o.phase = .queued → Result.Gives (exec (.offerExpiry dt i) s)
      { ((s.later dt).freed i c) with cue := { (s.freed i c).cue with
          counts := { s.cue.counts with expired := inc s.cue.counts.expired } } })
    ∧ (o.phase = .presented → s.TableLaw → Result.Gives (exec (.offerExpiry dt i) s)
      { s.later dt with streams := { s.streams with
          contexts := Sparse.modify s.streams.contexts i fun x => { x with offer := some { o with lapsed := true } } } })
    ∧ (o.phase = .sent → Result.Gives (exec (.offerExpiry dt i) s) (s.later dt))

/-! ### Lanes and damaged frames (R131 to R136, R147, R153, R157) -/

/-- READY sets the lane views of its bridge, and under a counted CLEAR is only counted; BLOCK_OBSERVED read as ACK closes
one lane of the destination, another station, read as NACK none, and in UNCONFIGURED and under a counted CLEAR changes
nothing (R132, R133, R136, R154, R166, R171). That it is counted in every other phase that hands it on is the model's reading
(log 16). CHECK_FAILURE, BROKEN_FRAME and MALFORMED: discarded and counted, every view wiped but by a malformed frame, and
the slot or gap that follows tracked (R135, R146, R147, R153, R157). That they are counted in every phase is the model's
reading (log 29), and so is that a malformed frame under a counted CLEAR adds to no other count (log 15). -/
def Obligations.LaneViewsAndDamagedFrames : Prop :=
  (∀ (dt : Micros) (src : Station) (openSet : LaneSet) (lane : Byte) (frame : List Byte) (s : State),
    let ready : Instr := .ready ⟨dt, frame⟩ src openSet
    let block := fun reading => Instr.blockObserved ⟨dt, frame⟩ src lane reading
    (s.handsOn src → s.cleared = false → Result.Gives (exec ready s)
      { s.heard dt frame .gap with delivery := { s.delivery with
          views := s.delivery.views.map fun v => if v.1 = src then (v.1, openSet) else v
          counts := { s.delivery.counts with readyTaken := inc s.delivery.counts.readyTaken } } })
    ∧ (s.handsOn src → s.cleared = true → Result.Gives (exec ready s)
      { s.heard dt frame .gap with delivery := { s.delivery with
          counts := { s.delivery.counts with readyIgnored := inc s.delivery.counts.readyIgnored } } })
    ∧ (s.listening = true → ¬ s.isAddressed frame → s.status.phase ≠ .configLoad →
      Result.Gives (exec (block .nack) s) (s.heard dt frame .gap)
      ∧ (s.status.phase = .unconfigured ∨ s.cleared = true → Result.Gives (exec (block .ack) s) (s.heard dt frame .gap))
      ∧ (s.status.phase ≠ .unconfigured → s.cleared = false → ∃ t, exec (block .ack) s = .next t
        ∧ Settles { s.heard dt frame .gap with delivery :=
            { views := t.delivery.views
              counts := { s.delivery.counts with foreignBlock := inc s.delivery.counts.foreignBlock } } } t
        ∧ t.delivery.views.map Prod.fst = s.delivery.views.map Prod.fst
        ∧ ∀ (b : Station) (l : BitVec 6), t.laneOpen b l =
            (s.laneOpen b l && !(decide (b = src) && decide (l = lane.extractLsb' 0 6))))))
  ∧ ∀ (dt : Micros) (form : Delimiter) (s : State), s.listening = true →
    let after : BusState := match form with | .addressed => .ackSlot false | .broadcast => .gap
    let ended := fun (state : BusState) (counts : BusCounts) =>
      { s.later dt with
        bus := { s.bus with state := state, startBit := false, receiveBuffer := none, counts := counts } }
    let wiped := { s.delivery with
      views := s.delivery.views.map fun v => (v.1, 0)
      counts := { s.delivery.counts with viewWipe := inc s.delivery.counts.viewWipe } }
    let broken := { s.bus.counts with
      broken := inc s.bus.counts.broken, checkFailures := inc s.bus.counts.checkFailures }
    Result.Gives (exec (.checkFailure dt form) s)
      { ended after { s.bus.counts with checkFailures := inc s.bus.counts.checkFailures } with delivery := wiped }
    ∧ Result.Gives (exec (.brokenFrame dt true) s) { ended .busyDominant broken with delivery := wiped }
    ∧ Result.Gives (exec (.brokenFrame dt false) s) { ended .gap broken with delivery := wiped }
    ∧ Result.Gives (exec (.malformed dt form) s)
        (ended after { s.bus.counts with malformed := inc s.bus.counts.malformed })

/-- Addressing is judged by the station number held (R154, R155, R161, R168). Of a frame addressed to the 7240, QUERY_STATUS
joins the state-request set, a kind no station should address here is refused, and while a counted CLEAR is asserted either
is counted and not accepted (R155, R158). A row of an addressed frame to another station is received, nothing more, and its
slot is not driven. An observed OFFER or BLOCK addressed to the 7240 reaches neither unit and is refused as its kind is, and
the frame of ACK_SLOT_END, addressed to the 7240, is judged as the row its bytes amount to is (R154, R155; log 33). That a
frame under a counted CLEAR adds to the cleared-refused count alone is the model's reading (log 15). A broadcast frame of a
kind held to the bridge set, from a station outside it, is counted and reaches no block, in every phase that hands frames
on; before the image is read no frame reaches one and an addressed one is not accepted (R153, R154, R160, R171): that no
count rises there, neither R56's for a CUE nor R158's for an addressed frame, is the model's reading (log 18). -/
def Obligations.FramesAnsweredBySource : Prop :=
  (∀ (dt : Micros) (src : Station) (kind : UnexpectedKind) (frame : List Byte) (s : State),
    let query : Instr := .queryStatus ⟨dt, frame⟩ src
    let odd : Instr := .unexpectedKind ⟨dt, frame⟩ kind
    let heard := fun accepted (counts : BusCounts) =>
      { s.heard dt frame (.ackSlot accepted) with
        bus := { (s.heard dt frame (.ackSlot accepted)).bus with counts := counts } }
    (s.judgesAddressed frame →
      (∃ t, exec query s = .next t
        ∧ Settles { heard true { s.bus.counts with queriesTaken := inc s.bus.counts.queriesTaken } with
            bus := { (heard true { s.bus.counts with queriesTaken := inc s.bus.counts.queriesTaken }).bus with
              requests := t.bus.requests } } t
        ∧ ∀ j < 16, t.bus.requests.getLsbD j = (s.bus.requests.getLsbD j || decide (j = src.toNat)))
      ∧ Result.Gives (exec odd s)
          (heard false { s.bus.counts with unexpectedKind := inc s.bus.counts.unexpectedKind }))
    ∧ (s.listening = true → s.isAddressed frame → s.status.phase ≠ .configLoad → s.cleared = true →
      let refused := { s.bus.counts with clearedRefused := inc s.bus.counts.clearedRefused }
      Result.Gives (exec query s) (heard false refused) ∧ Result.Gives (exec odd s) (heard false refused))
    ∧ (s.listening = true → s.status.phase = .configLoad →
      Result.Gives (exec query s) (heard false s.bus.counts) ∧ Result.Gives (exec odd s) (heard false s.bus.counts)))
  ∧ (∀ (dt : Micros) (src dest : Station) (kind : UnexpectedKind) (address : BitVec 32) (data frame : List Byte)
    (id : StreamId) (lane : Byte) (reading : Reading) (s : State), s.listening = true →
    (¬ s.isAddressed frame →
      ∀ cmd ∈ ([.queryStatus ⟨dt, frame⟩ src, .serviceEnter ⟨dt, frame⟩ src, .serviceExit ⟨dt, frame⟩ src,
          .store ⟨dt, frame⟩ src address data, .unexpectedKind ⟨dt, frame⟩ kind] : List Instr),
        Result.Gives (exec cmd s) (s.heard dt frame (.ackSlot false)))
    ∧ (s.isAddressed frame →
      (∀ cmd ∈ ([.offerObserved ⟨dt, frame⟩ id reading, .blockObserved ⟨dt, frame⟩ dest lane reading] : List Instr),
        Result.Gives (exec cmd s) { s.heard dt frame .gap with bus := { (s.heard dt frame .gap).bus with
          counts := if s.status.phase = .configLoad then s.bus.counts
            else if s.cleared = true then { s.bus.counts with clearedRefused := inc s.bus.counts.clearedRefused }
            else { s.bus.counts with unexpectedKind := inc s.bus.counts.unexpectedKind } } })
      ∧ (s.bus.state = .busy → ∀ f, judgeFrame frame .addressed = .wellFormed f →
        ∃ t u, exec (frameCommand s.status.station dt frame .addressed reading) s = .next t
          ∧ exec (.ackSlotEnd ⟨dt, some frame⟩) s = .next u
          ∧ Settles { t with bus := { t.bus with state := .gap } } u)))
  ∧ ∀ (dt : Micros) (src : Station) (value : Time) (cue : CueFields) (release : ReleaseFields) (openSet : LaneSet)
    (frame : List Byte) (s : State), s.listening = true →
    ∀ cmd ∈ ([.run ⟨dt, frame⟩ src value, .timing ⟨dt, frame⟩ src value, .pause ⟨dt, frame⟩ src,
        .stopAll ⟨dt, frame⟩ src, .cue ⟨dt, frame⟩ src cue, .release ⟨dt, frame⟩ src release,
        .ready ⟨dt, frame⟩ src openSet] : List Instr),
      (s.status.phase ≠ .configLoad → src ∉ s.bridges → Result.Gives (exec cmd s)
        { s.heard dt frame .gap with bus := { (s.heard dt frame .gap).bus with
            counts := { s.bus.counts with unknownSource := inc s.bus.counts.unknownSource } } })
      ∧ (s.status.phase = .configLoad → Result.Gives (exec cmd s) (s.heard dt frame .gap))

/-! ### Bus states and contests (R146 to R152) -/

/-- The moves between bus states that no frame of the 7240's makes: ACK_SLOT_END, GAP_END, BUS_SYNC, LINE_GOES_RECESSIVE
and EMPTY_CONTEST (R146, R147, R148, R153, R160). That ACK_SLOT_END leads from BUSY straight to GAP, its frame received,
where R146 has BUSY pass through ACK SLOT, is the model's choice (log 4), and so are the flag that holds the start bit
after GAP_END until the contest start (log 28) and that an ACK_SLOT_END on a line left dominant by a broken frame, where no
slot can end, changes nothing but local time (log 2). -/
def Obligations.BusStateMoves : Prop :=
  ∀ (dt : Micros) (bytes : List Byte) (s : State),
    let enters := fun (state : BusState) => { s.later dt with bus := { s.bus with state := state, startBit := false } }
    (s.bus.tenure = none →
      ((s.bus.state = .ackSlot true ∨ s.bus.state = .ackSlot false) →
        ∀ frame, Result.Gives (exec (.ackSlotEnd ⟨dt, frame⟩) s) (enters .gap))
      ∧ (s.bus.state = .busyDominant → ∀ frame, Result.Gives (exec (.ackSlotEnd ⟨dt, frame⟩) s) (s.later dt))
      ∧ (s.bus.state = .busy → Result.Gives (exec (.ackSlotEnd ⟨dt, none⟩) s) (enters .gap)
        ∧ (¬ s.isAddressed bytes → Result.Gives (exec (.ackSlotEnd ⟨dt, some bytes⟩) s) (s.heard dt bytes .gap))))
    ∧ (s.bus.state = .gap →
      (s.somethingToSend = true → s.mayContend = true → Result.Gives (exec (.gapEnd dt) s)
        { s.later dt with bus := { s.bus with state := .busy, startBit := true } })
      ∧ (s.somethingToSend = false ∨ s.mayContend = false →
        ∃ t, exec (.gapEnd dt) s = .next t ∧ Settles (enters .free) t ∧ t.bus.state = .free ∧ t.bus.startBit = false))
    ∧ (s.bus.state = .unsynced →
      Result.Gives (exec (.busSync dt (.delimiter .addressed)) s) (enters (.ackSlot false))
      ∧ Result.Gives (exec (.busSync dt (.delimiter .broadcast)) s) (enters .gap)
      ∧ (s.somethingToSend = true → s.mayContend = true → Result.Gives (exec (.busSync dt .recessive) s)
        { s.later dt with bus := { s.bus with state := .busy, startBit := true } })
      ∧ (s.somethingToSend = false ∨ s.mayContend = false →
        ∃ t, exec (.busSync dt .recessive) s = .next t ∧ Settles (enters .free) t ∧ t.bus.state = .free
          ∧ t.bus.startBit = false))
    ∧ (s.bus.state = .busyDominant → Result.Gives (exec (.lineGoesRecessive dt) s) (enters .gap))
    ∧ (s.bus.state = .busy → s.bus.startBit = false → s.bus.tenure = none →
      Result.Gives (exec (.emptyContest dt) s)
        { s.later dt with bus := { s.bus with
            state := .gap, counts := { s.bus.counts with empty := inc s.bus.counts.empty } } })

/-- CONTEST_START with no stale head presents the candidate of the lowest class pending: an OFFER with the load figure,
a BLOCK with its slack's urgency and its pass number, a notice, or a STATE for the lowest asking station; with none, or
under a counted CLEAR, it drives nothing (R43, R47, R52, R62, R90, R139, R146, R149, R150, R158). That the receive buffer is
emptied at the contest start is the model's reading (log 26); the flag that holds a start bit of the 7240's until its contest
start, taken here as a premise and cleared, is its choice (log 28). -/
def Obligations.ContestPresentsTheLowestClass : Prop :=
  ∀ (dt : Micros) (s : State), (s.bus.state = .gap ∨ s.bus.state = .free ∨ s.bus.startBit = true) →
    s.NoHeadStale s.clock.sfc →
    let opened : State :=
      { s.later dt with bus := { s.bus with state := .busy, startBit := false, receiveBuffer := none } }
    let urgency := fun slack : Int =>
      if slack < 64 then 0 else if slack ≤ 16319 then BitVec.ofNat 8 (slack / 64).toNat else 255
    let pass := fun part : Part => match part with
      | .first => 0
      | .pass m => (m - 1) % 65534 + 1
      | .coda => 65535
    let presents := fun (item : OwnItem) (frame : WireFrame) (contexts : List (Nat × Context)) =>
      Result.Gives (exec (.contestStart dt) s)
        { opened with
          bus := { opened.bus with
            contestWord := some frame.word, tenure := some { item := item, frame := frame, sent := false } }
          streams := { s.streams with contexts := contexts } }
    (s.cleared = true → Result.Gives (exec (.contestStart dt) s) opened)
    ∧ (s.cleared = false → s.status.phase ≠ .configLoad →
      (∀ i rest c, s.bus.offers = i :: rest → s.ctx? i = some c →
        presents (.offer i)
          { urgency := BitVec.ofNat 8 (min 255 (s.cue.demandSum * 256 / s.capacity)), source := s.status.station
            dest := c.id.extractLsb' 12 4, body := .offer c.id c.zone.zone }
          (Sparse.modify s.streams.contexts i fun x =>
            { x with offer := x.offer.map fun o => { o with phase := .presented } }))
      ∧ (s.bus.offers = [] → ∀ i c e, bestContender s.clock.sfc s.contenders = some (i, c, e) →
        presents (.block i e.slot)
          { urgency := urgency (signedDiff e.deadline s.clock.sfc), source := s.status.station
            dest := c.id.extractLsb' 12 4
            body := .block
              { id := c.id, lane := c.lane.zeroExtend 8
                flags := (if e.phantom then 0x80 else 0) ||| e.patched.zeroExtend 8
                k := BitVec.ofNat 16 e.k, pass := BitVec.ofNat 16 (pass e.part), data := [] } }
          (Sparse.modify s.streams.contexts i (Context.setHeadPhase .presented)))
      ∧ (s.bus.offers = [] → s.contenders = [] →
        (∀ i id reason delivered dropped patched rest,
          s.bus.notices = .ended i id reason delivered dropped patched :: rest →
          presents (.ended i)
            { urgency := 0, source := s.status.station, dest := id.extractLsb' 12 4
              body := .endNotice id reason.code delivered dropped patched } s.streams.contexts)
        ∧ (∀ dest address outcome rest, s.bus.notices = .stored dest address outcome :: rest →
          presents .stored
            { urgency := 0, source := s.status.station, dest := dest
              body := .storedNotice address outcome.code } s.streams.contexts)
        ∧ (s.bus.notices = [] → ∀ j < 16, s.bus.requests.getLsbD j = true →
          (∀ k < j, s.bus.requests.getLsbD k = false) →
          presents .state
            { urgency := 0, source := s.status.station, dest := BitVec.ofNat 4 j, body := .state [] }
            s.streams.contexts)
        ∧ (s.bus.notices = [] → s.bus.requests = 0 → Result.Gives (exec (.contestStart dt) s) opened)))

/-- A BLOCK the 7240 presents is of a head that is ready, not stale, eligible and on an open lane at that contest's
start, and no other head that passes those tests has less slack, or the same slack and a lower stream id. With no offer
queued and no head stale, a head that passes the tests has the 7240 present a BLOCK (R137, R138, R150). -/
def Obligations.PresentedBlockHasLeastSlack : Prop :=
  (∀ (dt : Micros) (i : Nat) (slot : Option SlotNo) (frame : WireFrame) (s t : State), s.TableLaw →
    s.bus.tenure = none → exec (.contestStart dt) s = .next t →
    t.bus.tenure = some { item := .block i slot, frame := frame, sent := false } →
    ∃ c e rest, t.ctx? i = some c ∧ c.window = e :: rest ∧ e.slot = slot
      ∧ (c.state = .running ∨ c.state = .looping) ∧ e.ready = true
      ∧ signedDiff t.clock.sfc e.leaveTime < 0
      ∧ (∀ x, e.eligible = some x → 0 ≤ signedDiff t.clock.sfc x)
      ∧ t.laneOpen (c.id.extractLsb' 12 4) c.lane = true
      ∧ ∀ p ∈ t.streams.contexts, ∀ e' rest', p.2.window = e' :: rest' → t.contends p.2 e' = true →
          signedDiff e.deadline t.clock.sfc < signedDiff e'.deadline t.clock.sfc
          ∨ (signedDiff e.deadline t.clock.sfc = signedDiff e'.deadline t.clock.sfc ∧ c.id ≤ p.2.id))
  ∧ ∀ (dt : Micros) (i : Nat) (c : Context) (e : Entry) (rest : List Entry) (bridge : Station) (lanes : LaneSet)
    (s : State), (s.bus.state = .gap ∨ s.bus.state = .free ∨ s.bus.startBit = true) → s.cleared = false →
    s.status.phase ≠ .configLoad → s.bus.offers = [] → s.NoHeadStale s.clock.sfc →
    (i, c) ∈ s.streams.contexts → (c.state = .running ∨ c.state = .looping) → c.window = e :: rest → e.ready = true →
    signedDiff s.clock.sfc e.leaveTime < 0 → (∀ x, e.eligible = some x → 0 ≤ signedDiff s.clock.sfc x) →
    bridge = c.id.extractLsb' 12 4 → s.delivery.views.find? (fun v => v.1 == bridge) = some (bridge, lanes) →
    lanes.getLsbD c.lane.toNat = true →
    ∃ t, exec (.contestStart dt) s = .next t
      ∧ ∃ j slot frame, t.bus.tenure = some { item := .block j slot, frame := frame, sent := false }

/-- CONTEST_WON: the item leaves its queue and its frame goes out, a BLOCK with the bytes of its slot or zeros, a
STATE with the record of this instant (R62, R111, R139, R140, R151, R172). Which counts that record holds is the
model's reading (log 14). -/
def Obligations.ContestWonSendsTheFrame : Prop :=
  ∀ (dt : Micros) (frame : WireFrame) (s : State), s.MemoryLaw →
    let won := { s.bus.counts with won := inc s.bus.counts.won }
    let presented := fun (item : OwnItem) => s.bus.tenure = some { item := item, frame := frame, sent := false }
    let sends := fun (item : OwnItem) (body : FrameBody) (bus : BusPort) =>
      { s.later dt with bus := { bus with
          tenure := some { item := item, frame := { frame with body := body }, sent := true }
          txFrame := some (encodeFrame { frame with body := body }) } }
    (∀ i, presented (.offer i) → Result.Gives (exec (.contestWon dt) s)
      { sends (.offer i) frame.body { s.bus with
          offers := s.bus.offers.filter (· != i), counts := { won with sentOffer := inc s.bus.counts.sentOffer } } with
        streams := { s.streams with
          contexts := Sparse.modify s.streams.contexts i fun x =>
            { x with offer := x.offer.map fun o => { o with phase := .sent } } } })
    ∧ (∀ i slot b, presented (.block i slot) → frame.body = .block b →
      ∃ data : List Byte, data.length = 12288
        ∧ (∀ j (h : j < data.length), data[j] = match slot with
            | some n => Dram.read s.cache.dram (Dram.pageAddress n 0 + j)
            | none => 0)
        ∧ Result.Gives (exec (.contestWon dt) s)
          { sends (.block i slot) (.block { b with data := data }) { s.bus with
              counts := { won with sentBlock := inc s.bus.counts.sentBlock } } with
            streams := { s.streams with
              contexts := Sparse.modify s.streams.contexts i (Context.setHeadPhase .sent) }
            delivery := { s.delivery with counts := { s.delivery.counts with
              blocksSent := inc s.delivery.counts.blocksSent } } })
    ∧ (∀ i, presented (.ended i) → Result.Gives (exec (.contestWon dt) s)
      (sends (.ended i) frame.body { s.bus with
        notices := dropEnd i s.bus.notices, counts := { won with sentNotice := inc s.bus.counts.sentNotice } }))
    ∧ (∀ dest address outcome rest, presented .stored → s.bus.notices = .stored dest address outcome :: rest →
      Result.Gives (exec (.contestWon dt) s)
        (sends .stored frame.body { s.bus with
          notices := rest, counts := { won with sentNotice := inc s.bus.counts.sentNotice } }))
    ∧ (∀ record, presented .state → frame.body = .state record →
      let left := { s.later dt with bus := { s.bus with
        requests := s.bus.requests &&& ~~~(1#16 <<< frame.dest.toNat), counts := won } }
      Result.Gives (exec (.contestWon dt) s)
        (sends .state (.state left.record) { left.bus with
          counts := { won with sentState := inc s.bus.counts.sentState } }))

/-- CONTEST_LOST: the contest is counted and the item stays where it was, an OFFER back in phase QUEUED or, its expiry
past, freed; a BLOCK's head back in bus phase none and, where it has become stale, dropped, the patched head behind it ending
a STRICT stream (R62, R68, R79 to R83, R89, R90, R140, R152). That withdrawn references are released from head to tail is the
model's choice (log 5); that the drops of one cascade all come before the first refill is the model's choice (log 36), and so is that a head
stale in its place has no policy test (log 44). -/
def Obligations.ContestLostKeepsTheItem : Prop :=
  ∀ (dt : Micros) (frame : WireFrame) (s : State),
    let presented := fun (item : OwnItem) => s.bus.tenure = some { item := item, frame := frame, sent := false }
    let lost : State := { s.later dt with bus := { s.bus with
      contestWord := none, tenure := none, counts := { s.bus.counts with lost := inc s.bus.counts.lost } } }
    (∀ i c o, presented (.offer i) → s.ctx? i = some c → c.offer = some o →
      (o.lapsed = false → Result.Gives (exec (.contestLost dt) s)
        { lost with streams := { s.streams with
            contexts := Sparse.modify s.streams.contexts i fun x =>
              { x with offer := x.offer.map fun y => { y with phase := .queued } } } })
      ∧ (o.lapsed = true → c.window = [] → Result.Gives (exec (.contestLost dt) s)
        { (lost.freed i c) with cue := { (s.freed i c).cue with
            counts := { s.cue.counts with expired := inc s.cue.counts.expired } } }))
    ∧ (∀ i slot c e rest, presented (.block i slot) → s.ctx? i = some c → c.window = e :: rest →
      signedDiff s.clock.sfc e.leaveTime < 0 → Result.Gives (exec (.contestLost dt) s)
        { lost with streams := { s.streams with
            contexts := Sparse.modify s.streams.contexts i (Context.setHeadPhase .none) } })
    ∧ (∀ i slot c e more gone stay, presented (.block i slot) → s.ctx? i = some c → c.window = e :: more →
      c.delivering = true → s.TableLaw → c.WindowLaw →
      let held := { c with window := { e with busPhase := .none } :: more }
      gone ≠ [] →
      (s.ServesHeads held gone stay →
        Result.GivesReleasing (exec (.contestLost dt) s) gone (lost.afterHeads i held gone stay))
      ∧ ∀ next others, s.FaultsAtHead held gone next others →
          Result.GivesReleasing (exec (.contestLost dt) s) c.window (lost.afterFault i held gone (next :: others)))
    ∧ ((∃ i, presented (.ended i)) ∨ presented .stored ∨ presented .state →
      Result.Gives (exec (.contestLost dt) s) lost)

/-! ### The slots of the 7240's own frames (R63, R64, R80, R91, R141 to R143, R156) -/

/-- OWN_OFFER_ACK with F0 ≥ N ends the stream EMPTY; OWN_OFFER_NACK frees the context with no second attempt (R63, R64,
R78, R89, R90, R156). END_SENT, STORED_SENT and STATE_SENT: the slot ends the tenure, a NACK is counted by class, and an
END's context returns to FREE whatever the reading (R54, R91, R156). The reading of the slot of a context that a CLEAR has
freed is ignored by its owner (R71, R156); that the bus port counts the NACK all the same is the model's reading (log 41). -/
def Obligations.OwnOfferAndNoticeSlots : Prop :=
  (∀ (dt : Micros) (i : Nat) (frame : WireFrame) (c : Context) (o : OfferRecord) (s : State),
    s.bus.tenure = some { item := .offer i, frame := frame, sent := true } → s.ctx? i = some c →
    c.state = .contending → c.offer = some o → o.phase = .sent → c.window = [] →
    (c.zone.length ≤ c.f0.toNat → Result.Gives (exec (.ownOfferAck dt) s)
      { s.slotEnded dt with
        bus := { (s.slotEnded dt).bus with
          notices := s.bus.notices ++ [.ended i c.id .empty c.delivered c.dropped c.patched] }
        cue := { s.cue with counts := { s.cue.counts with offersWon := inc s.cue.counts.offersWon } }
        streams :=
          { contexts := Sparse.modify s.streams.contexts i fun x =>
              { x with state := .spent, window := [], gen := { x.gen with closed := true }
                       endReason := some .empty, offer := none }
            counts := { s.streams.counts with endEmpty := inc s.streams.counts.endEmpty } } })
    ∧ Result.Gives (exec (.ownOfferNack dt) s)
      { ((s.slotEnded dt).freed i c) with
        bus := { ((s.slotEnded dt).freed i c).bus with
          counts := { s.bus.counts with refusedOffer := inc s.bus.counts.refusedOffer } }
        cue := { (s.freed i c).cue with
          counts := { s.cue.counts with offersRefused := inc s.cue.counts.offersRefused } } })
  ∧ (∀ (dt : Micros) (i : Nat) (frame : WireFrame) (s : State),
    s.bus.tenure = some { item := .offer i, frame := frame, sent := true } → s.ctx? i = none →
    Result.Gives (exec (.ownOfferAck dt) s) (s.slotEnded dt)
    ∧ Result.Gives (exec (.ownOfferNack dt) s)
      { s.slotEnded dt with bus := { (s.slotEnded dt).bus with
          counts := { s.bus.counts with refusedOffer := inc s.bus.counts.refusedOffer } } })
  ∧ ∀ (dt : Micros) (reading : Reading) (frame : WireFrame) (s : State),
    let sent := fun (item : OwnItem) => s.bus.tenure = some { item := item, frame := frame, sent := true }
    let ended := fun (counts : BusCounts) =>
      { s.slotEnded dt with bus := { (s.slotEnded dt).bus with counts := counts } }
    let notice := if reading = .nack then { s.bus.counts with refusedNotice := inc s.bus.counts.refusedNotice }
      else s.bus.counts
    let state := if reading = .nack then { s.bus.counts with refusedState := inc s.bus.counts.refusedState }
      else s.bus.counts
    (∀ i c, sent (.ended i) → s.ctx? i = some c → c.state = .spent → Result.Gives (exec (.endSent dt reading) s)
      { ended notice with
        cue := { s.cue with demandSum := s.cue.demandSum - c.demand }
        streams :=
          { contexts := Sparse.erase s.streams.contexts i
            counts := { s.streams.counts with endSent := inc s.streams.counts.endSent } } })
    ∧ (∀ i, sent (.ended i) → s.ctx? i = none → Result.Gives (exec (.endSent dt reading) s) (ended notice))
    ∧ (sent .stored → Result.Gives (exec (.storedSent dt reading) s) (ended notice))
    ∧ (sent .state → Result.Gives (exec (.stateSent dt reading) s) (ended state))

/-- OWN_OFFER_ACK of a stream with a block to play: the context is LOOPING where its loop is active, else RUNNING, and its
window holds the first Q entries of the sequence, those of the first run and then of the loop's passes, each with the
distances and times of the manual; one that is not stored is phantom and ready (R12, R39 to R41, R43 to R45, R63, R75, R76,
R78). Where each stored block is in the cache, its entry refers to the slot that carries its key, ready with the slot's
patched pages unless the slot is FILLING; the slot takes one more reference for each and leaves the reclaim list; and a
patched head of a TOLERANT stream is counted (R76, R82, R101 to R103); here a FILLING slot is referred to already and its
deadline is none of those lowered. Where every block is stored and none is in the cache, each takes the next slot of the
free list, FILLING with one reference; its entry is not ready; and its fetch is queued on its block's channel, or begun at
once where the channel is IDLE (R76, R99, R104, R116 to R118, R120). -/
def Obligations.TakenStreamFillsItsWindow : Prop :=
  ∀ (dt : Micros) (i : Nat) (frame : WireFrame) (c : Context) (o : OfferRecord) (loop : Option Loop) (s : State),
    s.bus.tenure = some { item := .offer i, frame := frame, sent := true } → s.ctx? i = some c →
    s.TableLaw → s.CacheLaw →
    c.state = .contending → c.offer = some o → o.phase = .sent → c.window = [] →
    loop = (if c.activeLoop = true then c.zone.loop else none) → (c.activeLoop = true → loop ≠ none) →
    c.exitPass = none → c.cutDistance = none → c.f0.toNat < c.zone.length → 2 ≤ c.depth → c.depth ≤ 16 →
    let b := c.zone.format.framesPerBlock
    let f0 := c.f0.toNat
    (loop = none → f0 / b + c.depth ≤ (c.zone.length - 1) / b) →
    (∀ l, loop = some l → f0 < l.stop ∧ l.first + 256 ≤ l.stop ∧ l.stop ≤ c.zone.length) → c.zone.length ≤ 67108864 →
    let element := fun j : Nat => match loop with
      | none => (Part.first, f0 / b + j)
      | some l =>
        let run := (l.stop - 1) / b - f0 / b + 1
        let pass := (l.stop - 1) / b - l.first / b + 1
        if j < run then (Part.first, f0 / b + j) else (Part.pass (1 + (j - run) / pass), l.first / b + (j - run) % pass)
    let span := fun (part : Part) (k : Nat) => match loop, part with
      | some l, .pass m =>
        let begins := (l.stop - f0) + (m - 1) * (l.stop - l.first)
        (begins + (max (k * b) l.first - l.first), begins + (min ((k + 1) * b) l.stop - l.first))
      | some l, _ => (max (k * b) f0 - f0, min ((k + 1) * b) l.stop - f0)
      | none, _ => (max (k * b) f0 - f0, min ((k + 1) * b) c.zone.length - f0)
    let need := fun j : Nat => (span (element j).1 (element j).2).1
    let leave := fun j : Nat => (span (element j).1 (element j).2).2
    let time := fun x : Nat => c.origin + BitVec.ofNat 32 ((x * 65536 + c.rate - 1) / c.rate)
    let deadline := fun j : Nat => time (need j) - BitVec.ofNat 32 s.lead
    let entry := fun (j : Nat) (slot : Option SlotNo) (ready : Bool) (patched : PageSet) =>
      ({ pos := j, index := j, part := (element j).1, k := (element j).2
         need := BitVec.ofNat 48 (need j), leave := BitVec.ofNat 48 (leave j)
         deadline := deadline j, leaveTime := time (leave j), eligible := none
         phantom := decide (c.zone.effective ≤ (element j).2)
         slot := slot, ready := ready, patched := patched, busPhase := .none } : Entry)
    let taken := fun (entries : Nat → Entry) (cache : Cache) (fetch : FetchEngine) =>
      { s.slotEnded dt with
        cue := { s.cue with counts := { s.cue.counts with offersWon := inc s.cue.counts.offersWon } }
        cache := cache, fetch := fetch
        streams :=
          { contexts := Sparse.modify s.streams.contexts i fun x =>
              { x with
                offer := none, state := if c.activeLoop = true then .looping else .running
                gen := { part := (element c.depth).1, k := (element c.depth).2, pos := c.depth, index := c.depth
                         overrun := 0, closed := false }
                window := (List.range c.depth).map entries
                patched := if (entries 0).patched = 0 then x.patched else inc x.patched }
            counts := { s.streams.counts with created := addCount s.streams.counts.created c.depth } } }
    let stored := (List.range c.depth).filter fun j => decide ((element j).2 < c.zone.effective)
    signedDiff s.clock.sfc (time (leave 0)) < 0 →
    (let slotAt := fun j : Nat =>
        if (element j).2 < c.zone.effective then s.findKey c.zone.zone (element j).2 else none
      let uses := fun p : Nat × Slot =>
        (stored.filter fun j => p.2.zone == c.zone.zone && p.2.k == (element j).2).length
      let hits := fun st : SlotState => (stored.filter fun j => decide ((slotAt j).map (·.2.state) = some st)).length
      let entries := fun j : Nat => match slotAt j with
        | some (n, slot) =>
          if slot.state = .filling then entry j (some n) false 0 else entry j (some n) true slot.patched
        | none => entry j none true 0
      (∀ j ∈ stored, ∃ p ∈ s.cache.slots, p.2.zone = c.zone.zone ∧ p.2.k = (element j).2
        ∧ (p.2.state = .filling → s.FetchLaw ∧ p.2.refs ≠ 0 ∧ 0 ≤ signedDiff (deadline j) p.2.deadline)) →
      ((entries 0).patched = 0 ∨ c.policy = .tolerant) →
      Result.Gives (exec (.ownOfferAck dt) s) (taken entries
        { s.cache with
          slots := s.cache.slots.map fun p => (p.1, { p.2 with refs := p.2.refs + uses p })
          reclaim := s.cache.reclaim.filter fun n => !(s.cache.slots.any fun p => p.1 == n.val && uses p != 0)
          counts := { s.cache.counts with
            validHit := addCount s.cache.counts.validHit (hits .valid)
            fillingHit := addCount s.cache.counts.fillingHit (hits .filling)
            patchedShare := addCount s.cache.counts.patchedShare (hits .patched) } }
        s.fetch))
    ∧ ∀ n : Nat → SlotNo, loop = none → stored.length = c.depth → s.cleared = false →
      (∀ p ∈ s.cache.slots, p.2.zone = c.zone.zone → ∀ j < c.depth, p.2.k ≠ (element j).2) →
      s.cache.freeList.take c.depth = (List.range c.depth).map (fun j => (n j).val) →
      let block := fun j : Nat => c.zone.base + (element j).2
      (∀ j < c.depth, let ch := s.chan (channelOf (block j))
        ch.offline = false ∧ (ch.op ≠ none ∨ ch.probePending = true
          ∨ (ch.queue = [] ∧ ∃ m, ch.pageCount = some m ∧ channelPage (block j) 0 < m))) →
      let requested := fun (k : Channel) (j : Nat) =>
        let f : Fetch := { slot := n j, block := block j, deadline := deadline j, pagesDone := 0
                           cancelPending := false, order := k.nextOrder }
        let queued := { k with queue := insertFetch f k.queue, nextOrder := k.nextOrder + 1 }
        if k.op = none ∧ k.probePending = false then
          { queued with op := some { kind := .fetchPage (n j), issued := s.clock.localTime + dt }
                        counts := { k.counts with begun := inc k.counts.begun } }
        else queued
      ∃ t, exec (.ownOfferAck dt) s = .next t
        ∧ Settles (taken (fun j => entry j (some (n j)) false 0)
            { t.cache with
              dram := s.cache.dram, reclaim := s.cache.reclaim
              counts := { s.cache.counts with miss := addCount s.cache.counts.miss c.depth } }
            { t.fetch with extent := s.fetch.extent }) t
        ∧ (∀ j < c.depth, t.slot? (n j) = some { state := .filling, zone := c.zone.zone, k := (element j).2, refs := 1
                                                 pagesDone := 0, patched := 0, deadline := deadline j })
        ∧ (∀ m, (∀ j < c.depth, m ≠ n j) → t.slot? m = s.slot? m)
        ∧ t.cache.freeList = s.cache.freeList.drop c.depth
        ∧ ∀ ch, t.chan ch =
            ((List.range c.depth).filter fun j => decide (channelOf (block j) = ch)).foldl requested (s.chan ch)

/-- A mark that leaves heads stale, here in RUNNING with one context concerned: they are dropped one after another, each
counted, until the first entry that is not stale is head; a patched head of a TOLERANT stream is counted; the window is
refilled, here where the sequence is closed or no block of the zone is stored; and a RUNNING context left with no entry and
a closed sequence enters SPENT; a patched head that a STRICT stream comes to behind them ends it with reason FAULT, every
entry withdrawn (R76, R80 to R83, R88 to R90). That withdrawn references are released from head to tail is the model's choice
(log 5); that the drops of one cascade all come before the first refill
is the model's choice (log 36), and so is that a head stale in its place has no policy test (log 44). -/
def Obligations.StaleHeadsAreDropped : Prop :=
  ∀ (dt : Micros) (i : Nat) (c : Context) (gone stay : List Entry) (s : State),
    s.clock.state = .running → s.clockTakes = true → s.clock.isGlitch (s.clock.localTime + dt) = false →
    s.clock.load = none → s.TableLaw → s.ctx? i = some c → c.WindowLaw → (c.state = .running ∨ c.state = .looping) →
    let sfc := s.clock.sfc + 64
    (∀ p ∈ s.streams.contexts, p.1 ≠ i → p.2.delivering = true → ∀ e rest, p.2.window = e :: rest →
      e.isStale sfc = false) →
    let marked := { s with clock := { s.clock.captured dt with sfc := sfc } }
    gone ≠ [] →
    (marked.ServesHeads c gone stay →
      Result.GivesReleasing (exec (.markEdge dt) s) gone (marked.afterHeads i c gone stay))
    ∧ ∀ next more, marked.FaultsAtHead c gone next more →
        Result.GivesReleasing (exec (.markEdge dt) s) c.window (marked.afterFault i c gone (next :: more))

/-- The cache's answer to a lookup, by the state of the slot that carries the key: one more reference, and what the table
of 6.3 adds (R101 to R103), the reclaim list, a withdrawn cancellation (R125), a deadline lowered and its fetch moved to
its place (R102, R108, R117). With no such slot the head of the free list, else of the reclaim list, is taken, FILLING
with one reference (R104), and its fetch is requested by the channel's state (R116, R118), nothing being reported before
the lookup returns; that a fetch whose page lies beyond the page count is counted as begun is the model's choice
(log 22). The entry of a mapped block refers to the slot, and is ready unless it is FILLING (R76). What is reported after
the lookup: a fetch on an OFFLINE channel completes with its three pages patched, and so does one whose pages all lie beyond
the page count, here the only one of its channel's queue (R77, R104, R106, R107, R116, R118, R119, R123, R124). -/
def Obligations.LookupByTheSlotsState : Prop :=
  (∀ (f : Fetch) (queue : List Fetch),
    let first := fun x : Fetch => signedDiff f.deadline x.deadline < 0 ∨ (f.deadline = x.deadline ∧ f.order < x.order)
    ∃ front back, queue = front ++ back ∧ insertFetch f queue = front ++ f :: back
      ∧ (∀ x ∈ front, ¬ first x) ∧ ∀ x rest, back = x :: rest → first x)
  ∧ (∀ (zone : Zone) (k block : Nat) (deadline : Time) (n : SlotNo) (slot : Slot) (s : State),
    s.TableLaw → s.CacheLaw → s.slot? n = some slot → slot.zone = zone → slot.k = k →
    let finds := fun (t : State) => s.lookup zone k block deadline = some { slot := n, state := t, report := .none }
    let more := Sparse.modify s.cache.slots n.val fun x => { x with refs := x.refs + 1 }
    let sooner := Sparse.modify s.cache.slots n.val fun x => { x with refs := x.refs + 1, deadline := deadline }
    let filling := { s.cache.counts with fillingHit := inc s.cache.counts.fillingHit }
    (slot.state = .valid → finds { s with cache := { s.cache with
        slots := more, reclaim := s.cache.reclaim.filter (· != n)
        counts := { s.cache.counts with validHit := inc s.cache.counts.validHit } } })
    ∧ (slot.state = .patched → finds { s with cache := { s.cache with
        slots := more
        counts := { s.cache.counts with patchedShare := inc s.cache.counts.patchedShare } } })
    ∧ (slot.state = .filling → s.FetchLaw → ∀ c f, f ∈ (s.chan c).queue → f.slot = n →
      (0 ≤ signedDiff deadline slot.deadline →
        finds (({ s with cache := { s.cache with slots := more, counts := filling } }).updChan c fun (ch : Channel) =>
          { ch with queue := ch.queue.map fun (x : Fetch) => if x.slot = n then { x with cancelPending := false } else x }))
      ∧ (signedDiff deadline slot.deadline < 0 →
        finds (({ s with cache := { s.cache with slots := sooner, counts := filling } }).updChan c fun (ch : Channel) =>
          let others := ch.queue.filter fun (x : Fetch) => x.slot != n
          { ch with queue := insertFetch { f with deadline := deadline, cancelPending := false } others }))))
  ∧ (∀ (zone : Zone) (k block : Nat) (deadline : Time) (n : SlotNo) (s : State), s.TableLaw → s.CacheLaw →
    (∀ p ∈ s.cache.slots, p.2.zone = zone → p.2.k ≠ k) →
    (s.cache.freeList ++ s.cache.reclaim.map Fin.val).head? = some n.val →
    let c := channelOf block
    let f : Fetch := { slot := n, block := block, deadline := deadline, pagesDone := 0, cancelPending := false
                       order := (s.chan c).nextOrder }
    let asked := fun (g : Channel → Channel) =>
      (s.updChan c fun ch => g { ch with nextOrder := ch.nextOrder + 1 }).fetch
    ∃ found, s.lookup zone k block deadline = some found ∧ found.slot = n
      ∧ found.state = { s with cache := { found.state.cache with dram := s.cache.dram }, fetch := found.state.fetch }
      ∧ found.state.slot? n = some { state := .filling, zone := zone, k := k, refs := 1, pagesDone := 0, patched := 0
                                     deadline := deadline }
      ∧ (∀ m, m ≠ n → found.state.slot? m = s.slot? m)
      ∧ found.state.cache.freeList = s.cache.freeList.tail
      ∧ found.state.cache.reclaim = (if s.cache.freeList = [] then s.cache.reclaim.tail else s.cache.reclaim)
      ∧ found.state.cache.counts = { s.cache.counts with
          miss := inc s.cache.counts.miss
          reclaim := if s.cache.freeList = [] then inc s.cache.counts.reclaim else s.cache.counts.reclaim }
      ∧ ((s.chan c).offline = true → found.report = .offline c f ∧ found.state.fetch = asked id)
      ∧ ((s.chan c).offline = false →
        ((s.chan c).op ≠ none ∨ (s.chan c).probePending = true ∨ s.cleared = true →
          found.report = .none
          ∧ found.state.fetch = asked fun ch => { ch with queue := insertFetch f ch.queue })
        ∧ ((s.chan c).op = none → (s.chan c).probePending = false → s.cleared = false → (s.chan c).queue = [] →
          (∀ m, (s.chan c).pageCount = some m → channelPage block 0 < m →
            found.report = .none
            ∧ found.state.fetch = asked fun ch =>
                { ch with
                  queue := [f], op := some { kind := .fetchPage n, issued := s.clock.localTime }
                  counts := { ch.counts with begun := inc ch.counts.begun } })
          ∧ ((∀ m, (s.chan c).pageCount = some m → m ≤ channelPage block 0) →
            found.report = .beyond c n
            ∧ found.state.fetch = asked fun ch =>
                { ch with
                  queue := [f]
                  counts := { ch.counts with
                    begun := inc ch.counts.begun, beyondExtent := inc ch.counts.beyondExtent } }))))
  ∧ (∀ (i : Nat) (c : Context) (found : Found) (slot : Slot) (s : State), c.gen.k < c.zone.effective →
    let e := c.nextEntry s.lead
    s.lookup c.zone.zone c.gen.k (c.zone.base + c.gen.k) e.deadline = some found →
    found.state.slot? found.slot = some slot →
    s.createEntry i c = some (found.state.appendEntry i { e with
      slot := some found.slot, ready := decide (slot.state ≠ .filling)
      patched := if slot.state = .filling then 0 else slot.patched }, found.report))
  ∧ (∀ s : State, s.report .none = s)
  ∧ ∀ (c : ChannelNo) (f : Fetch) (slot : Slot) (s : State), s.TableLaw → s.MemoryLaw → s.CacheLaw →
    (∀ p ∈ s.streams.contexts, p.2.policy = .tolerant) → s.slot? f.slot = some slot → f.pagesDone = 0 →
    let completes := fun (r : LateReport) (g : Channel → Channel) =>
      QueuePatched [f] s (s.report r)
      ∧ s.report r = { s with
          cache := (s.report r).cache, streams := (s.report r).streams
          fetch := (s.updChan c fun k => { g k with
            counts := { (g k).counts with
              patchedPages := addCount k.counts.patchedPages 3, completed := inc k.counts.completed } }).fetch }
    completes (.offline c f) (fun k =>
      { k with counts := { k.counts with offlinePatched := addCount k.counts.offlinePatched 3 } })
    ∧ ((s.chan c).queue = [f] → (∀ m, (s.chan c).pageCount = some m → m ≤ channelPage f.block 0) →
      completes (.beyond c f.slot) (fun k =>
        { k with queue := [], counts := { k.counts with beyondExtent := addCount k.counts.beyondExtent 2 } }))
    ∧ ((s.chan c).queue = [] → s.report (.beyond c f.slot) = s)

/-- A reference released: the count falls by one, and at 0 a VALID slot joins the reclaim list at the tail, a PATCHED one
the free list, emptied, and a FILLING one has its fetch cancelled: at once, with the slot emptied, when no page of it is
being read, at the end of page 0 or 1, or not at all during page 2 (R98, R109, R110, R124, R125); that nothing is done for
a fetch in no queue, which OFFLINE is completing, is the model's reading (log 8). FETCH_PAGE_READ or PAGE_TIMEOUT of a
fetch that awaits cancellation: the outcome counts, no byte is written, the fetch is removed and its slot emptied (R110,
R126). That the row of an answer too late has the timeout's effect, and a timer at or after its moment, are the model's
choice (log 2). -/
def Obligations.ReferenceReleased : Prop :=
  (∀ (e : Entry) (s : State), e.slot = none → s.releaseEntry e = s)
  ∧ (∀ (e : Entry) (n : SlotNo) (slot : Slot) (s : State), e.slot = some n → s.slot? n = some slot →
    let less := { s.cache with slots := Sparse.modify s.cache.slots n.val fun x => { x with refs := x.refs - 1 } }
    let emptied := fun (counts : CacheCounts) => { s.cache with
      slots := Sparse.erase s.cache.slots n.val, freeTail := s.cache.freeTail ++ [n], counts := counts }
    let leaves := fun (cache : Cache) => s.releaseEntry e = { s with cache := cache }
    (1 < slot.refs → leaves less)
    ∧ (slot.refs = 1 →
      (slot.state = .valid → leaves { less with reclaim := s.cache.reclaim ++ [n] })
      ∧ (slot.state = .patched →
          leaves (emptied { s.cache.counts with patchedRelease := inc s.cache.counts.patchedRelease }))
      ∧ (slot.state = .filling →
        ((∀ c, ∀ f ∈ (s.chan c).queue, f.slot ≠ n) → leaves less)
        ∧ (s.FetchLaw → ∀ c f, f ∈ (s.chan c).queue → f.slot = n →
          ((∀ op, (s.chan c).op = some op → op.kind ≠ .fetchPage n) →
            s.releaseEntry e =
              ({ s with cache := emptied { s.cache.counts with cancel := inc s.cache.counts.cancel } }).updChan c
                fun ch => { ch with
                  queue := ch.queue.filter fun x => x.slot != n
                  counts := { ch.counts with cancels := inc ch.counts.cancels } })
          ∧ (∀ issued, (s.chan c).op = some { kind := .fetchPage n, issued := issued } →
            (f.pagesDone < 2 → s.releaseEntry e = ({ s with cache := less }).updChan c fun (ch : Channel) =>
              { ch with queue := ch.queue.map fun (x : Fetch) => if x.slot = n then { x with cancelPending := true } else x })
            ∧ (f.pagesDone = 2 → leaves less))))))
  ∧ ∀ (dt : Micros) (ch : ChannelNo) (how : PageEnd) (n : SlotNo) (f : Fetch) (issued : Time) (s : State),
    (s.chan ch).op = some { kind := .fetchPage n, issued := issued } → s.CanEnd dt ch issued how →
    (s.chan ch).queue = [f] → f.slot = n →
    f.cancelPending = true → (s.chan ch).offline = false → (s.chan ch).probePending = false → s.cleared = false →
    s.dir.program = none → s.dir.load = none →
    Result.Gives (exec (how.ofFetch dt ch) s)
      (({ s.later dt with cache := { s.cache with
          slots := Sparse.erase s.cache.slots n.val, freeTail := s.cache.freeTail ++ [n]
          counts := { s.cache.counts with cancel := inc s.cache.counts.cancel } } }).updChan ch fun k =>
        { how.counted k with
          op := none, queue := []
          counts := { (how.counted k).counts with cancels := inc k.counts.cancels } })

/-- OWN_BLOCK_ACK of a RUNNING or LOOPING stream: the lane closes, the NACK count returns to 0, the head is delivered and
the next entry becomes head, dropped where it is stale; the window is refilled, here where the sequence is closed or no block
of the zone is stored, or where one entry, made by the lookup of a stored block, fills it again, what that lookup's fetch
request has left being reported after it; with none left a RUNNING stream enters SPENT; and a patched entry that becomes head
ends a STRICT stream with reason FAULT, every entry withdrawn (R76, R80 to R83, R88 to R90, R104, R133, R141, R156). Of a context that a CLEAR has freed the reading moves
the lane's view alone (R71, R144, R156). That the drops of one cascade all come before the first refill is the model's
choice (log 36), and so are that a head stale in its place has no policy test (log 44), that a report follows the entry it
is of (log 7), and that withdrawn references are released from head to tail (log 5). -/
def Obligations.OwnBlockAckDelivers : Prop :=
  ∀ (dt : Micros) (i : Nat) (slot : Option SlotNo) (frame : WireFrame) (b : BlockFields) (s : State),
    s.bus.tenure = some { item := .block i slot, frame := frame, sent := true } → frame.body = .block b →
    let views := s.delivery.views.map fun v =>
      if v.1 = frame.dest then (v.1, v.2 &&& ~~~(1#64 <<< (b.lane.extractLsb' 0 6).toNat)) else v
    (s.ctx? i = none →
      Result.Gives (exec (.ownBlockAck dt) s) { s.slotEnded dt with delivery := { s.delivery with views := views } })
    ∧ ∀ (c : Context) (e : Entry) (rest : List Entry), s.ctx? i = some c → c.delivering = true → c.window = e :: rest →
      e.busPhase = .sent → s.TableLaw → c.WindowLaw →
      let held := { c with window := rest, delivered := inc c.delivered, nacks := 0 }
      let ended : State := { s.slotEnded dt with
        delivery :=
          { views := views
            counts := { s.delivery.counts with
              blocksAcknowledged := inc s.delivery.counts.blocksAcknowledged
              phantomBlock := if b.flags.getLsbD 7 = true then inc s.delivery.counts.phantomBlock
                else s.delivery.counts.phantomBlock
              patchedDelivered := if b.flags &&& 7 ≠ 0 then inc s.delivery.counts.patchedDelivered
                else s.delivery.counts.patchedDelivered } }
        streams :=
          { contexts := Sparse.modify s.streams.contexts i fun _ => held
            counts := { s.streams.counts with delivered := inc s.streams.counts.delivered } } }
      (∀ gone stay, s.ServesHeads held gone stay →
        Result.GivesReleasing (exec (.ownBlockAck dt) s) (e :: gone) (ended.afterHeads i held gone stay))
      ∧ (∀ gone next more, s.FaultsAtHead held gone next more →
        Result.GivesReleasing (exec (.ownBlockAck dt) s) c.window (ended.afterFault i held gone (next :: more)))
      ∧ (c.window.length = c.depth → c.gen.closed = false → c.gen.k < c.zone.effective →
        (∀ next more, rest = next :: more →
          next.isStale s.clock.sfc = false ∧ (next.ready = false ∨ next.patched = 0)) →
        ∀ t report, (ended.released [e]).createEntry i held = some (t, report) →
          Result.Gives (exec (.ownBlockAck dt) s) (t.report report))

/-- OWN_BLOCK_NACK: the blade's own view closes and the NACK is counted; the head stays for another try while fewer than
four in a row were refused, or is dropped where it is stale, and what follows a drop is done; the fourth ends the stream
ABANDONED, every entry withdrawn (R76, R80 to R83, R88 to R90, R134, R142, R143, R156). Of a context that a CLEAR has freed
the reading moves the lane's view alone (R71, R144, R156). That the bus port counts that NACK all the same is the model's
reading (log 41); that withdrawn references are released from head to tail is its choice (log 5), and so are that the drops
of one cascade all come before the first refill (log 36) and that a head stale in its place has no policy test (log 44). -/
def Obligations.OwnBlockNackCounts : Prop :=
  ∀ (dt : Micros) (i : Nat) (slot : Option SlotNo) (frame : WireFrame) (b : BlockFields) (s : State),
    s.bus.tenure = some { item := .block i slot, frame := frame, sent := true } → frame.body = .block b →
    let refused : State := { s.slotEnded dt with
      bus := { (s.slotEnded dt).bus with
        counts := { s.bus.counts with refusedBlock := inc s.bus.counts.refusedBlock } }
      delivery := { s.delivery with views := s.delivery.views.map fun v =>
        if v.1 = frame.dest then (v.1, v.2 &&& ~~~(1#64 <<< (b.lane.extractLsb' 0 6).toNat)) else v } }
    (s.ctx? i = none → Result.Gives (exec (.ownBlockNack dt) s) refused)
    ∧ ∀ (c : Context) (e : Entry) (rest : List Entry), s.ctx? i = some c → c.window = e :: rest → e.busPhase = .sent →
      s.TableLaw →
      let held := { c with window := { e with busPhase := .none } :: rest, nacks := c.nacks + 1 }
      let ended : State := { refused with delivery := { refused.delivery with
        counts := { s.delivery.counts with blocksRefused := inc s.delivery.counts.blocksRefused } } }
      (c.nacks < 3 → signedDiff s.clock.sfc e.leaveTime < 0 → Result.Gives (exec (.ownBlockNack dt) s)
        { ended with streams := { s.streams with contexts := Sparse.modify s.streams.contexts i fun _ => held } })
      ∧ (c.nacks < 3 → c.delivering = true → c.WindowLaw → ∀ gone stay, gone ≠ [] →
        (s.ServesHeads held gone stay →
          Result.GivesReleasing (exec (.ownBlockNack dt) s) gone (ended.afterHeads i held gone stay))
        ∧ ∀ next more, s.FaultsAtHead held gone next more →
            Result.GivesReleasing (exec (.ownBlockNack dt) s) c.window (ended.afterFault i held gone (next :: more)))
      ∧ (c.nacks = 3 → Result.GivesReleasing (exec (.ownBlockNack dt) s) c.window
        { ended with
          bus := { ended.bus with
            notices := s.bus.notices ++ [.ended i c.id .abandoned c.delivered c.dropped c.patched] }
          streams :=
            { contexts := Sparse.modify s.streams.contexts i fun x =>
                { x with window := [], nacks := 4, state := .spent, gen := { x.gen with closed := true }
                         endReason := some .abandoned, offer := none }
              counts := { s.streams.counts with
                withdrawn := addCount s.streams.counts.withdrawn c.window.length
                endAbandoned := inc s.streams.counts.endAbandoned } } })

/-! ### The bus-stuck watch and the CLEAR line (R158, R159, R170) -/

/-- BUS_STUCK when the watch has run 10,000 µs with something to send is counted, and the episode begins; contest starts,
end delimiters and ends of slots restart the watch and end an episode, and a broken frame restarts it and ends none (R159);
any other command leaves a running watch's start, or an episode, as it was while there is something to send and no counted
CLEAR. That GAP_END, and any other such command after which a start bit of the 7240's is sent, is among those is the model's
choice (log 28): R148 makes that start bit a contest start, whose restart of the watch and end of the episode by R159 the
model holds over to CONTEST_START. That a watch found idle then starts from 0 is its choice too (log 43). CLEAR_ASSERTED
starts the timing of the line, and SHORT_CLEAR, released before 100 µs, is counted and changes nothing else (R158). A timer at or after its moment is the model's choice (log 2). -/
def Obligations.BusPortTimers : Prop :=
  (∀ (dt : Micros) (since : Time) (s : State), s.bus.watch = .running since →
    10000 ≤ signedDiff (s.clock.localTime + dt) since → s.somethingToSend = true → s.cleared = false →
    ∃ t, exec (.busStuck dt) s = .next t ∧ t.bus.watch = .episode
      ∧ Settles { s.later dt with bus := { s.bus with
          counts := { s.bus.counts with busStuck := inc s.bus.counts.busStuck } } } t)
  ∧ (∀ (dt : Micros) (src : Station) (form : Delimiter) (dominant : Bool) (bytes : List Byte)
    (frame : Option (List Byte)) (reading : Reading) (wire : WireFrame) (s : State),
    (s.bus.offers ≠ [] ∨ s.bus.notices ≠ [] ∨ s.bus.requests ≠ 0) → s.cleared = false →
    let leaves := fun (cmd : Instr) (watch : StuckWatch) => ∃ t, exec cmd s = .next t ∧ t.bus.watch = watch
    let now := StuckWatch.running (s.clock.localTime + dt)
    (s.contestOpens = true → leaves (.contestStart dt) now)
    ∧ (s.listening = true →
      leaves (.checkFailure dt form) now ∧ leaves (.malformed dt form) now ∧ leaves (.pause ⟨dt, bytes⟩ src) now
      ∧ leaves (.queryStatus ⟨dt, bytes⟩ src) now
      ∧ (s.bus.state ≠ .gap → s.bus.state ≠ .free → s.bus.state ≠ .busyDominant → leaves (.ackSlotEnd ⟨dt, frame⟩) now)
      ∧ (s.bus.watch ≠ .episode → leaves (.brokenFrame dt dominant) now)
      ∧ (s.bus.watch = .episode → leaves (.brokenFrame dt dominant) .episode))
    ∧ (s.bus.tenure = some { item := .stored, frame := wire, sent := true } → leaves (.storedSent dt reading) now))
  ∧ (∀ (c : Instr) (s t : State), exec c s = .next t → (∀ straps, c ≠ .powerOn straps) →
    t.somethingToSend = true → t.cleared = false →
    (s.bus.watch = .idle → t.bus.watch = .running t.clock.localTime)
    ∧ (s.bus.watch ≠ .idle → c.isBoundary = false →
      (∀ dt since, c = .busStuck dt → s.bus.watch = .running since →
        signedDiff (s.clock.localTime + dt) since < 10000) →
      t.bus.watch = s.bus.watch))
  ∧ ∀ (dt : Micros) (s : State),
    (s.bus.clear = .released → Result.Gives (exec (.clearAsserted dt) s)
      { s.later dt with bus := { s.bus with clear := .asserted (s.clock.localTime + dt) } })
    ∧ ∀ since, s.bus.clear = .asserted since → signedDiff (s.clock.localTime + dt) since < 100 →
        Result.Gives (exec (.shortClear dt) s)
          { s.later dt with bus := { s.bus with
              clear := .released, counts := { s.bus.counts with shortClears := inc s.bus.counts.shortClears } } }

/-- CLEAR_COUNTS at 100 µs, in every phase that has blocks to clear (R18, R34, R71, R94, R113, R129, R136, R158, R170); an
acknowledge slot being driven is driven on, the model's choice (log 38). In UNCONFIGURED it is the bus port's part alone,
the model's reading (log 17). CLEAR_RELEASE: the pairing closes, and every channel is probed again, at once or when its
operation ends; in CONFIG-LOAD no probe is set, and in UNCONFIGURED nothing else changes (R34, R127, R128, R158, R170),
whatever the phase in which the CLEAR counted, the model's reading too (log 17). A timer at or after its moment is the
model's choice (log 2). -/
def Obligations.ClearReachesEveryBlock : Prop :=
  (∀ (dt : Micros) (since : Time) (s : State), s.bus.clear = .asserted since →
    100 ≤ signedDiff (s.clock.localTime + dt) since → s.TableLaw →
    let bus := { s.bus with
      clear := .counted, offers := [], notices := [], requests := 0
      counts := { s.bus.counts with clears := inc s.bus.counts.clears } }
    let numbers := fun (l : List (Nat × Slot)) => l.map Prod.fst
    let inSlots := fun (dir : Directory) (phase : Phase) => ∃ t, exec (.clearCounts dt) s = .next t
      ∧ Settles
        { status := { s.status with phase := phase }
          bus := bus
          clock := { s.clock.later dt with
            state := .unset, sfc := 0, load := none, lastEdge := none, watch := none, synthRun := 0 }
          dir := dir
          cue := { s.cue with demandSum := 0 }
          streams := { s.streams with contexts := [] }
          cache := { s.cache with
            slots := (s.cache.slots.filter fun p => p.2.state == .valid).map fun p => (p.1, { p.2 with refs := 0 })
            freeTail := t.cache.freeTail
            reclaim := t.cache.reclaim }
          fetch := { s.fetch with channels := s.fetch.channels.map fun ch =>
            { ch with queue := [], op := ch.op.map fun o => { o with kind := o.kind.discard } } }
          delivery := { s.delivery with views := s.delivery.views.map fun v => (v.1, 0) }
          pending := s.pending } t
      ∧ t.cache.freeTail.map Fin.val = s.cache.freeTail.map Fin.val
          ++ numbers (s.cache.slots.filter fun p => p.2.state != .valid)
      ∧ t.cache.reclaim.map Fin.val = s.cache.reclaim.map Fin.val
          ++ numbers (s.cache.slots.filter fun p => p.2.state == .valid && p.2.refs != 0)
    (s.status.phase = .serving →
      inSlots { s.dir with serviceStation := none, storeQueue := [], layout := none } .serving)
    ∧ (s.status.phase = .service ∨ s.status.phase = .directoryLoad →
      inSlots { s.dir with
        table := [], loaded := none, load := none, awaitsProbe := true, serviceStation := none, storeQueue := []
        layout := none
        program := s.dir.program.map fun p => { p with silent := true } } .directoryLoad)
    ∧ (s.status.phase = .probe ∨ s.status.phase = .configLoad → inSlots s.dir s.status.phase)
    ∧ (s.status.phase = .unconfigured → Result.Gives (exec (.clearCounts dt) s) { s.later dt with bus := bus }))
  ∧ ∀ (dt : Micros) (s : State), s.bus.clear = .counted →
    let released : State := { s.later dt with bus := { s.bus with clear := .released } }
    (s.status.phase ≠ .unconfigured → s.status.phase ≠ .configLoad → Result.Gives (exec (.clearRelease dt) s)
      { released with
        clock := { s.clock.later dt with pairingOpen := false }
        fetch := { s.fetch with channels := s.fetch.channels.map fun ch =>
          if ch.op.isNone then
            { ch with offline := false, probePending := false, timeouts := 0, pageCount := none
                      op := some { kind := .probe 1, issued := s.clock.localTime + dt } }
          else { ch with probePending := true } } })
    ∧ (s.status.phase = .configLoad → Result.Gives (exec (.clearRelease dt) s)
      { released with clock := { s.clock.later dt with pairingOpen := false } })
    ∧ (s.status.phase = .unconfigured → Result.Gives (exec (.clearRelease dt) s) released)

/-! ### Stream arithmetic (R39 to R49) -/

/-- T(x) is the origin plus the exact quotient rounded up (R44), and the distance at a time is rounded down (R48), each
the one whole number its exact value admits. -/
def Obligations.TimesRoundUpDistancesDown : Prop :=
  ∀ (c : Context) (x : Distance) (t : Time), 0 < c.rate → c.rate ≤ 262144 →
    (∃ q, c.timeOf x = c.origin + BitVec.ofNat 32 q ∧ x.toNat * 65536 ≤ q * c.rate
      ∧ q * c.rate < x.toNat * 65536 + c.rate)
    ∧ (0 < signedDiff t c.origin → ((c.distanceAt t).toNat : Int) * 65536 ≤ c.rate * signedDiff t c.origin
      ∧ (c.rate : Int) * signedDiff t c.origin < ((c.distanceAt t).toNat + 1) * 65536)
    ∧ (signedDiff t c.origin ≤ 0 → c.distanceAt t = 0)

/-- Each element of the played sequence begins where the one before it ends, from distance 0 on: through the first run,
the loop passes and, once an exit is fixed, the coda (R39 to R43); and the generator produces it: after the element at
played index j it stands at the element at j + 1, or is closed after the last (R42, R43, R75). -/
def Obligations.SequenceAndGenerator : Prop :=
  (∀ (c : Context) (j : Nat), c.f0.toNat < c.zone.length →
    (∀ l, c.loop? = some l → c.f0.toNat < l.stop ∧ l.first + 256 ≤ l.stop ∧ l.stop ≤ c.zone.length) →
    (c.loop? = none → c.kFirst + j < c.kEnd) →
    (∀ l m, c.loop? = some l → c.exitPass = some m →
      j + 1 < c.firstCount l + m * c.passCount l
        + (if l.stop = c.zone.length then 0 else c.kEnd - l.stop / c.blockFrames + 1)) →
    let at' := fun j => c.span (c.playedAt j).1 (c.playedAt j).2
    (at' 0).1 = 0 ∧ (at' j).2 = (at' (j + 1)).1 ∧ (at' j).1 < (at' j).2)
  ∧ ∀ (c : Context) (g : Generator), c.cutDistance = none → c.f0.toNat < c.zone.length → g.closed = false →
    (∀ l, c.loop? = some l → c.f0.toNat < l.stop ∧ l.first + 256 ≤ l.stop ∧ l.stop ≤ c.zone.length) →
    (g.part, g.k) = c.playedAt g.index →
    (c.loop? = none → g.k ≤ c.kEnd) → (g.part = .coda → g.k ≤ c.kEnd) →
    let next := c.advance g
    next.pos = g.pos + 1 ∧ next.index = g.index + 1
    ∧ (next.closed = false → (next.part, next.k) = c.playedAt (g.index + 1))
    ∧ (next.closed = true ↔ (c.loop? = none ∧ g.k = c.kEnd) ∨ (g.part = .coda ∧ g.k = c.kEnd)
        ∨ ∃ l m, c.loop? = some l ∧ c.exitPass = some m ∧ l.stop = c.zone.length
            ∧ g.index + 1 = c.firstCount l + m * c.passCount l)

/-! ### The STATE record (R173) -/

/-- The STATE record is 1,024 bytes, each field stands at its offset of R173's table, most significant byte first, and the
reserved bytes are 0. The bytes sent for a bridge, or for its open views, at a list place without a bridge, and for
every field of the image without one, are the model's reading (log 13). -/
def Obligations.StateRecordLayout : Prop :=
  ∀ s : State, s.record.length = 1024
    ∧ (∀ x ∈ s.recordFields ++ channels.flatMap s.channelFields ++ s.countFields,
        Bytes.field s.record x.1 x.2.1 = x.2.2 % 256 ^ x.2.1)
    ∧ ∀ i, (100 ≤ i ∧ i < 128) ∨ (1008 ≤ i ∧ i < 1024) → Bytes.byteAt s.record i = 0
end

