-- ==== Sys2Proof/Laws/State.lean ====
section
/-! SUPPORT. One lemma per block of the state per update, each true by definition, so that no proof unfolds a record
update: an update of one block changes that block and leaves the others alone. -/

namespace Sys2Proof.Machine

/-! ### The block updates -/

section
variable (f : Status → Status) (s : State)
@[simp] theorem onStatus_status : (s.onStatus f).status = f s.status := rfl
@[simp] theorem onStatus_bus : (s.onStatus f).bus = s.bus := rfl
@[simp] theorem onStatus_clock : (s.onStatus f).clock = s.clock := rfl
@[simp] theorem onStatus_dir : (s.onStatus f).dir = s.dir := rfl
@[simp] theorem onStatus_cue : (s.onStatus f).cue = s.cue := rfl
@[simp] theorem onStatus_streams : (s.onStatus f).streams = s.streams := rfl
@[simp] theorem onStatus_cache : (s.onStatus f).cache = s.cache := rfl
@[simp] theorem onStatus_fetch : (s.onStatus f).fetch = s.fetch := rfl
@[simp] theorem onStatus_delivery : (s.onStatus f).delivery = s.delivery := rfl
@[simp] theorem onStatus_pending : (s.onStatus f).pending = s.pending := rfl
end

section
variable (f : BusPort → BusPort) (s : State)
@[simp] theorem onBus_status : (s.onBus f).status = s.status := rfl
@[simp] theorem onBus_bus : (s.onBus f).bus = f s.bus := rfl
@[simp] theorem onBus_clock : (s.onBus f).clock = s.clock := rfl
@[simp] theorem onBus_dir : (s.onBus f).dir = s.dir := rfl
@[simp] theorem onBus_cue : (s.onBus f).cue = s.cue := rfl
@[simp] theorem onBus_streams : (s.onBus f).streams = s.streams := rfl
@[simp] theorem onBus_cache : (s.onBus f).cache = s.cache := rfl
@[simp] theorem onBus_fetch : (s.onBus f).fetch = s.fetch := rfl
@[simp] theorem onBus_delivery : (s.onBus f).delivery = s.delivery := rfl
@[simp] theorem onBus_pending : (s.onBus f).pending = s.pending := rfl
end

section
variable (f : Clock → Clock) (s : State)
@[simp] theorem onClock_status : (s.onClock f).status = s.status := rfl
@[simp] theorem onClock_bus : (s.onClock f).bus = s.bus := rfl
@[simp] theorem onClock_clock : (s.onClock f).clock = f s.clock := rfl
@[simp] theorem onClock_dir : (s.onClock f).dir = s.dir := rfl
@[simp] theorem onClock_cue : (s.onClock f).cue = s.cue := rfl
@[simp] theorem onClock_streams : (s.onClock f).streams = s.streams := rfl
@[simp] theorem onClock_cache : (s.onClock f).cache = s.cache := rfl
@[simp] theorem onClock_fetch : (s.onClock f).fetch = s.fetch := rfl
@[simp] theorem onClock_delivery : (s.onClock f).delivery = s.delivery := rfl
@[simp] theorem onClock_pending : (s.onClock f).pending = s.pending := rfl
end

section
variable (f : Directory → Directory) (s : State)
@[simp] theorem onDir_status : (s.onDir f).status = s.status := rfl
@[simp] theorem onDir_bus : (s.onDir f).bus = s.bus := rfl
@[simp] theorem onDir_clock : (s.onDir f).clock = s.clock := rfl
@[simp] theorem onDir_dir : (s.onDir f).dir = f s.dir := rfl
@[simp] theorem onDir_cue : (s.onDir f).cue = s.cue := rfl
@[simp] theorem onDir_streams : (s.onDir f).streams = s.streams := rfl
@[simp] theorem onDir_cache : (s.onDir f).cache = s.cache := rfl
@[simp] theorem onDir_fetch : (s.onDir f).fetch = s.fetch := rfl
@[simp] theorem onDir_delivery : (s.onDir f).delivery = s.delivery := rfl
@[simp] theorem onDir_pending : (s.onDir f).pending = s.pending := rfl
end

section
variable (f : CueUnit → CueUnit) (s : State)
@[simp] theorem onCue_status : (s.onCue f).status = s.status := rfl
@[simp] theorem onCue_bus : (s.onCue f).bus = s.bus := rfl
@[simp] theorem onCue_clock : (s.onCue f).clock = s.clock := rfl
@[simp] theorem onCue_dir : (s.onCue f).dir = s.dir := rfl
@[simp] theorem onCue_cue : (s.onCue f).cue = f s.cue := rfl
@[simp] theorem onCue_streams : (s.onCue f).streams = s.streams := rfl
@[simp] theorem onCue_cache : (s.onCue f).cache = s.cache := rfl
@[simp] theorem onCue_fetch : (s.onCue f).fetch = s.fetch := rfl
@[simp] theorem onCue_delivery : (s.onCue f).delivery = s.delivery := rfl
@[simp] theorem onCue_pending : (s.onCue f).pending = s.pending := rfl
end

section
variable (f : StreamEngine → StreamEngine) (s : State)
@[simp] theorem onStreams_status : (s.onStreams f).status = s.status := rfl
@[simp] theorem onStreams_bus : (s.onStreams f).bus = s.bus := rfl
@[simp] theorem onStreams_clock : (s.onStreams f).clock = s.clock := rfl
@[simp] theorem onStreams_dir : (s.onStreams f).dir = s.dir := rfl
@[simp] theorem onStreams_cue : (s.onStreams f).cue = s.cue := rfl
@[simp] theorem onStreams_streams : (s.onStreams f).streams = f s.streams := rfl
@[simp] theorem onStreams_cache : (s.onStreams f).cache = s.cache := rfl
@[simp] theorem onStreams_fetch : (s.onStreams f).fetch = s.fetch := rfl
@[simp] theorem onStreams_delivery : (s.onStreams f).delivery = s.delivery := rfl
@[simp] theorem onStreams_pending : (s.onStreams f).pending = s.pending := rfl
end

section
variable (f : Cache → Cache) (s : State)
@[simp] theorem onCache_status : (s.onCache f).status = s.status := rfl
@[simp] theorem onCache_bus : (s.onCache f).bus = s.bus := rfl
@[simp] theorem onCache_clock : (s.onCache f).clock = s.clock := rfl
@[simp] theorem onCache_dir : (s.onCache f).dir = s.dir := rfl
@[simp] theorem onCache_cue : (s.onCache f).cue = s.cue := rfl
@[simp] theorem onCache_streams : (s.onCache f).streams = s.streams := rfl
@[simp] theorem onCache_cache : (s.onCache f).cache = f s.cache := rfl
@[simp] theorem onCache_fetch : (s.onCache f).fetch = s.fetch := rfl
@[simp] theorem onCache_delivery : (s.onCache f).delivery = s.delivery := rfl
@[simp] theorem onCache_pending : (s.onCache f).pending = s.pending := rfl
end

section
variable (f : FetchEngine → FetchEngine) (s : State)
@[simp] theorem onFetch_status : (s.onFetch f).status = s.status := rfl
@[simp] theorem onFetch_bus : (s.onFetch f).bus = s.bus := rfl
@[simp] theorem onFetch_clock : (s.onFetch f).clock = s.clock := rfl
@[simp] theorem onFetch_dir : (s.onFetch f).dir = s.dir := rfl
@[simp] theorem onFetch_cue : (s.onFetch f).cue = s.cue := rfl
@[simp] theorem onFetch_streams : (s.onFetch f).streams = s.streams := rfl
@[simp] theorem onFetch_cache : (s.onFetch f).cache = s.cache := rfl
@[simp] theorem onFetch_fetch : (s.onFetch f).fetch = f s.fetch := rfl
@[simp] theorem onFetch_delivery : (s.onFetch f).delivery = s.delivery := rfl
@[simp] theorem onFetch_pending : (s.onFetch f).pending = s.pending := rfl
end

section
variable (f : Delivery → Delivery) (s : State)
@[simp] theorem onDelivery_status : (s.onDelivery f).status = s.status := rfl
@[simp] theorem onDelivery_bus : (s.onDelivery f).bus = s.bus := rfl
@[simp] theorem onDelivery_clock : (s.onDelivery f).clock = s.clock := rfl
@[simp] theorem onDelivery_dir : (s.onDelivery f).dir = s.dir := rfl
@[simp] theorem onDelivery_cue : (s.onDelivery f).cue = s.cue := rfl
@[simp] theorem onDelivery_streams : (s.onDelivery f).streams = s.streams := rfl
@[simp] theorem onDelivery_cache : (s.onDelivery f).cache = s.cache := rfl
@[simp] theorem onDelivery_fetch : (s.onDelivery f).fetch = s.fetch := rfl
@[simp] theorem onDelivery_delivery : (s.onDelivery f).delivery = f s.delivery := rfl
@[simp] theorem onDelivery_pending : (s.onDelivery f).pending = s.pending := rfl
end

section
variable (q : List Instr) (s : State)
@[simp] theorem withPending_status : (s.withPending q).status = s.status := rfl
@[simp] theorem withPending_bus : (s.withPending q).bus = s.bus := rfl
@[simp] theorem withPending_clock : (s.withPending q).clock = s.clock := rfl
@[simp] theorem withPending_dir : (s.withPending q).dir = s.dir := rfl
@[simp] theorem withPending_cue : (s.withPending q).cue = s.cue := rfl
@[simp] theorem withPending_streams : (s.withPending q).streams = s.streams := rfl
@[simp] theorem withPending_cache : (s.withPending q).cache = s.cache := rfl
@[simp] theorem withPending_fetch : (s.withPending q).fetch = s.fetch := rfl
@[simp] theorem withPending_delivery : (s.withPending q).delivery = s.delivery := rfl
@[simp] theorem withPending_pending : (s.withPending q).pending = q := rfl
end

/-! ### The count updates -/

section
variable (f : BusCounts → BusCounts) (s : State)
@[simp] theorem countBus_status : (s.countBus f).status = s.status := rfl
@[simp] theorem countBus_bus : (s.countBus f).bus = { s.bus with counts := f s.bus.counts } := rfl
@[simp] theorem countBus_clock : (s.countBus f).clock = s.clock := rfl
@[simp] theorem countBus_dir : (s.countBus f).dir = s.dir := rfl
@[simp] theorem countBus_cue : (s.countBus f).cue = s.cue := rfl
@[simp] theorem countBus_streams : (s.countBus f).streams = s.streams := rfl
@[simp] theorem countBus_cache : (s.countBus f).cache = s.cache := rfl
@[simp] theorem countBus_fetch : (s.countBus f).fetch = s.fetch := rfl
@[simp] theorem countBus_delivery : (s.countBus f).delivery = s.delivery := rfl
@[simp] theorem countBus_pending : (s.countBus f).pending = s.pending := rfl
end

section
variable (f : ClockCounts → ClockCounts) (s : State)
@[simp] theorem countClock_status : (s.countClock f).status = s.status := rfl
@[simp] theorem countClock_bus : (s.countClock f).bus = s.bus := rfl
@[simp] theorem countClock_clock : (s.countClock f).clock = { s.clock with counts := f s.clock.counts } := rfl
@[simp] theorem countClock_dir : (s.countClock f).dir = s.dir := rfl
@[simp] theorem countClock_cue : (s.countClock f).cue = s.cue := rfl
@[simp] theorem countClock_streams : (s.countClock f).streams = s.streams := rfl
@[simp] theorem countClock_cache : (s.countClock f).cache = s.cache := rfl
@[simp] theorem countClock_fetch : (s.countClock f).fetch = s.fetch := rfl
@[simp] theorem countClock_delivery : (s.countClock f).delivery = s.delivery := rfl
@[simp] theorem countClock_pending : (s.countClock f).pending = s.pending := rfl
end

section
variable (f : DirectoryCounts → DirectoryCounts) (s : State)
@[simp] theorem countDir_status : (s.countDir f).status = s.status := rfl
@[simp] theorem countDir_bus : (s.countDir f).bus = s.bus := rfl
@[simp] theorem countDir_clock : (s.countDir f).clock = s.clock := rfl
@[simp] theorem countDir_dir : (s.countDir f).dir = { s.dir with counts := f s.dir.counts } := rfl
@[simp] theorem countDir_cue : (s.countDir f).cue = s.cue := rfl
@[simp] theorem countDir_streams : (s.countDir f).streams = s.streams := rfl
@[simp] theorem countDir_cache : (s.countDir f).cache = s.cache := rfl
@[simp] theorem countDir_fetch : (s.countDir f).fetch = s.fetch := rfl
@[simp] theorem countDir_delivery : (s.countDir f).delivery = s.delivery := rfl
@[simp] theorem countDir_pending : (s.countDir f).pending = s.pending := rfl
end

section
variable (f : CueCounts → CueCounts) (s : State)
@[simp] theorem countCue_status : (s.countCue f).status = s.status := rfl
@[simp] theorem countCue_bus : (s.countCue f).bus = s.bus := rfl
@[simp] theorem countCue_clock : (s.countCue f).clock = s.clock := rfl
@[simp] theorem countCue_dir : (s.countCue f).dir = s.dir := rfl
@[simp] theorem countCue_cue : (s.countCue f).cue = { s.cue with counts := f s.cue.counts } := rfl
@[simp] theorem countCue_streams : (s.countCue f).streams = s.streams := rfl
@[simp] theorem countCue_cache : (s.countCue f).cache = s.cache := rfl
@[simp] theorem countCue_fetch : (s.countCue f).fetch = s.fetch := rfl
@[simp] theorem countCue_delivery : (s.countCue f).delivery = s.delivery := rfl
@[simp] theorem countCue_pending : (s.countCue f).pending = s.pending := rfl
end

section
variable (f : ClampCounts → ClampCounts) (s : State)
@[simp] theorem countClamp_status : (s.countClamp f).status = s.status := rfl
@[simp] theorem countClamp_bus : (s.countClamp f).bus = s.bus := rfl
@[simp] theorem countClamp_clock : (s.countClamp f).clock = s.clock := rfl
@[simp] theorem countClamp_dir : (s.countClamp f).dir = s.dir := rfl
@[simp] theorem countClamp_cue : (s.countClamp f).cue = { s.cue with clamps := f s.cue.clamps } := rfl
@[simp] theorem countClamp_streams : (s.countClamp f).streams = s.streams := rfl
@[simp] theorem countClamp_cache : (s.countClamp f).cache = s.cache := rfl
@[simp] theorem countClamp_fetch : (s.countClamp f).fetch = s.fetch := rfl
@[simp] theorem countClamp_delivery : (s.countClamp f).delivery = s.delivery := rfl
@[simp] theorem countClamp_pending : (s.countClamp f).pending = s.pending := rfl
end

section
variable (f : StreamCounts → StreamCounts) (s : State)
@[simp] theorem countStreams_status : (s.countStreams f).status = s.status := rfl
@[simp] theorem countStreams_bus : (s.countStreams f).bus = s.bus := rfl
@[simp] theorem countStreams_clock : (s.countStreams f).clock = s.clock := rfl
@[simp] theorem countStreams_dir : (s.countStreams f).dir = s.dir := rfl
@[simp] theorem countStreams_cue : (s.countStreams f).cue = s.cue := rfl
@[simp] theorem countStreams_streams : (s.countStreams f).streams =
    { s.streams with counts := f s.streams.counts } := rfl
@[simp] theorem countStreams_cache : (s.countStreams f).cache = s.cache := rfl
@[simp] theorem countStreams_fetch : (s.countStreams f).fetch = s.fetch := rfl
@[simp] theorem countStreams_delivery : (s.countStreams f).delivery = s.delivery := rfl
@[simp] theorem countStreams_pending : (s.countStreams f).pending = s.pending := rfl
end

section
variable (f : CacheCounts → CacheCounts) (s : State)
@[simp] theorem countCache_status : (s.countCache f).status = s.status := rfl
@[simp] theorem countCache_bus : (s.countCache f).bus = s.bus := rfl
@[simp] theorem countCache_clock : (s.countCache f).clock = s.clock := rfl
@[simp] theorem countCache_dir : (s.countCache f).dir = s.dir := rfl
@[simp] theorem countCache_cue : (s.countCache f).cue = s.cue := rfl
@[simp] theorem countCache_streams : (s.countCache f).streams = s.streams := rfl
@[simp] theorem countCache_cache : (s.countCache f).cache = { s.cache with counts := f s.cache.counts } := rfl
@[simp] theorem countCache_fetch : (s.countCache f).fetch = s.fetch := rfl
@[simp] theorem countCache_delivery : (s.countCache f).delivery = s.delivery := rfl
@[simp] theorem countCache_pending : (s.countCache f).pending = s.pending := rfl
end

section
variable (f : DeliveryCounts → DeliveryCounts) (s : State)
@[simp] theorem countDelivery_status : (s.countDelivery f).status = s.status := rfl
@[simp] theorem countDelivery_bus : (s.countDelivery f).bus = s.bus := rfl
@[simp] theorem countDelivery_clock : (s.countDelivery f).clock = s.clock := rfl
@[simp] theorem countDelivery_dir : (s.countDelivery f).dir = s.dir := rfl
@[simp] theorem countDelivery_cue : (s.countDelivery f).cue = s.cue := rfl
@[simp] theorem countDelivery_streams : (s.countDelivery f).streams = s.streams := rfl
@[simp] theorem countDelivery_cache : (s.countDelivery f).cache = s.cache := rfl
@[simp] theorem countDelivery_fetch : (s.countDelivery f).fetch = s.fetch := rfl
@[simp] theorem countDelivery_delivery : (s.countDelivery f).delivery =
    { s.delivery with counts := f s.delivery.counts } := rfl
@[simp] theorem countDelivery_pending : (s.countDelivery f).pending = s.pending := rfl
end

/-! ### The other named operations -/

section
variable (dt : Micros) (s : State)
@[simp] theorem elapse_status : (s.elapse dt).status = s.status := rfl
@[simp] theorem elapse_bus : (s.elapse dt).bus = s.bus := rfl
@[simp] theorem elapse_clock : (s.elapse dt).clock = { s.clock with localTime := s.clock.localTime + dt } := rfl
@[simp] theorem elapse_dir : (s.elapse dt).dir = s.dir := rfl
@[simp] theorem elapse_cue : (s.elapse dt).cue = s.cue := rfl
@[simp] theorem elapse_streams : (s.elapse dt).streams = s.streams := rfl
@[simp] theorem elapse_cache : (s.elapse dt).cache = s.cache := rfl
@[simp] theorem elapse_fetch : (s.elapse dt).fetch = s.fetch := rfl
@[simp] theorem elapse_delivery : (s.elapse dt).delivery = s.delivery := rfl
@[simp] theorem elapse_pending : (s.elapse dt).pending = s.pending := rfl
end

section
variable (i : Nat) (f : Context → Context) (s : State)
@[simp] theorem updCtx_status : (s.updCtx i f).status = s.status := rfl
@[simp] theorem updCtx_bus : (s.updCtx i f).bus = s.bus := rfl
@[simp] theorem updCtx_clock : (s.updCtx i f).clock = s.clock := rfl
@[simp] theorem updCtx_dir : (s.updCtx i f).dir = s.dir := rfl
@[simp] theorem updCtx_cue : (s.updCtx i f).cue = s.cue := rfl
@[simp] theorem updCtx_streams : (s.updCtx i f).streams =
    { s.streams with contexts := Sparse.modify s.streams.contexts i f } := rfl
@[simp] theorem updCtx_cache : (s.updCtx i f).cache = s.cache := rfl
@[simp] theorem updCtx_fetch : (s.updCtx i f).fetch = s.fetch := rfl
@[simp] theorem updCtx_delivery : (s.updCtx i f).delivery = s.delivery := rfl
@[simp] theorem updCtx_pending : (s.updCtx i f).pending = s.pending := rfl
end

section
variable (i : Nat) (c : Context) (s : State)
@[simp] theorem putCtx_status : (s.putCtx i c).status = s.status := rfl
@[simp] theorem putCtx_bus : (s.putCtx i c).bus = s.bus := rfl
@[simp] theorem putCtx_clock : (s.putCtx i c).clock = s.clock := rfl
@[simp] theorem putCtx_dir : (s.putCtx i c).dir = s.dir := rfl
@[simp] theorem putCtx_cue : (s.putCtx i c).cue = s.cue := rfl
@[simp] theorem putCtx_streams : (s.putCtx i c).streams =
    { s.streams with contexts := Sparse.put s.streams.contexts i c } := rfl
@[simp] theorem putCtx_cache : (s.putCtx i c).cache = s.cache := rfl
@[simp] theorem putCtx_fetch : (s.putCtx i c).fetch = s.fetch := rfl
@[simp] theorem putCtx_delivery : (s.putCtx i c).delivery = s.delivery := rfl
@[simp] theorem putCtx_pending : (s.putCtx i c).pending = s.pending := rfl
end

section
variable (n : SlotNo) (f : Slot → Slot) (s : State)
@[simp] theorem updSlot_status : (s.updSlot n f).status = s.status := rfl
@[simp] theorem updSlot_bus : (s.updSlot n f).bus = s.bus := rfl
@[simp] theorem updSlot_clock : (s.updSlot n f).clock = s.clock := rfl
@[simp] theorem updSlot_dir : (s.updSlot n f).dir = s.dir := rfl
@[simp] theorem updSlot_cue : (s.updSlot n f).cue = s.cue := rfl
@[simp] theorem updSlot_streams : (s.updSlot n f).streams = s.streams := rfl
@[simp] theorem updSlot_cache : (s.updSlot n f).cache =
    { s.cache with slots := Sparse.modify s.cache.slots n.val f } := rfl
@[simp] theorem updSlot_fetch : (s.updSlot n f).fetch = s.fetch := rfl
@[simp] theorem updSlot_delivery : (s.updSlot n f).delivery = s.delivery := rfl
@[simp] theorem updSlot_pending : (s.updSlot n f).pending = s.pending := rfl
end

section
variable (n : SlotNo) (s : State)
@[simp] theorem emptySlot_status : (s.emptySlot n).status = s.status := rfl
@[simp] theorem emptySlot_bus : (s.emptySlot n).bus = s.bus := rfl
@[simp] theorem emptySlot_clock : (s.emptySlot n).clock = s.clock := rfl
@[simp] theorem emptySlot_dir : (s.emptySlot n).dir = s.dir := rfl
@[simp] theorem emptySlot_cue : (s.emptySlot n).cue = s.cue := rfl
@[simp] theorem emptySlot_streams : (s.emptySlot n).streams = s.streams := rfl
@[simp] theorem emptySlot_cache : (s.emptySlot n).cache =
    { s.cache with slots := Sparse.erase s.cache.slots n.val, freeTail := s.cache.freeTail ++ [n] } := rfl
@[simp] theorem emptySlot_fetch : (s.emptySlot n).fetch = s.fetch := rfl
@[simp] theorem emptySlot_delivery : (s.emptySlot n).delivery = s.delivery := rfl
@[simp] theorem emptySlot_pending : (s.emptySlot n).pending = s.pending := rfl
end

section
variable (n : SlotNo) (s : State)
@[simp] theorem toReclaim_status : (s.toReclaim n).status = s.status := rfl
@[simp] theorem toReclaim_bus : (s.toReclaim n).bus = s.bus := rfl
@[simp] theorem toReclaim_clock : (s.toReclaim n).clock = s.clock := rfl
@[simp] theorem toReclaim_dir : (s.toReclaim n).dir = s.dir := rfl
@[simp] theorem toReclaim_cue : (s.toReclaim n).cue = s.cue := rfl
@[simp] theorem toReclaim_streams : (s.toReclaim n).streams = s.streams := rfl
@[simp] theorem toReclaim_cache : (s.toReclaim n).cache = { s.cache with reclaim := s.cache.reclaim ++ [n] } := rfl
@[simp] theorem toReclaim_fetch : (s.toReclaim n).fetch = s.fetch := rfl
@[simp] theorem toReclaim_delivery : (s.toReclaim n).delivery = s.delivery := rfl
@[simp] theorem toReclaim_pending : (s.toReclaim n).pending = s.pending := rfl
end

section
variable (c : ChannelNo) (f : Channel → Channel) (s : State)
@[simp] theorem updChan_status : (s.updChan c f).status = s.status := rfl
@[simp] theorem updChan_bus : (s.updChan c f).bus = s.bus := rfl
@[simp] theorem updChan_clock : (s.updChan c f).clock = s.clock := rfl
@[simp] theorem updChan_dir : (s.updChan c f).dir = s.dir := rfl
@[simp] theorem updChan_cue : (s.updChan c f).cue = s.cue := rfl
@[simp] theorem updChan_streams : (s.updChan c f).streams = s.streams := rfl
@[simp] theorem updChan_cache : (s.updChan c f).cache = s.cache := rfl
@[simp] theorem updChan_fetch : (s.updChan c f).fetch =
    { s.fetch with channels := s.fetch.channels.set c (f s.fetch.channels[c]) } := rfl
@[simp] theorem updChan_delivery : (s.updChan c f).delivery = s.delivery := rfl
@[simp] theorem updChan_pending : (s.updChan c f).pending = s.pending := rfl
end

section
variable (c : ChannelNo) (f : ChannelCounts → ChannelCounts) (s : State)
@[simp] theorem countChan_status : (s.countChan c f).status = s.status := rfl
@[simp] theorem countChan_bus : (s.countChan c f).bus = s.bus := rfl
@[simp] theorem countChan_clock : (s.countChan c f).clock = s.clock := rfl
@[simp] theorem countChan_dir : (s.countChan c f).dir = s.dir := rfl
@[simp] theorem countChan_cue : (s.countChan c f).cue = s.cue := rfl
@[simp] theorem countChan_streams : (s.countChan c f).streams = s.streams := rfl
@[simp] theorem countChan_cache : (s.countChan c f).cache = s.cache := rfl
@[simp] theorem countChan_delivery : (s.countChan c f).delivery = s.delivery := rfl
@[simp] theorem countChan_pending : (s.countChan c f).pending = s.pending := rfl
end

section
variable (c : ChannelNo) (k : OperationKind) (s : State)
@[simp] theorem issue_status : (s.issue c k).status = s.status := rfl
@[simp] theorem issue_bus : (s.issue c k).bus = s.bus := rfl
@[simp] theorem issue_clock : (s.issue c k).clock = s.clock := rfl
@[simp] theorem issue_dir : (s.issue c k).dir = s.dir := rfl
@[simp] theorem issue_cue : (s.issue c k).cue = s.cue := rfl
@[simp] theorem issue_streams : (s.issue c k).streams = s.streams := rfl
@[simp] theorem issue_cache : (s.issue c k).cache = s.cache := rfl
@[simp] theorem issue_delivery : (s.issue c k).delivery = s.delivery := rfl
@[simp] theorem issue_pending : (s.issue c k).pending = s.pending := rfl
end

section
variable (c : ChannelNo) (s : State)
@[simp] theorem endOp_status : (s.endOp c).status = s.status := rfl
@[simp] theorem endOp_bus : (s.endOp c).bus = s.bus := rfl
@[simp] theorem endOp_clock : (s.endOp c).clock = s.clock := rfl
@[simp] theorem endOp_dir : (s.endOp c).dir = s.dir := rfl
@[simp] theorem endOp_cue : (s.endOp c).cue = s.cue := rfl
@[simp] theorem endOp_streams : (s.endOp c).streams = s.streams := rfl
@[simp] theorem endOp_cache : (s.endOp c).cache = s.cache := rfl
@[simp] theorem endOp_delivery : (s.endOp c).delivery = s.delivery := rfl
@[simp] theorem endOp_pending : (s.endOp c).pending = s.pending := rfl
end

section
variable (n : SlotNo) (j : Nat) (d : Option (List Byte)) (s : State)
@[simp] theorem writePage_status : (s.writePage n j d).status = s.status := rfl
@[simp] theorem writePage_bus : (s.writePage n j d).bus = s.bus := rfl
@[simp] theorem writePage_clock : (s.writePage n j d).clock = s.clock := rfl
@[simp] theorem writePage_dir : (s.writePage n j d).dir = s.dir := rfl
@[simp] theorem writePage_cue : (s.writePage n j d).cue = s.cue := rfl
@[simp] theorem writePage_streams : (s.writePage n j d).streams = s.streams := rfl
@[simp] theorem writePage_fetch : (s.writePage n j d).fetch = s.fetch := rfl
@[simp] theorem writePage_delivery : (s.writePage n j d).delivery = s.delivery := rfl
@[simp] theorem writePage_pending : (s.writePage n j d).pending = s.pending := rfl
end

section
variable (b : Station) (l : BitVec 6) (s : State)
@[simp] theorem closeLane_status : (s.closeLane b l).status = s.status := rfl
@[simp] theorem closeLane_bus : (s.closeLane b l).bus = s.bus := rfl
@[simp] theorem closeLane_clock : (s.closeLane b l).clock = s.clock := rfl
@[simp] theorem closeLane_dir : (s.closeLane b l).dir = s.dir := rfl
@[simp] theorem closeLane_cue : (s.closeLane b l).cue = s.cue := rfl
@[simp] theorem closeLane_streams : (s.closeLane b l).streams = s.streams := rfl
@[simp] theorem closeLane_cache : (s.closeLane b l).cache = s.cache := rfl
@[simp] theorem closeLane_fetch : (s.closeLane b l).fetch = s.fetch := rfl
@[simp] theorem closeLane_pending : (s.closeLane b l).pending = s.pending := rfl
end

section
variable  (s : State)
@[simp] theorem closeViews_status : (s.closeViews).status = s.status := rfl
@[simp] theorem closeViews_bus : (s.closeViews).bus = s.bus := rfl
@[simp] theorem closeViews_clock : (s.closeViews).clock = s.clock := rfl
@[simp] theorem closeViews_dir : (s.closeViews).dir = s.dir := rfl
@[simp] theorem closeViews_cue : (s.closeViews).cue = s.cue := rfl
@[simp] theorem closeViews_streams : (s.closeViews).streams = s.streams := rfl
@[simp] theorem closeViews_cache : (s.closeViews).cache = s.cache := rfl
@[simp] theorem closeViews_fetch : (s.closeViews).fetch = s.fetch := rfl
@[simp] theorem closeViews_pending : (s.closeViews).pending = s.pending := rfl
end

section
variable (b : BusState) (s : State)
@[simp] theorem enterBus_status : (s.enterBus b).status = s.status := rfl
@[simp] theorem enterBus_bus : (s.enterBus b).bus = { s.bus with state := b, startBit := false } := rfl
@[simp] theorem enterBus_clock : (s.enterBus b).clock = s.clock := rfl
@[simp] theorem enterBus_dir : (s.enterBus b).dir = s.dir := rfl
@[simp] theorem enterBus_cue : (s.enterBus b).cue = s.cue := rfl
@[simp] theorem enterBus_streams : (s.enterBus b).streams = s.streams := rfl
@[simp] theorem enterBus_cache : (s.enterBus b).cache = s.cache := rfl
@[simp] theorem enterBus_fetch : (s.enterBus b).fetch = s.fetch := rfl
@[simp] theorem enterBus_delivery : (s.enterBus b).delivery = s.delivery := rfl
@[simp] theorem enterBus_pending : (s.enterBus b).pending = s.pending := rfl
end

section
variable  (s : State)
@[simp] theorem boundary_status : (s.boundary).status = s.status := rfl
@[simp] theorem boundary_clock : (s.boundary).clock = s.clock := rfl
@[simp] theorem boundary_dir : (s.boundary).dir = s.dir := rfl
@[simp] theorem boundary_cue : (s.boundary).cue = s.cue := rfl
@[simp] theorem boundary_streams : (s.boundary).streams = s.streams := rfl
@[simp] theorem boundary_cache : (s.boundary).cache = s.cache := rfl
@[simp] theorem boundary_fetch : (s.boundary).fetch = s.fetch := rfl
@[simp] theorem boundary_delivery : (s.boundary).delivery = s.delivery := rfl
@[simp] theorem boundary_pending : (s.boundary).pending = s.pending := rfl
end

section
variable (frame : List Byte) (s : State)
@[simp] theorem received_status : (s.received frame).status = s.status := rfl
@[simp] theorem received_bus : (s.received frame).bus = { s.bus with receiveBuffer := some frame } := rfl
@[simp] theorem received_clock : (s.received frame).clock = s.clock := rfl
@[simp] theorem received_dir : (s.received frame).dir = s.dir := rfl
@[simp] theorem received_cue : (s.received frame).cue = s.cue := rfl
@[simp] theorem received_streams : (s.received frame).streams = s.streams := rfl
@[simp] theorem received_cache : (s.received frame).cache = s.cache := rfl
@[simp] theorem received_fetch : (s.received frame).fetch = s.fetch := rfl
@[simp] theorem received_delivery : (s.received frame).delivery = s.delivery := rfl
@[simp] theorem received_pending : (s.received frame).pending = s.pending := rfl
end

section
variable  (s : State)
@[simp] theorem discardFrame_status : (s.discardFrame).status = s.status := rfl
@[simp] theorem discardFrame_bus : (s.discardFrame).bus = { s.bus with receiveBuffer := none } := rfl
@[simp] theorem discardFrame_clock : (s.discardFrame).clock = s.clock := rfl
@[simp] theorem discardFrame_dir : (s.discardFrame).dir = s.dir := rfl
@[simp] theorem discardFrame_cue : (s.discardFrame).cue = s.cue := rfl
@[simp] theorem discardFrame_streams : (s.discardFrame).streams = s.streams := rfl
@[simp] theorem discardFrame_cache : (s.discardFrame).cache = s.cache := rfl
@[simp] theorem discardFrame_fetch : (s.discardFrame).fetch = s.fetch := rfl
@[simp] theorem discardFrame_delivery : (s.discardFrame).delivery = s.delivery := rfl
@[simp] theorem discardFrame_pending : (s.discardFrame).pending = s.pending := rfl
end

section
variable  (s : State)
@[simp] theorem runWatch_status : (s.runWatch).status = s.status := rfl
@[simp] theorem runWatch_clock : (s.runWatch).clock = s.clock := rfl
@[simp] theorem runWatch_dir : (s.runWatch).dir = s.dir := rfl
@[simp] theorem runWatch_cue : (s.runWatch).cue = s.cue := rfl
@[simp] theorem runWatch_streams : (s.runWatch).streams = s.streams := rfl
@[simp] theorem runWatch_cache : (s.runWatch).cache = s.cache := rfl
@[simp] theorem runWatch_fetch : (s.runWatch).fetch = s.fetch := rfl
@[simp] theorem runWatch_delivery : (s.runWatch).delivery = s.delivery := rfl
@[simp] theorem runWatch_pending : (s.runWatch).pending = s.pending := rfl
end

section
variable  (s : State)
@[simp] theorem updateFault_bus : (s.updateFault).bus = s.bus := rfl
@[simp] theorem updateFault_clock : (s.updateFault).clock = s.clock := rfl
@[simp] theorem updateFault_dir : (s.updateFault).dir = s.dir := rfl
@[simp] theorem updateFault_cue : (s.updateFault).cue = s.cue := rfl
@[simp] theorem updateFault_streams : (s.updateFault).streams = s.streams := rfl
@[simp] theorem updateFault_cache : (s.updateFault).cache = s.cache := rfl
@[simp] theorem updateFault_fetch : (s.updateFault).fetch = s.fetch := rfl
@[simp] theorem updateFault_delivery : (s.updateFault).delivery = s.delivery := rfl
@[simp] theorem updateFault_pending : (s.updateFault).pending = s.pending := rfl
end

end Sys2Proof.Machine
end

