-- ==== Sys2Proof/Laws/Tables.lean ====
section
/-! SUPPORT. What the sparse tables and the stacked DRAM do: reads after writes, and that every update keeps the
canonical form. -/

namespace Sys2Proof.Machine

namespace Sparse

variable {α : Type}

theorem get_eq_none {m : List (Nat × α)} {n : Nat} (h : ∀ p ∈ m, p.1 ≠ n) : get m n = none := by
  induction m with
  | nil => rfl
  | cons p rest ih =>
    have hp : p.1 ≠ n := h p (by simp)
    simp only [get, hp, if_false]
    exact ih fun q hq => h q (by simp [hq])

/-- In a canonical table the record listed under n is the one read there. -/
theorem get_eq_some_iff {m : List (Nat × α)} (hm : wf m) {n : Nat} {a : α} : get m n = some a ↔ (n, a) ∈ m := by
  induction m with
  | nil => simp [get]
  | cons p rest ih =>
    obtain ⟨k, b⟩ := p
    obtain ⟨hk, hrest⟩ := List.pairwise_cons.mp hm
    by_cases h : k = n
    · subst h
      simp only [get, if_true, List.mem_cons, Prod.mk.injEq]
      constructor
      · rintro ⟨rfl⟩; exact .inl ⟨trivial, rfl⟩
      · rintro (⟨-, rfl⟩ | hmem)
        · rfl
        · exact absurd (hk _ hmem) (lt_irrefl _)
    · simp only [get, h, if_false, List.mem_cons, Prod.mk.injEq]
      rw [ih hrest]
      constructor
      · exact .inr
      · rintro (⟨rfl, -⟩ | hmem)
        · exact absurd rfl h
        · exact hmem

theorem mem_of_get {m : List (Nat × α)} {n : Nat} {a : α} (h : get m n = some a) : (n, a) ∈ m := by
  induction m with
  | nil => simp [get] at h
  | cons p rest ih =>
    obtain ⟨k, b⟩ := p
    by_cases hk : k = n
    · subst hk; simp only [get, if_true, Option.some.injEq] at h; simp [h]
    · simp only [get, hk, if_false] at h; exact List.mem_cons_of_mem _ (ih h)

theorem mem_put {m : List (Nat × α)} {n : Nat} {a : α} {p : Nat × α} (h : p ∈ put m n a) : p = (n, a) ∨ p ∈ m := by
  induction m with
  | nil => simpa [put] using h
  | cons q rest ih =>
    obtain ⟨k, b⟩ := q
    simp only [put] at h
    split at h
    · simpa using h
    · split at h
      · simp only [List.mem_cons] at h ⊢; tauto
      · simp only [List.mem_cons] at h ⊢
        rcases h with h | h
        · exact .inr (.inl h)
        · rcases ih h with h | h
          · exact .inl h
          · exact .inr (.inr h)

/-- A write keeps the canonical form. -/
theorem put_wf {m : List (Nat × α)} (hm : wf m) (n : Nat) (a : α) : wf (put m n a) := by
  induction m with
  | nil => simp [put]
  | cons q rest ih =>
    obtain ⟨k, b⟩ := q
    obtain ⟨hk, hrest⟩ := List.pairwise_cons.mp hm
    simp only [put]
    split
    · rename_i hlt
      refine List.pairwise_cons.mpr ⟨fun p hp => ?_, hm⟩
      rcases List.mem_cons.mp hp with rfl | hp
      · exact hlt
      · exact lt_trans hlt (hk p hp)
    · split
      · rename_i heq
        subst heq
        exact List.pairwise_cons.mpr ⟨hk, hrest⟩
      · rename_i hnlt hne
        refine List.pairwise_cons.mpr ⟨fun p hp => ?_, ih hrest⟩
        rcases mem_put hp with rfl | hp
        · dsimp only; omega
        · exact hk p hp

/-- A removal keeps the canonical form. -/
theorem erase_wf {m : List (Nat × α)} (hm : wf m) (n : Nat) : wf (erase m n) := List.Pairwise.filter _ hm

theorem modify_keys (m : List (Nat × α)) (n : Nat) (f : α → α) : (modify m n f).map Prod.fst = m.map Prod.fst := by
  simp only [modify, List.map_map]
  refine List.map_congr_left fun p _ => ?_
  simp only [Function.comp]
  split <;> rfl

/-- The canonical form is a matter of the numbers alone. -/
theorem wf_iff_keys {m : List (Nat × α)} : wf m ↔ (m.map Prod.fst).Pairwise (· < ·) := by
  rw [List.pairwise_map]

/-- A change of one record keeps the canonical form. -/
theorem modify_wf {m : List (Nat × α)} (hm : wf m) (n : Nat) (f : α → α) : wf (modify m n f) := by
  rw [wf_iff_keys, modify_keys]; exact wf_iff_keys.mp hm

/-- A record read after a write: the one written there, the one standing elsewhere. -/
theorem get_put (m : List (Nat × α)) (n k : Nat) (a : α) : get (put m n a) k = if n = k then some a else get m k := by
  induction m with
  | nil => simp [put, get]
  | cons q rest ih =>
    obtain ⟨j, b⟩ := q
    simp only [put]
    split
    · by_cases h : n = k <;> simp [get, h]
    · split
      · rename_i heq
        subst heq
        by_cases h : n = k <;> simp [get, h]
      · rename_i hne
        by_cases hj : j = k
        · have hnk : ¬ n = k := fun h => hne (by rw [h, hj])
          simp [get, hj, hnk]
        · simp only [get, hj, if_false, ih]

/-- A record read after a removal. -/
theorem get_erase (m : List (Nat × α)) (n k : Nat) : get (erase m n) k = if n = k then none else get m k := by
  induction m with
  | nil => simp [erase, get]
  | cons q rest ih =>
    obtain ⟨j, b⟩ := q
    simp only [erase] at ih
    by_cases hj : j = n
    · subst hj
      by_cases hk : j = k
      · subst hk; simpa [erase] using ih
      · simpa [erase, get, hk] using ih
    · by_cases hk : j = k
      · subst hk
        simp [erase, hj, get, Ne.symm hj]
      · simpa [erase, hj, get, hk] using ih

/-- A record read after a change of one record. -/
theorem get_modify (m : List (Nat × α)) (n k : Nat) (f : α → α) :
    get (modify m n f) k = if n = k then (get m k).map f else get m k := by
  induction m with
  | nil => simp [modify, get]
  | cons q rest ih =>
    obtain ⟨j, b⟩ := q
    simp only [modify] at ih
    by_cases hj : j = n
    · subst hj
      by_cases hk : j = k
      · subst hk; simp [modify, get]
      · simp only [modify, List.map_cons, if_true, get, hk, if_false]; simpa [hk] using ih
    · by_cases hk : j = k
      · subst hk
        simp [modify, get, hj, Ne.symm hj]
      · simp only [modify, List.map_cons, hj, if_false, get, hk]; exact ih

/-- The lowest free number is below the bound and not listed, and every number below it is listed. -/
theorem lowestFree_spec {m : List (Nat × α)} {bound n : Nat} (h : lowestFree m bound = some n) :
    n < bound ∧ get m n = none ∧ ∀ k < n, get m k ≠ none := by
  have hmem := List.mem_of_find?_eq_some h
  have hp := List.find?_some h
  refine ⟨?_, by simpa using hp, fun k hk hnone => ?_⟩
  · have := List.mem_range.mp hmem; omega
  · have hlt := List.mem_range.mp hmem
    have := List.find?_range_eq_some.mp h
    exact absurd (this.2.2 k hk) (by simp [hnone])

end Sparse

namespace Dram

theorem mem_cells {a : Nat} {data : List Byte} {c : Host.Cell} (h : c ∈ cells a data) :
    a ≤ c.1 ∧ c.1 < a + data.length ∧ c.2 ≠ 0 := by
  induction data generalizing a with
  | nil => simp [cells] at h
  | cons b rest ih =>
    simp only [cells] at h
    split at h
    · have := ih h; simp only [List.length_cons]; exact ⟨by omega, by omega, this.2.2⟩
    · rename_i hb
      rcases List.mem_cons.mp h with rfl | h
      · exact ⟨le_refl _, by simp, hb⟩
      · have := ih h; simp only [List.length_cons]; exact ⟨by omega, by omega, this.2.2⟩

theorem cells_wf (a : Nat) (data : List Byte) : (cells a data).Pairwise fun p q => p.1 < q.1 := by
  induction data generalizing a with
  | nil => simp [cells]
  | cons b rest ih =>
    simp only [cells]
    split
    · exact ih _
    · refine List.pairwise_cons.mpr ⟨fun q hq => ?_, ih _⟩
      have := (mem_cells hq).1
      dsimp only; omega

/-- Every write keeps the canonical form. -/
theorem write_wf {mem : List Host.Cell} (h : wf mem) (a : Nat) (data : List Byte) : wf (write mem a data) := by
  obtain ⟨hs, hz⟩ := h
  simp only [write]
  refine ⟨?_, fun c hc => ?_⟩
  · rw [List.pairwise_append, List.pairwise_append]
    refine ⟨⟨List.Pairwise.filter _ hs, cells_wf _ _, fun p hp q hq => ?_⟩, List.Pairwise.filter _ hs,
      fun p hp q hq => ?_⟩
    · have h1 := (mem_cells hq).1
      have h2 := List.of_mem_filter hp
      simp only [decide_eq_true_eq] at h2
      omega
    · have h2 := List.of_mem_filter hq
      simp only [decide_eq_true_eq] at h2
      rcases List.mem_append.mp hp with hp | hp
      · have h1 := List.of_mem_filter hp
        simp only [decide_eq_true_eq] at h1
        omega
      · have h1 := (mem_cells hp).2.1
        omega
  · rcases List.mem_append.mp hc with hc | hc
    · rcases List.mem_append.mp hc with hc | hc
      · exact hz c (List.mem_of_mem_filter hc)
      · exact (mem_cells hc).2.2
    · exact hz c (List.mem_of_mem_filter hc)

theorem get_append_left {α : Type} {l r : List (Nat × α)} {n : Nat} (h : ∀ p ∈ r, p.1 ≠ n) :
    Sparse.get (l ++ r) n = Sparse.get l n := by
  induction l with
  | nil => simpa [Sparse.get] using Sparse.get_eq_none h
  | cons p rest ih => obtain ⟨k, a⟩ := p; simp only [List.cons_append, Sparse.get, ih]

theorem get_append_right {α : Type} {l r : List (Nat × α)} {n : Nat} (h : ∀ p ∈ l, p.1 ≠ n) :
    Sparse.get (l ++ r) n = Sparse.get r n := by
  induction l with
  | nil => rfl
  | cons p rest ih =>
    obtain ⟨k, a⟩ := p
    have hk : k ≠ n := h (k, a) (by simp)
    simp only [List.cons_append, Sparse.get, hk, if_false]
    exact ih fun q hq => h q (by simp [hq])

theorem get_filter {α : Type} {m : List (Nat × α)} {n : Nat} {p : Nat → Bool} (h : p n = true) :
    Sparse.get (m.filter fun c => p c.1) n = Sparse.get m n := by
  induction m with
  | nil => rfl
  | cons q rest ih =>
    obtain ⟨k, a⟩ := q
    by_cases hk : k = n
    · subst hk; simp [h, Sparse.get]
    · by_cases hp : p k = true
      · simp only [List.filter_cons, hp, if_true, Sparse.get, hk, if_false, ih]
      · simpa [List.filter_cons, hp, Sparse.get, hk] using ih

/-- The bytes of the cells just written. -/
theorem read_cells (a : Nat) (data : List Byte) (i : Nat) (h : i < data.length) :
    (Sparse.get (cells a data) (a + i)).getD 0 = data[i] := by
  induction data generalizing a i with
  | nil => simp at h
  | cons b rest ih =>
    have hnone : Sparse.get (cells (a + 1) rest) a = none :=
      Sparse.get_eq_none fun p hp => by have := (mem_cells hp).1; omega
    simp only [cells]
    cases i with
    | zero =>
      split
      · rename_i hb; simp [hnone, hb]
      · simp [Sparse.get]
    | succ j =>
      have hj : j < rest.length := by simpa using h
      have := ih (a + 1) j hj
      rw [show a + 1 + j = a + (j + 1) by omega] at this
      split
      · simpa using this
      · have hne : ¬ a = a + (j + 1) := by omega
        simp only [Sparse.get, hne, if_false]; simpa using this

/-- A byte inside a write reads as written. -/
theorem read_write_inside (mem : List Host.Cell) (a : Nat) (data : List Byte) (i : Nat) (h : i < data.length) :
    read (write mem a data) (a + i) = data[i] := by
  simp only [read, write]
  rw [get_append_left, get_append_right, read_cells a data i h]
  · intro p hp; have := List.of_mem_filter hp; simp only [decide_eq_true_eq] at this; omega
  · intro p hp; have := List.of_mem_filter hp; simp only [decide_eq_true_eq] at this; omega

/-- A byte outside a write reads as before. -/
theorem read_write_outside (mem : List Host.Cell) (a : Nat) (data : List Byte) (x : Nat)
    (h : x < a ∨ a + data.length ≤ x) : read (write mem a data) x = read mem x := by
  simp only [read, write]
  congr 1
  rcases h with h | h
  · rw [List.append_assoc, get_append_left]
    · exact get_filter (p := fun k => decide (k < a)) (by simpa using h)
    · intro p hp
      rcases List.mem_append.mp hp with hp | hp
      · have := (mem_cells hp).1; omega
      · have := List.of_mem_filter hp; simp only [decide_eq_true_eq] at this; omega
  · rw [get_append_right]
    · exact get_filter (p := fun k => decide (a + data.length ≤ k)) (by simpa using h)
    · intro p hp
      rcases List.mem_append.mp hp with hp | hp
      · have := List.of_mem_filter hp; simp only [decide_eq_true_eq] at this; omega
      · have := (mem_cells hp).2.1; omega

@[simp] theorem readBytes_length (mem : List Host.Cell) (a n : Nat) : (readBytes mem a n).length = n := by
  induction mem generalizing a n with
  | nil => simp [readBytes]
  | cons c rest ih =>
    obtain ⟨k, b⟩ := c
    simp only [readBytes]
    split
    · exact ih a n
    · split
      · simp
      · simp only [List.length_append, List.length_replicate, List.length_cons, ih]; omega

/-- Byte i of a run of bytes is the byte at its address. -/
theorem readBytes_getElem {mem : List Host.Cell} (h : mem.Pairwise fun p q => p.1 < q.1) (a n i : Nat)
    (hi : i < (readBytes mem a n).length) : (readBytes mem a n)[i] = read mem (a + i) := by
  induction mem generalizing a n i with
  | nil => simp [readBytes, read, Sparse.get]
  | cons c rest ih =>
    obtain ⟨k, b⟩ := c
    obtain ⟨hk, hrest⟩ := List.pairwise_cons.mp h
    rw [readBytes_length] at hi
    by_cases h1 : k < a
    · have hne : ¬ k = a + i := by omega
      simp only [readBytes, h1, if_true, read, Sparse.get, hne, if_false]
      exact ih hrest a n i (by simpa using hi)
    · have hzero : ∀ x, x < k → read ((k, b) :: rest) x = 0 := fun x hx => by
        have : Sparse.get ((k, b) :: rest) x = none := Sparse.get_eq_none fun p hp => by
          rcases List.mem_cons.mp hp with rfl | hp
          · dsimp only; omega
          · have := hk p hp; dsimp only at this; omega
        simp [read, this]
      by_cases h2 : n ≤ k - a
      · simp only [readBytes, h1, if_false, h2, if_true, List.getElem_replicate]
        exact (hzero _ (by omega)).symm
      · simp only [readBytes, h1, if_false, h2]
        rcases lt_trichotomy (a + i) k with hlt | heq | hgt
        · rw [List.getElem_append_left (by simpa using by omega)]
          simpa using (hzero _ hlt).symm
        · rw [List.getElem_append_right (by simpa using by omega)]
          have : i - (List.replicate (k - a) (0 : Byte)).length = 0 := by simp; omega
          simp only [this, List.getElem_cons_zero]
          simp [read, Sparse.get, heq]
        · rw [List.getElem_append_right (by simpa using by omega)]
          obtain ⟨j, hj⟩ : ∃ j, i - (List.replicate (k - a) (0 : Byte)).length = j + 1 := by
            refine ⟨i - (k - a) - 1, ?_⟩; simp; omega
          have hje : k + 1 + j = a + i := by simp at hj; omega
          simp only [hj, List.getElem_cons_succ]
          have hne : ¬ k = a + i := by omega
          rw [ih hrest (k + 1) (n - (k - a) - 1) j (by simp; simp at hj; omega), hje]
          simp only [read, Sparse.get, hne, if_false]

end Dram

/-- Every page written keeps the memory's canonical form. -/
theorem writePage_memoryLaw {s : State} (h : s.MemoryLaw) (n : SlotNo) (j : Nat) (data : Option (List Byte)) :
    (s.writePage n j data).MemoryLaw := Dram.write_wf h _ _

/-- The memory right after power-on is in canonical form. -/
theorem reset_memoryLaw : State.reset.MemoryLaw := ⟨List.Pairwise.nil, fun _ h => absurd h List.not_mem_nil⟩

end Sys2Proof.Machine
end

