-- ==== Sys2Proof/Laws/Standing.lean ====
section
/-! SUPPORT. What every command ends with: the start bit in FREE, the bus-stuck watch and the FAULT output, and nothing
else (R148, R159, R175). -/

namespace Sys2Proof.Machine

section
variable (s : State)

theorem startInFree_cases : s.startInFree = s ∨ (s.bus.state = .free ∧ s.somethingToSend = true ∧ s.mayContend = true
    ∧ s.startInFree = s.onBus fun b => { b with state := .busy, startBit := true }) := by
  unfold State.startInFree
  split
  · rename_i h; exact .inr ⟨h.1, h.2.1, h.2.2, rfl⟩
  · exact .inl rfl

@[simp] theorem startInFree_status : s.startInFree.status = s.status := by
  rcases startInFree_cases s with h | ⟨-, -, -, h⟩ <;> simp [h]
@[simp] theorem startInFree_clock : s.startInFree.clock = s.clock := by
  rcases startInFree_cases s with h | ⟨-, -, -, h⟩ <;> simp [h]
@[simp] theorem startInFree_dir : s.startInFree.dir = s.dir := by
  rcases startInFree_cases s with h | ⟨-, -, -, h⟩ <;> simp [h]
@[simp] theorem startInFree_cue : s.startInFree.cue = s.cue := by
  rcases startInFree_cases s with h | ⟨-, -, -, h⟩ <;> simp [h]
@[simp] theorem startInFree_streams : s.startInFree.streams = s.streams := by
  rcases startInFree_cases s with h | ⟨-, -, -, h⟩ <;> simp [h]
@[simp] theorem startInFree_cache : s.startInFree.cache = s.cache := by
  rcases startInFree_cases s with h | ⟨-, -, -, h⟩ <;> simp [h]
@[simp] theorem startInFree_fetch : s.startInFree.fetch = s.fetch := by
  rcases startInFree_cases s with h | ⟨-, -, -, h⟩ <;> simp [h]
@[simp] theorem startInFree_delivery : s.startInFree.delivery = s.delivery := by
  rcases startInFree_cases s with h | ⟨-, -, -, h⟩ <;> simp [h]
@[simp] theorem startInFree_pending : s.startInFree.pending = s.pending := by
  rcases startInFree_cases s with h | ⟨-, -, -, h⟩ <;> simp [h]

/-- Bringing the standing conditions up to date changes nothing else. -/
theorem finish_settles : Settles s s.finish := by
  by_cases h : s.bus.state = .free ∧ s.somethingToSend = true ∧ s.mayContend = true
  · simp [Settles, State.finish, State.startInFree, h, State.runWatch, State.updateFault]
  · simp only [Settles, State.finish, State.startInFree, if_neg h]
    simp [State.runWatch, State.updateFault]

@[simp] theorem finish_clock : s.finish.clock = s.clock := (finish_settles s).2.2.2.1
@[simp] theorem finish_dir : s.finish.dir = s.dir := (finish_settles s).2.2.2.2.1
@[simp] theorem finish_cue : s.finish.cue = s.cue := (finish_settles s).2.2.2.2.2.1
@[simp] theorem finish_streams : s.finish.streams = s.streams := (finish_settles s).2.2.2.2.2.2.1
@[simp] theorem finish_cache : s.finish.cache = s.cache := (finish_settles s).2.2.2.2.2.2.2.1
@[simp] theorem finish_fetch : s.finish.fetch = s.fetch := (finish_settles s).2.2.2.2.2.2.2.2.1
@[simp] theorem finish_delivery : s.finish.delivery = s.delivery := (finish_settles s).2.2.2.2.2.2.2.2.2.1
@[simp] theorem finish_pending : s.finish.pending = s.pending := (finish_settles s).2.2.2.2.2.2.2.2.2.2
@[simp] theorem finish_phase : s.finish.status.phase = s.status.phase := by rw [(finish_settles s).1]
@[simp] theorem finish_station : s.finish.status.station = s.status.station := by rw [(finish_settles s).1]
@[simp] theorem finish_config : s.finish.status.config = s.status.config := by rw [(finish_settles s).1]
@[simp] theorem finish_offers : s.finish.bus.offers = s.bus.offers := by rw [(finish_settles s).2.1]
@[simp] theorem finish_notices : s.finish.bus.notices = s.bus.notices := by rw [(finish_settles s).2.1]
@[simp] theorem finish_requests : s.finish.bus.requests = s.bus.requests := by rw [(finish_settles s).2.1]
@[simp] theorem finish_tenure : s.finish.bus.tenure = s.bus.tenure := by rw [(finish_settles s).2.1]
@[simp] theorem finish_clear : s.finish.bus.clear = s.bus.clear := by rw [(finish_settles s).2.1]
@[simp] theorem finish_busCounts : s.finish.bus.counts = s.bus.counts := by rw [(finish_settles s).2.1]

/-- FAULT is driven exactly while a cause holds. -/
theorem finish_fault : s.finish.status.faultDriven = s.finish.faultCauses.any id := rfl

end

/-- Every command but POWER_ON ends in a next state: its body after its elapsed time, brought up to date. -/
@[simp] theorem command_eq (dt : Micros) (body : State → State) (s : State) :
    s.command dt body = .next (body (s.elapse dt)).finish := rfl

/-- A command gives what its body makes of the state after the elapsed time. -/
theorem command_gives (dt : Micros) (body : State → State) (s : State) :
    Result.Gives (s.command dt body) (body (s.elapse dt)) := ⟨_, rfl, finish_settles _⟩

theorem command_gives_of_eq {dt : Micros} {body : State → State} {s e : State} (h : body (s.elapse dt) = e) :
    Result.Gives (s.command dt body) e := h ▸ command_gives dt body s

/-- The state with the standing conditions set aside: what `Settles` does not compare. -/
def State.plain (s : State) : State :=
  { s with status := { s.status with faultDriven := false, faultOnset := 0 }, bus := { s.bus with watch := .idle } }

/-- States that are equal but for the standing conditions settle alike. -/
theorem Settles.of_plain {u e t : State} (ht : Settles u t) (h : u.plain = e.plain) : Settles e t := by
  obtain ⟨us, ub, uc, ud, uq, ue, uk, uf, uv, up⟩ := u
  obtain ⟨es, eb, ec, ed, eq, ee, ek, ef, ev, ep⟩ := e
  simp only [State.plain, State.mk.injEq] at h
  obtain ⟨h1, h2, rfl, rfl, rfl, rfl, rfl, rfl, rfl, rfl⟩ := h
  obtain ⟨hs, hb, hfree, hrest⟩ := ht
  simp only [Status.mk.injEq] at h1
  simp only [BusPort.mk.injEq] at h2
  have send : ∀ (b : BusPort) (u : Status), State.somethingToSend ⟨u, b, uc, ud, uq, ue, uk, uf, uv, up⟩
      = (!b.offers.isEmpty || !b.notices.isEmpty || b.requests != 0
        || State.blockWaiting ⟨us, ub, uc, ud, uq, ue, uk, uf, uv, up⟩) := fun _ _ => rfl
  refine ⟨?_, ?_, ?_, hrest⟩
  · rw [hs]; simp [h1]
  · rw [hb]; simp [h2]
  · rw [send] at hfree ⊢
    simpa [State.mayContend, State.cleared, h1, h2] using hfree

/-- A command gives the state its body makes, whatever that state's standing conditions. -/
theorem command_gives_of_plain {dt : Micros} {body : State → State} {s e : State}
    (h : (body (s.elapse dt)).plain = e.plain) : Result.Gives (s.command dt body) e :=
  ⟨_, rfl, (finish_settles _).of_plain h⟩

/-! ### How a frame reaches its owner -/

/-- A broadcast frame that is handed on reaches its owner with the bus in GAP. -/
theorem broadcastFrame_handsOn {s : State} {src : Station} (h : s.handsOn src) (frame : List Byte) (owner : State → State) :
    s.broadcastFrame frame src owner = owner (((s.received frame).enterBus .gap).boundary) := by
  obtain ⟨h1, h2, h3⟩ := h
  simp [State.broadcastFrame, h1, h2, State.bridges] at h3 ⊢
  simp [h3]

theorem byteAt_lt (l : List Byte) (i : Nat) : Bytes.byteAt l i < 256 := by
  unfold Bytes.byteAt Bytes.field Bytes.slice
  cases l.drop i with
  | nil => decide
  | cons b rest => simpa [Bytes.value] using b.isLt

/-- The part's own test of the addressee is the manual's. -/
theorem isAddressee_iff {s : State} {frame : List Byte} : s.isAddressee frame = true ↔ s.isAddressed frame := by
  have h : Bytes.byteAt frame 2 < 256 := byteAt_lt frame 2
  simp only [State.isAddressee, State.isAddressed, Bytes.broadcastFlag, Bytes.destination, Bool.and_eq_true,
    Bool.not_eq_true', beq_eq_false_iff_ne, beq_iff_eq, BitVec.toNat_eq, BitVec.toNat_ofNat]
  omega

/-- An addressed frame that is judged reaches its owner, and the slot follows with the owner's decision. -/
theorem addressedFrame_judged {s : State} {frame : List Byte} (h : s.judgesAddressed frame)
    (owner : State → State × Bool) :
    s.addressedFrame frame owner =
      (owner ((s.received frame).boundary)).1.enterBus (.ackSlot (owner ((s.received frame).boundary)).2) := by
  obtain ⟨h1, hd, h2, h3⟩ := h
  have h3' : ((s.received frame).boundary).cleared = false := by simpa [State.cleared, State.boundary] using h3
  have hd' : ((s.received frame).boundary).isAddressee frame = true := isAddressee_iff.mpr hd
  simp [State.addressedFrame, hd', State.judge, h1, h2, h3']

/-- An addressed frame to another station is received, and its slot follows undriven. -/
theorem addressedFrame_other {s : State} {frame : List Byte} (h : s.listening = true)
    (hd : ¬ s.isAddressed frame) (owner : State → State × Bool) :
    s.addressedFrame frame owner = ((s.received frame).boundary).enterBus (.ackSlot false) := by
  have hd' : ((s.received frame).boundary).isAddressee frame = false :=
    Bool.eq_false_iff.mpr fun h => hd (isAddressee_iff.mp h)
  simp [State.addressedFrame, hd', h]

end Sys2Proof.Machine
end

