-- ==== Sys2Proof/Laws/Moves.lean ====
section
/-! SUPPORT. The inner work of the stream engine, the cache and the fetch engine, said once: whatever a fill, a release, a
cancellation, a fetch request, a drop or a refill does, it does by a chain of the moves listed here. An invariant of the
moves is an invariant of all of them. -/

namespace Sys2Proof.Machine

/-! ### Counts -/

/-- No count of a group falls. -/
abbrev CountsRise (k l : List Count) : Prop := List.Forall₂ (fun a b => a.toNat ≤ b.toNat) k l

theorem le_addCount (c : Count) (n : Nat) : c.toNat ≤ (addCount c n).toNat := by
  have hc := c.isLt
  simp only [addCount, BitVec.toNat_ofNat]
  rw [Nat.mod_eq_of_lt (by omega)]
  omega

theorem le_inc (c : Count) : c.toNat ≤ (inc c).toNat := le_addCount c 1

theorem countsRise_refl (k : List Count) : CountsRise k k := List.forall₂_same.mpr fun _ _ => le_rfl

theorem countsRise_trans {k l m : List Count} (h : CountsRise k l) (h' : CountsRise l m) : CountsRise k m := by
  induction h generalizing m with
  | nil => exact h'
  | cons hab _ ih =>
    cases h' with
    | cons hbc hrest => exact .cons (le_trans hab hbc) (ih hrest)

/-! ### The moves -/

/-- One change of a context in the inner work: its admission fields stay; it keeps its state and offer, or goes from a
state other than an idle CONTENDING to SPENT; and its window loses entries, or, where `grow` allows, takes the
generator's next entry at its tail. -/
structure ContextStep (grow : Bool) (c d : Context) : Prop where
  id : d.id = c.id
  demand : d.demand = c.demand
  depth : d.depth = c.depth
  delivered : d.delivered = c.delivered
  nacks : d.nacks = c.nacks
  state : (d.state = c.state ∧ d.offer = c.offer) ∨ (d.state = .spent ∧ (c.state ≠ .contending ∨ c.window ≠ []))
  window : ((d.window.map Entry.pos).Sublist (c.window.map Entry.pos) ∧ d.gen.pos = c.gen.pos)
    ∨ (grow = true ∧ c.state ≠ .contending ∧ (c.window = [] ∨ c.window.length < c.depth)
        ∧ ∃ e, e.pos = c.gen.pos ∧ d.window = c.window ++ [e] ∧ d.gen.pos = c.gen.pos + 1)

/-- One change of the cache in the inner work, the bytes of the DRAM apart. -/
structure CacheStep (c d : Cache) : Prop where
  dram : d.dram = c.dram
  slots : Sparse.wf c.slots → Sparse.wf d.slots
  keys : (∀ p ∈ c.slots, p.1 < Config.slots) → ∀ p ∈ d.slots, p.1 < Config.slots
  counts : CountsRise c.counts.list d.counts.list

/-- One change of a channel in the inner work. -/
structure ChannelStep (c d : Channel) : Prop where
  timeouts : d.timeouts = c.timeouts
  pageCount : d.pageCount = c.pageCount
  counts : CountsRise c.counts.list d.counts.list

/-- The single moves of the inner work. -/
inductive Move (grow : Bool) : State → State → Prop
  | count (f : StreamCounts → StreamCounts) (s : State) (h : ∀ k, CountsRise k.list (f k).list) :
      Move grow s (s.countStreams f)
  | context (i : Nat) (f : Context → Context) (s : State)
      (h : ∀ c, s.ctx? i = some c → ContextStep grow c (f c)) : Move grow s (s.updCtx i f)
  | cache (f : Cache → Cache) (s : State) (h : CacheStep s.cache (f s.cache)) : Move grow s (s.onCache f)
  | page (n : SlotNo) (j : Nat) (data : Option (List Byte)) (s : State) : Move grow s (s.writePage n j data)
  | channel (c : ChannelNo) (f : Channel → Channel) (s : State) (h : ∀ ch, ChannelStep ch (f ch)) :
      Move grow s (s.updChan c f)
  | notice (n : Notice) (s : State) : Move grow s (s.onBus fun b => { b with notices := b.notices ++ [n] })

/-- A chain of moves. -/
abbrev Moves (grow : Bool) : State → State → Prop := Relation.ReflTransGen (Move grow)

theorem ContextStep.grows {c d : Context} (h : ContextStep false c d) (g : Bool) : ContextStep g c d :=
  ⟨h.id, h.demand, h.depth, h.delivered, h.nacks, h.state, by
    rcases h.window with hw | ⟨hf, -⟩
    · exact .inl hw
    · cases hf⟩

theorem Move.grows {s t : State} (h : Move false s t) (g : Bool) : Move g s t := by
  cases h with
  | count f _ h => exact .count f _ h
  | context i f _ h => exact .context i f _ fun c hc => (h c hc).grows g
  | cache f _ h => exact .cache f _ h
  | page n j d _ => exact .page n j d _
  | channel c f _ h => exact .channel c f _ h
  | notice n _ => exact .notice n _

theorem Moves.grows {s t : State} (h : Moves false s t) (g : Bool) : Moves g s t := by
  induction h with
  | refl => exact .refl
  | tail _ hm ih => exact ih.tail (hm.grows g)

section
variable {g : Bool} {s t : State}

theorem Moves.fold {α : Type} {f : State → α → State} {l : List α}
    (h : ∀ {u : State} (a : α), Moves g s u → Moves g s (f u a)) (ht : Moves g s t) : Moves g s (l.foldl f t) := by
  induction l generalizing t with
  | nil => exact ht
  | cons a rest ih => exact ih (h a ht)

/-! ### The primitive operations as moves -/

theorem Moves.cache {f : Cache → Cache} (h : CacheStep t.cache (f t.cache)) (ht : Moves g s t) :
    Moves g s (t.onCache f) := ht.tail (.cache f t h)

theorem Moves.updCtx {i : Nat} {f : Context → Context} (h : ∀ c, t.ctx? i = some c → ContextStep g c (f c))
    (ht : Moves g s t) : Moves g s (t.updCtx i f) := ht.tail (.context i f t h)

theorem Moves.countStreams {f : StreamCounts → StreamCounts} (h : ∀ k, CountsRise k.list (f k).list)
    (ht : Moves g s t) : Moves g s (t.countStreams f) := ht.tail (.count f t h)

theorem Moves.countCache {f : CacheCounts → CacheCounts} (h : ∀ k, CountsRise k.list (f k).list)
    (ht : Moves g s t) : Moves g s (t.countCache f) := ht.cache ⟨rfl, id, id, h _⟩

theorem Moves.updSlot {n : SlotNo} {f : Slot → Slot} (ht : Moves g s t) : Moves g s (t.updSlot n f) :=
  ht.cache ⟨rfl, fun h => Sparse.modify_wf h n f, fun h p hp => by
    obtain ⟨q, hq, rfl⟩ := List.mem_map.mp hp
    split <;> exact h q hq, countsRise_refl _⟩

theorem Moves.toReclaim {n : SlotNo} (ht : Moves g s t) : Moves g s (t.toReclaim n) :=
  ht.cache ⟨rfl, id, id, countsRise_refl _⟩

theorem Moves.emptySlot {n : SlotNo} (ht : Moves g s t) : Moves g s (t.emptySlot n) :=
  ht.cache ⟨rfl, fun h => Sparse.erase_wf h _, fun h p hp => h p (List.mem_of_mem_filter hp), countsRise_refl _⟩

theorem Moves.writePage {n : SlotNo} {j : Nat} {data : Option (List Byte)} (ht : Moves g s t) :
    Moves g s (t.writePage n j data) := ht.tail (.page n j data t)

theorem Moves.updChan {c : ChannelNo} {f : Channel → Channel} (h : ∀ ch, ChannelStep ch (f ch)) (ht : Moves g s t) :
    Moves g s (t.updChan c f) := ht.tail (.channel c f t h)

theorem Moves.countChan {c : ChannelNo} {f : ChannelCounts → ChannelCounts} (h : ∀ k, CountsRise k.list (f k).list)
    (ht : Moves g s t) : Moves g s (t.countChan c f) := ht.updChan fun _ => ⟨rfl, rfl, h _⟩

theorem Moves.issue {c : ChannelNo} {k : OperationKind} (ht : Moves g s t) : Moves g s (t.issue c k) :=
  ht.updChan fun _ => ⟨rfl, rfl, countsRise_refl _⟩

theorem Moves.notice {n : Notice} (ht : Moves g s t) : Moves g s (t.onBus fun b => { b with notices := b.notices ++ [n] }) :=
  ht.tail (.notice n t)

/-- A channel changed in its queue, its operation or its request order alone. -/
theorem channelStep_quiet {c d : Channel} (h1 : d.timeouts = c.timeouts := by rfl) (h2 : d.pageCount = c.pageCount := by rfl)
    (h3 : d.counts = c.counts := by rfl) : ChannelStep c d := ⟨h1, h2, h3 ▸ countsRise_refl _⟩

/-! ### References, cancellations and windows -/

theorem Moves.removeFetch {c : ChannelNo} {n : SlotNo} (ht : Moves g s t) : Moves g s (t.removeFetch c n) := by
  unfold State.removeFetch
  refine Moves.countCache (fun k => ?_) (Moves.emptySlot (Moves.countChan (fun k => ?_) (Moves.updChan (fun _ => ?_) ht)))
  · simp [CacheCounts.list, le_inc]
  · simp [ChannelCounts.list, le_inc]
  · exact channelStep_quiet

theorem Moves.cancelFetch {n : SlotNo} (ht : Moves g s t) : Moves g s (t.cancelFetch n) := by
  unfold State.cancelFetch
  split
  · exact ht
  · split
    · exact ht
    · split
      · split
        · exact ht.updChan fun _ => channelStep_quiet
        · exact ht
      · exact ht.removeFetch

theorem Moves.releaseRef {n : SlotNo} (ht : Moves g s t) : Moves g s (t.releaseRef n) := by
  unfold State.releaseRef
  split
  · exact ht
  · dsimp only
    split
    · split
      · exact Moves.toReclaim ht.updSlot
      · refine Moves.countCache (fun k => ?_) (Moves.emptySlot ht.updSlot)
        simp [CacheCounts.list, le_inc]
      · exact Moves.cancelFetch ht.updSlot
    · exact ht.updSlot

theorem Moves.releaseEntry {e : Entry} (ht : Moves g s t) : Moves g s (t.releaseEntry e) := by
  unfold State.releaseEntry
  split
  · exact ht.releaseRef
  · exact ht

theorem Moves.withdraw {entries : List Entry} (ht : Moves g s t) : Moves g s (t.withdraw entries) :=
  Moves.fold (fun _ hu => Moves.countStreams (fun k => by simp [StreamCounts.list, le_inc]) (Moves.releaseEntry hu)) ht

theorem countEnd_rises (reason : EndReason) (k : StreamCounts) : CountsRise k.list (k.countEnd reason).list := by
  cases reason <;> simp [StreamCounts.countEnd, StreamCounts.list, le_inc]

/-- Entry to SPENT, from a state other than an idle CONTENDING. -/
theorem Moves.enterSpent {i : Nat} {reason : EndReason} (h : ∀ c, t.ctx? i = some c → c.state ≠ .contending ∨ c.window ≠ [])
    (ht : Moves g s t) : Moves g s (t.enterSpent i reason) := by
  unfold State.enterSpent
  split
  · exact ht
  · refine Moves.notice (Moves.countStreams (countEnd_rises reason) (Moves.withdraw (Moves.updCtx (fun d hd => ?_) ht)))
    exact ⟨rfl, rfl, rfl, rfl, rfl, .inr ⟨rfl, h d hd⟩, .inl ⟨by simp, rfl⟩⟩

theorem ctx?_updCtx (s : State) (i j : Nat) (f : Context → Context) :
    (s.updCtx i f).ctx? j = if i = j then (s.ctx? j).map f else s.ctx? j := by
  simp only [State.ctx?, updCtx_streams, Sparse.get_modify]

theorem Moves.policyTest {i : Nat} (ht : Moves g s t) : Moves g s (t.policyTest i) := by
  unfold State.policyTest
  split
  · exact ht
  · rename_i c hc
    split
    · exact ht
    · rename_i e rest hw
      have hstep : Moves g s (t.updCtx i fun x => { x with patched := inc x.patched }) :=
        ht.updCtx fun d _ => ⟨rfl, rfl, rfl, rfl, rfl, .inl ⟨rfl, rfl⟩, .inl ⟨List.Sublist.refl _, rfl⟩⟩
      split
      · dsimp only
        split
        · refine hstep.enterSpent fun d hd => .inr ?_
          rw [ctx?_updCtx, if_pos rfl, hc, Option.map_some, Option.some.injEq] at hd
          subst hd
          simp [hw]
        · exact hstep
      · exact ht

/-! ### Fills -/

theorem Entry.fill_pos (n : SlotNo) (p : PageSet) (e : Entry) : (e.fill n p).pos = e.pos := by
  unfold Entry.fill; split <;> rfl

theorem Moves.fillContext {n : SlotNo} {patched : PageSet} {i : Nat} (ht : Moves g s t) :
    Moves g s (t.fillContext n patched i) := by
  unfold State.fillContext
  split
  · exact ht
  · have hpos : (Entry.pos ∘ Entry.fill n patched) = Entry.pos := funext (Entry.fill_pos n patched)
    have hstep : Moves g s (t.updCtx i fun x => { x with window := x.window.map (Entry.fill n patched) }) :=
      ht.updCtx fun d _ => ⟨rfl, rfl, rfl, rfl, rfl, .inl ⟨rfl, rfl⟩, .inl ⟨by simp [hpos], rfl⟩⟩
    dsimp only
    split
    · exact hstep
    · split
      · exact hstep.policyTest
      · exact hstep

theorem Moves.fillComplete {n : SlotNo} (ht : Moves g s t) : Moves g s (t.fillComplete n) := by
  unfold State.fillComplete
  split
  · exact ht
  · rename_i slot _
    dsimp only
    have hfirst : Moves g s (if slot.patched = 0 then
        (t.updSlot n fun x => { x with state := .valid }).countCache fun k => { k with validFill := inc k.validFill }
      else (t.updSlot n fun x => { x with state := .patched }).countCache fun k =>
          { k with patchedFill := inc k.patchedFill }) := by
      split <;> exact Moves.countCache (fun k => by simp [CacheCounts.list, le_inc]) ht.updSlot
    generalize (if slot.patched = 0 then _ else _ : State) = u at hfirst ⊢
    split
    · split
      · exact Moves.toReclaim hfirst
      · exact Moves.countCache (fun k => by simp [CacheCounts.list, le_inc]) (Moves.emptySlot hfirst)
    · exact Moves.fold (fun _ hu => hu.fillContext) hfirst

theorem Moves.reportPage {n : SlotNo} {j : Nat} {data : Option (List Byte)} (ht : Moves g s t) :
    Moves g s (t.reportPage n j data) := Moves.updSlot ht.writePage

theorem Moves.completePage {c : ChannelNo} {n : SlotNo} {data : Option (List Byte)} (ht : Moves g s t) :
    Moves g s (t.completePage c n data) := by
  unfold State.completePage
  split
  · exact ht
  · have hfirst : Moves g s
        (if data.isNone then t.countChan c fun k => { k with patchedPages := inc k.patchedPages } else t) := by
      split
      · exact ht.countChan fun k => by simp [ChannelCounts.list, le_inc]
      · exact ht
    dsimp only
    split
    · exact Moves.updChan (fun _ => channelStep_quiet) hfirst.reportPage
    · exact Moves.fillComplete (Moves.countChan (fun k => by simp [ChannelCounts.list, le_inc])
        (Moves.updChan (fun _ => channelStep_quiet) hfirst.reportPage))

theorem Moves.finishPatched {c : ChannelNo} {f : Fetch} (ht : Moves g s t) : Moves g s (t.finishPatched c f) := by
  unfold State.finishPatched
  exact Moves.fillComplete (Moves.countChan (fun k => by simp [ChannelCounts.list, le_inc, le_addCount])
    (Moves.fold (fun _ hu => hu.reportPage) ht))

theorem Moves.goOffline {c : ChannelNo} (ht : Moves g s t) : Moves g s (t.goOffline c) := by
  unfold State.goOffline
  exact Moves.fold (fun _ hu => hu.finishPatched)
    (ht.updChan fun ch => ⟨rfl, rfl, by simp [ChannelCounts.list, le_inc]⟩)

/-! ### Fetches and lookups -/

theorem countChoice_rises (f : Fetch) (b : Bool) (k : ChannelCounts) : CountsRise k.list (k.countChoice f b).list := by
  unfold ChannelCounts.countChoice
  by_cases h : f.pagesDone = 0 <;> cases b <;> simp [h, ChannelCounts.list, le_inc]

theorem Moves.readNext {c : ChannelNo} (ht : Moves g s t) : Moves g s (t.readNext c).1 := by
  unfold State.readNext
  split
  · exact ht
  · rename_i f breakIn _
    dsimp only
    split
    · exact Moves.issue (ht.countChan (countChoice_rises f breakIn))
    · refine Moves.countChan (f := fun k => { k with beyondExtent := inc k.beyondExtent }) (fun k => ?_)
        (ht.countChan (countChoice_rises f breakIn))
      simp [ChannelCounts.list, le_inc]

theorem Moves.chooseFetch {c : ChannelNo} {fuel : Nat} (ht : Moves g s t) : Moves g s (t.chooseFetch c fuel) := by
  induction fuel generalizing t with
  | zero => exact ht
  | succ fuel ih =>
    have hr := ht.readNext (c := c)
    simp only [State.chooseFetch]
    split
    · rename_i h; rw [h] at hr; exact hr
    · rename_i h; rw [h] at hr; exact ih hr.completePage

/-- A request is a chain of moves, and what it leaves to be reported is another. -/
theorem Moves.requestFetch {n : SlotNo} {block : Nat} {deadline : Time} (ht : Moves g s t) :
    Moves g s (t.requestFetch n block deadline).1 := by
  unfold State.requestFetch
  dsimp only
  split
  · exact Moves.updChan (f := fun ch => { ch with nextOrder := ch.nextOrder + 1 }) (fun _ => channelStep_quiet) ht
  · generalize hf : ({ slot := n, block := block, deadline := deadline, pagesDone := 0, cancelPending := false
                       order := (t.chan (channelOf block)).nextOrder } : Fetch) = f
    have hq := Moves.updChan (c := channelOf block) (f := fun ch => { ch with queue := insertFetch f ch.queue })
      (fun _ => channelStep_quiet)
      (ht.updChan (c := channelOf block) (f := fun ch => { ch with nextOrder := ch.nextOrder + 1 })
        fun _ => channelStep_quiet)
    split
    · have hr := hq.readNext (c := channelOf block)
      split
      · rename_i h; rw [h] at hr; exact hr
      · rename_i h; rw [h] at hr; exact hr
    · exact hq

theorem Moves.report {r : LateReport} (ht : Moves g s t) : Moves g s (t.report r) := by
  unfold State.report
  split
  · exact ht
  · exact ht.finishPatched
  · exact Moves.chooseFetch ht.completePage

theorem lowerDeadline_step (n : SlotNo) (d : Time) (ch : Channel) : ChannelStep ch (ch.lowerDeadline n d) := by
  unfold Channel.lowerDeadline
  split <;> exact channelStep_quiet

theorem Moves.hit {n : SlotNo} {slot : Slot} {deadline : Time} (ht : Moves g s t) :
    Moves g s (t.hit n slot deadline) := by
  unfold State.hit
  dsimp only
  split
  · exact Moves.cache ⟨rfl, id, id, by simp [CacheCounts.list, le_inc]⟩ ht.updSlot
  · exact Moves.countCache (fun k => by simp [CacheCounts.list, le_inc]) ht.updSlot
  · have hcount : Moves g s ((t.updSlot n fun x => { x with refs := x.refs + 1 }).countCache fun k =>
        { k with fillingHit := inc k.fillingHit }) :=
      Moves.countCache (fun k => by simp [CacheCounts.list, le_inc]) ht.updSlot
    cases t.fetchingChannel n with
    | none =>
      dsimp only
      split
      · exact hcount.updSlot
      · exact hcount
    | some c =>
      dsimp only
      have hkeep := hcount.updChan (c := c) (f := Channel.mapFetch n fun x => { x with cancelPending := false })
        fun _ => channelStep_quiet
      split
      · exact Moves.updChan (lowerDeadline_step n deadline) hkeep.updSlot
      · exact hkeep

theorem takeSlot_step {c d : Cache} {n : SlotNo} (h : c.takeSlot = some (n, d)) : CacheStep c d := by
  unfold Cache.takeSlot at h
  split at h
  · cases h; exact ⟨rfl, id, id, countsRise_refl _⟩
  · split at h
    · cases h; exact ⟨rfl, id, id, countsRise_refl _⟩
    · cases h
      exact ⟨rfl, fun h => Sparse.erase_wf h _, fun h p hp => h p (List.mem_of_mem_filter hp),
        by simp [CacheCounts.list, le_inc]⟩
    · cases h

theorem Moves.allocate {zone : Zone} {k block : Nat} {deadline : Time} {found : Found}
    (h : t.allocate zone k block deadline = some found) (ht : Moves g s t) : Moves g s found.state := by
  unfold State.allocate at h
  split at h
  · cases h
  · rename_i n cache hc
    have hs := takeSlot_step hc
    cases h
    refine Moves.requestFetch (ht.cache ⟨hs.dram, fun hw => Sparse.put_wf (hs.slots hw) _ _, fun hk p hp => ?_, ?_⟩)
    · rcases Sparse.mem_put hp with rfl | hp
      · exact n.isLt
      · exact hs.keys hk p hp
    · refine countsRise_trans hs.counts ?_
      simp [CacheCounts.list, le_inc]

theorem Moves.lookup {zone : Zone} {k block : Nat} {deadline : Time} {found : Found}
    (h : t.lookup zone k block deadline = some found) (ht : Moves g s t) : Moves g s found.state := by
  unfold State.lookup at h
  split at h
  · cases h; exact ht.hit
  · exact ht.allocate h

end

/-! ### A context seen through moves -/

theorem quiet_step_trans {c d e : Context} (h : ContextStep false c d) (h' : ContextStep false d e) :
    ContextStep false c e := by
  obtain ⟨hw, hp⟩ : (d.window.map Entry.pos).Sublist (c.window.map Entry.pos) ∧ d.gen.pos = c.gen.pos := by
    rcases h.window with hw | ⟨hf, -⟩
    · exact hw
    · cases hf
  obtain ⟨hw', hp'⟩ : (e.window.map Entry.pos).Sublist (d.window.map Entry.pos) ∧ e.gen.pos = d.gen.pos := by
    rcases h'.window with hw | ⟨hf, -⟩
    · exact hw
    · cases hf
  refine ⟨h'.id.trans h.id, h'.demand.trans h.demand, h'.depth.trans h.depth, h'.delivered.trans h.delivered,
    h'.nacks.trans h.nacks, ?_, .inl ⟨hw'.trans hw, hp'.trans hp⟩⟩
  rcases h.state with ⟨hs, ho⟩ | ⟨hs, hc⟩
  · rcases h'.state with ⟨hs', ho'⟩ | ⟨hs', hc'⟩
    · exact .inl ⟨hs'.trans hs, ho'.trans ho⟩
    · refine .inr ⟨hs', hc'.imp (fun hn => hs ▸ hn) fun hne hnil => hne ?_⟩
      rw [hnil] at hw
      exact List.map_eq_nil_iff.mp (List.sublist_nil.mp hw)
  · rcases h'.state with ⟨hs', -⟩ | ⟨hs', -⟩
    · exact .inr ⟨hs'.trans hs, hc⟩
    · exact .inr ⟨hs', hc⟩

theorem quiet_step_refl (c : Context) : ContextStep false c c :=
  ⟨rfl, rfl, rfl, rfl, rfl, .inl ⟨rfl, rfl⟩, .inl ⟨List.Sublist.refl _, rfl⟩⟩

/-- Moves without growth keep every context, changed at most as one step changes it. -/
theorem quiet_context {s t : State} (h : Moves false s t) {i : Nat} {c : Context} (hc : s.ctx? i = some c) :
    ∃ d, t.ctx? i = some d ∧ ContextStep false c d := by
  induction h with
  | refl => exact ⟨c, hc, quiet_step_refl c⟩
  | tail _ hm ih =>
    obtain ⟨d, hd, hcd⟩ := ih
    cases hm with
    | context j f _ hf =>
      by_cases hji : j = i
      · subst hji
        exact ⟨f d, by simp [ctx?_updCtx, hd], quiet_step_trans hcd (hf d hd)⟩
      · exact ⟨d, by simp [ctx?_updCtx, hji, hd], hcd⟩
    | count f _ _ => exact ⟨d, hd, hcd⟩
    | cache f _ _ => exact ⟨d, hd, hcd⟩
    | page n j x _ => exact ⟨d, hd, hcd⟩
    | channel c f _ _ => exact ⟨d, hd, hcd⟩
    | notice n _ => exact ⟨d, hd, hcd⟩

/-! ### The window's refill -/

/-- Every element the generator gives takes the next sequence position (R43). -/
theorem advance_pos (c : Context) (gen : Generator) : (c.advance gen).pos = gen.pos + 1 := by
  have hclose : ∀ x : Generator, (c.closeAtCut x).pos = x.pos := fun x => by
    unfold Context.closeAtCut
    split
    · split <;> rfl
    · rfl
  have hcoda : ∀ (l : Loop) (x : Generator), (c.toCoda l x).pos = x.pos := fun l x => by
    unfold Context.toCoda
    split <;> rfl
  unfold Context.advance
  dsimp only
  rw [hclose]
  split <;> (try split) <;> (try split) <;> simp [hcoda]

section
variable {s t : State}

theorem Moves.appendEntry {i : Nat} {e : Entry}
    (h : ∀ c, t.ctx? i = some c → c.state ≠ .contending ∧ (c.window = [] ∨ c.window.length < c.depth)
      ∧ e.pos = c.gen.pos) (ht : Moves true s t) : Moves true s (t.appendEntry i e) := by
  unfold State.appendEntry
  refine Moves.countStreams (fun k => by simp [StreamCounts.list, le_inc]) (ht.updCtx fun c hc => ?_)
  obtain ⟨h1, h2, h3⟩ := h c hc
  exact ⟨rfl, rfl, rfl, rfl, rfl, .inl ⟨rfl, rfl⟩, .inr ⟨rfl, h1, h2, e, h3, rfl, advance_pos _ _⟩⟩

/-- An entry created for a context whose window is worked on and has room is a chain of moves. -/
theorem Moves.createEntry {i : Nat} {c : Context} {u : State} {r : LateReport} (hc : t.ctx? i = some c)
    (hd : c.delivering = true) (hroom : c.window = [] ∨ c.window.length < c.depth)
    (h : t.createEntry i c = some (u, r)) (ht : Moves true s t) : Moves true s u := by
  have hstate : c.state ≠ .contending := by
    intro hs; simp [Context.delivering, hs] at hd
  have happ : ∀ {v : State}, Moves false t v → ∀ e : Entry, e.pos = c.gen.pos → Moves true s (v.appendEntry i e) := by
    intro v hv e he
    refine Moves.appendEntry (fun x hx => ?_) (ht.trans (hv.grows true))
    obtain ⟨y, hy, hstep⟩ := quiet_context hv hc
    rw [hx] at hy
    cases hy
    obtain ⟨hw, hp⟩ : (x.window.map Entry.pos).Sublist (c.window.map Entry.pos) ∧ x.gen.pos = c.gen.pos := by
      rcases hstep.window with hw | ⟨hf, -⟩
      · exact hw
      · cases hf
    refine ⟨?_, ?_, he.trans hp.symm⟩
    · rcases hstep.state with ⟨hs, -⟩ | ⟨hs, -⟩
      · rw [hs]; exact hstate
      · rw [hs]; decide
    · have hlen := hw.length_le
      simp only [List.length_map] at hlen
      rcases hroom with hnil | hlt
      · left; rw [hnil] at hlen; exact List.length_eq_zero_iff.mp (by simpa using hlen)
      · right; rw [hstep.depth]; omega
  unfold State.createEntry at h
  dsimp only at h
  split at h
  · cases h; exact happ .refl _ rfl
  · split at h
    · cases h
    · rename_i found hl
      have hv : Moves false t found.state := Moves.lookup hl .refl
      split at h
      · split at h
        · cases h; exact happ hv _ rfl
        · cases h; exact happ hv _ rfl
      · cases h; exact happ hv _ rfl

theorem Moves.dropHead {g : Bool} {i : Nat} {c : Context} (hc : t.ctx? i = some c) (ht : Moves g s t) :
    Moves g s (t.dropHead i c) := by
  unfold State.dropHead
  split
  · exact ht
  · rename_i e rest hw
    refine Moves.countStreams (fun k => by simp [StreamCounts.list, le_inc]) (Moves.releaseEntry (ht.updCtx fun d hd => ?_))
    rw [hc] at hd
    cases hd
    exact ⟨rfl, rfl, rfl, rfl, rfl, .inl ⟨rfl, rfl⟩, .inl ⟨by simp [hw], rfl⟩⟩

theorem Moves.testHead {i : Nat} (ht : Moves true s t) : Moves true s (t.testHead i).1 := by
  unfold State.testHead
  split
  · exact ht
  · rename_i c hc
    split
    · exact ht
    · split
      · exact ht.dropHead hc
      · exact ht.policyTest

/-- Serving a context is a chain of moves, whatever the bound. -/
theorem Moves.serve {i fuel : Nat} {fresh : Bool} (ht : Moves true s t) : Moves true s (t.serve i fuel fresh) := by
  induction fuel generalizing t fresh with
  | zero => exact ht
  | succ fuel ih =>
    simp only [State.serve]
    split
    · exact ht
    · rename_i c hc
      split
      · rename_i hd
        have hstate : ∀ d, t.ctx? i = some d → d.state ≠ .contending ∨ d.window ≠ [] := fun d hd' => by
          rw [hc] at hd'; cases hd'
          left; intro hs; simp [Context.delivering, hs] at hd
        split
        · split
          · exact ih ht.testHead
          · split
            · rename_i hroom
              split
              · rename_i u r hu
                exact ih (ht.createEntry hc hd (.inr hroom.1) hu).report
              · exact ht
            · exact ht
        · rename_i hnil
          split
          · split
            · exact ht.enterSpent hstate
            · exact ht
          · split
            · rename_i u r hu
              exact ih (Moves.report (ht.createEntry hc hd (.inl hnil) hu).testHead)
            · exact ht
      · exact ht

theorem Moves.staleTest {i : Nat} (ht : Moves true s t) : Moves true s (t.staleTest i) := by
  unfold State.staleTest
  split
  · exact ht
  · rename_i c hc
    split
    · split
      · split
        · exact Moves.serve (ht.dropHead hc)
        · exact ht
      · exact ht
    · exact ht

theorem Moves.staleTestAll (ht : Moves true s t) : Moves true s t.staleTestAll :=
  Moves.fold (fun _ hu => hu.staleTest) ht

end

/-! ### What moves leave alone -/

/-- The inner work leaves the status unit, the clock, the directory, the cue unit, the lane views, the extent and the
queue of commands alone, and of the bus port it only adds notices. -/
theorem Moves.frame {g : Bool} {s t : State} (h : Moves g s t) :
    t.status = s.status ∧ t.clock = s.clock ∧ t.dir = s.dir ∧ t.cue = s.cue ∧ t.delivery = s.delivery
    ∧ t.pending = s.pending ∧ t.fetch.extent = s.fetch.extent
    ∧ ∃ l, t.bus = { s.bus with notices := s.bus.notices ++ l } := by
  induction h with
  | refl => exact ⟨rfl, rfl, rfl, rfl, rfl, rfl, rfl, [], by simp⟩
  | tail _ hm ih =>
    obtain ⟨h1, h2, h3, h4, h5, h6, h7, l, h8⟩ := ih
    cases hm with
    | notice n _ => exact ⟨h1, h2, h3, h4, h5, h6, h7, l ++ [n], by simp [h8]⟩
    | count f _ _ => exact ⟨h1, h2, h3, h4, h5, h6, h7, l, h8⟩
    | context i f _ _ => exact ⟨h1, h2, h3, h4, h5, h6, h7, l, h8⟩
    | cache f _ _ => exact ⟨h1, h2, h3, h4, h5, h6, h7, l, h8⟩
    | page n j d _ => exact ⟨h1, h2, h3, h4, h5, h6, h7, l, h8⟩
    | channel c f _ _ => exact ⟨h1, h2, h3, h4, h5, h6, h7, l, h8⟩

/-- The inner work keeps the memory's canonical form. -/
theorem Moves.memoryLaw {g : Bool} {s t : State} (h : Moves g s t) (hs : s.MemoryLaw) : t.MemoryLaw := by
  induction h with
  | refl => exact hs
  | tail _ hm ih =>
    cases hm with
    | page n j d _ => exact writePage_memoryLaw ih n j d
    | cache f _ hf => unfold State.MemoryLaw at ih ⊢; rw [onCache_cache, hf.dram]; exact ih
    | notice n _ => exact ih
    | count f _ _ => exact ih
    | context i f _ _ => exact ih
    | channel c f _ _ => exact ih

end Sys2Proof.Machine
end

