-- ==== Sys2Proof/WellFormed.lean ====
section
/-! DEFINITION. Which commands the outside can send: the lengths and ranges the spec gives their operands. -/

namespace Sys2Proof

/-- The data of a page answer are the 4,096 bytes of one page (R13, R118). -/
def PageOutcome.wellFormed : PageOutcome → Bool
  | .good data => data.length == Config.pageBytes
  | .corrected data => data.length == Config.pageBytes
  | .uncorrectable => true

/-- The ranges of a command's own operands. -/
def Instr.operandsWellFormed : Instr → Bool
  | .configImageRead _ image => image.length == 64
  | .geometryReadAnswer _ _ pages => decide (pages ≤ 16777215)
  | .directoryPageRead _ _ out => out.wellFormed
  | .fetchPageRead _ _ out => out.wellFormed
  | .store _ _ _ data => data.length == Config.blockBytes
  | .offerExpiry _ ctx => decide (ctx < Config.contexts)
  | _ => true

/-- The frame a row carries, with the end delimiter of its kind and the reading of its slot where the row has one. -/
def Instr.received : Instr → Option (List Byte × Delimiter × Reading)
  | .run heard _ _ => some (heard.frame, .broadcast, .ack)
  | .timing heard _ _ => some (heard.frame, .broadcast, .ack)
  | .pause heard _ => some (heard.frame, .broadcast, .ack)
  | .stopAll heard _ => some (heard.frame, .broadcast, .ack)
  | .cue heard _ _ => some (heard.frame, .broadcast, .ack)
  | .release heard _ _ => some (heard.frame, .broadcast, .ack)
  | .ready heard _ _ => some (heard.frame, .broadcast, .ack)
  | .offerObserved heard _ reading => some (heard.frame, .addressed, reading)
  | .blockObserved heard _ _ reading => some (heard.frame, .addressed, reading)
  | .queryStatus heard _ => some (heard.frame, .addressed, .ack)
  | .serviceEnter heard _ => some (heard.frame, .addressed, .ack)
  | .serviceExit heard _ => some (heard.frame, .addressed, .ack)
  | .store heard _ _ _ => some (heard.frame, .addressed, .ack)
  | .unexpectedKind heard _ => some (heard.frame, .addressed, .ack)
  | .ackSlotEnd ended => ended.frame.map fun bytes => (bytes, .addressed, .ack)
  | _ => none

/-- A row's frame is one that amounts to that row, at the frame's own destination or at another station (R153 to
R155). Whether that station is this part, the part judges by the number it holds (R168): `State.isAddressee`. -/
def Instr.frameWellFormed (i : Instr) : Bool :=
  match i.received with
  | none => true
  | some (frame, form, reading) =>
    [Bytes.destination frame, Bytes.destination frame + 1].any fun own => frameCommand own i.elapsed frame form reading == i

/-- A command is well formed when its operands are in range, its frame is one of that row, and its elapsed time lies
within the reach of the signed comparison of local times (R19). -/
def Instr.wellFormed (i : Instr) : Bool :=
  decide (i.elapsed.toNat < 2147483648) && (i.operandsWellFormed && i.frameWellFormed)

end Sys2Proof
end

