-- ==== Sys2Proof/Laws/PerInstr.lean ====
section
/-! SUPPORT. A law of the commands as syntax, made per command: the elapsed time of a well-formed command is a
nonnegative span of the signed comparison of local times (R19). -/

namespace Sys2Proof.Laws.ElapsedSpan

/-- Whatever local time a well-formed command comes after, the span it brings reads as itself. -/
def Statement (i : Instr) : Prop :=
  i.wellFormed = true → ∀ t : Time, signedDiff (t + i.elapsed) t = (i.elapsed.toNat : Int)

theorem of_wellFormed (i : Instr) : Statement i := by
  intro h t
  have hlt : i.elapsed.toNat < 2147483648 := by
    simp only [Instr.wellFormed, Bool.and_eq_true, decide_eq_true_eq] at h
    exact h.1
  have hsub : t + i.elapsed - t = i.elapsed := add_sub_cancel_left t i.elapsed
  rw [signedDiff, hsub, BitVec.toInt_eq_toNat_cond]
  omega

theorem powerOn (straps : Station) : Statement (.powerOn straps) := of_wellFormed _
theorem configImageRead (dt : Micros) (image : List Byte) : Statement (.configImageRead dt image) := of_wellFormed _
theorem configReadTimeout (dt : Micros) : Statement (.configReadTimeout dt) := of_wellFormed _
theorem geometryReadAnswer (dt : Micros) (ch : ChannelNo) (pages : Nat) : Statement (.geometryReadAnswer dt ch pages) :=
  of_wellFormed _
theorem geometryReadTimeout (dt : Micros) (ch : ChannelNo) : Statement (.geometryReadTimeout dt ch) := of_wellFormed _
theorem directoryLoad (dt : Micros) : Statement (.directoryLoad dt) := of_wellFormed _
theorem directoryPageRead (dt : Micros) (ch : ChannelNo) (out : PageOutcome) :
    Statement (.directoryPageRead dt ch out) := of_wellFormed _
theorem pageTimeout (dt : Micros) (ch : ChannelNo) : Statement (.pageTimeout dt ch) := of_wellFormed _
theorem fetchPageRead (dt : Micros) (ch : ChannelNo) (out : PageOutcome) : Statement (.fetchPageRead dt ch out) :=
  of_wellFormed _
theorem storeTaken (dt : Micros) : Statement (.storeTaken dt) := of_wellFormed _
theorem programBegin (dt : Micros) : Statement (.programBegin dt) := of_wellFormed _
theorem programOperationComplete (dt : Micros) (success : Bool) : Statement (.programOperationComplete dt success) :=
  of_wellFormed _
theorem programTimeout (dt : Micros) : Statement (.programTimeout dt) := of_wellFormed _
theorem markEdge (dt : Micros) : Statement (.markEdge dt) := of_wellFormed _
theorem watchExpiry (dt : Micros) : Statement (.watchExpiry dt) := of_wellFormed _
theorem run (heard : Heard) (src : Station) (value : Time) : Statement (.run heard src value) :=
  of_wellFormed _
theorem timing (heard : Heard) (src : Station) (value : Time) :
    Statement (.timing heard src value) := of_wellFormed _
theorem pause (heard : Heard) (src : Station) : Statement (.pause heard src) := of_wellFormed _
theorem stopAll (heard : Heard) (src : Station) : Statement (.stopAll heard src) := of_wellFormed _
theorem cue (heard : Heard) (src : Station) (fields : CueFields) :
    Statement (.cue heard src fields) := of_wellFormed _
theorem release (heard : Heard) (src : Station) (fields : ReleaseFields) :
    Statement (.release heard src fields) := of_wellFormed _
theorem ready (heard : Heard) (src : Station) (openSet : LaneSet) :
    Statement (.ready heard src openSet) := of_wellFormed _
theorem offerObserved (heard : Heard) (id : StreamId) (reading : Reading) :
    Statement (.offerObserved heard id reading) := of_wellFormed _
theorem blockObserved (heard : Heard) (dest : Station) (lane : Byte) (reading : Reading) :
    Statement (.blockObserved heard dest lane reading) := of_wellFormed _
theorem queryStatus (heard : Heard) (src : Station) : Statement (.queryStatus heard src) :=
  of_wellFormed _
theorem serviceEnter (heard : Heard) (src : Station) : Statement (.serviceEnter heard src) :=
  of_wellFormed _
theorem serviceExit (heard : Heard) (src : Station) : Statement (.serviceExit heard src) :=
  of_wellFormed _
theorem store (heard : Heard) (src : Station) (address : BitVec 32) (data : List Byte) :
    Statement (.store heard src address data) := of_wellFormed _
theorem unexpectedKind (heard : Heard) (kind : UnexpectedKind) :
    Statement (.unexpectedKind heard kind) := of_wellFormed _
theorem malformed (dt : Micros) (form : Delimiter) : Statement (.malformed dt form) := of_wellFormed _
theorem checkFailure (dt : Micros) (form : Delimiter) : Statement (.checkFailure dt form) := of_wellFormed _
theorem brokenFrame (dt : Micros) (dominant : Bool) : Statement (.brokenFrame dt dominant) := of_wellFormed _
theorem ackSlotEnd (ended : SlotEnd) : Statement (.ackSlotEnd ended) := of_wellFormed _
theorem contestStart (dt : Micros) : Statement (.contestStart dt) := of_wellFormed _
theorem contestWon (dt : Micros) : Statement (.contestWon dt) := of_wellFormed _
theorem contestLost (dt : Micros) : Statement (.contestLost dt) := of_wellFormed _
theorem emptyContest (dt : Micros) : Statement (.emptyContest dt) := of_wellFormed _
theorem ownOfferAck (dt : Micros) : Statement (.ownOfferAck dt) := of_wellFormed _
theorem ownOfferNack (dt : Micros) : Statement (.ownOfferNack dt) := of_wellFormed _
theorem ownBlockAck (dt : Micros) : Statement (.ownBlockAck dt) := of_wellFormed _
theorem ownBlockNack (dt : Micros) : Statement (.ownBlockNack dt) := of_wellFormed _
theorem endSent (dt : Micros) (reading : Reading) : Statement (.endSent dt reading) := of_wellFormed _
theorem storedSent (dt : Micros) (reading : Reading) : Statement (.storedSent dt reading) := of_wellFormed _
theorem stateSent (dt : Micros) (reading : Reading) : Statement (.stateSent dt reading) := of_wellFormed _
theorem gapEnd (dt : Micros) : Statement (.gapEnd dt) := of_wellFormed _
theorem busSync (dt : Micros) (cause : SyncCause) : Statement (.busSync dt cause) := of_wellFormed _
theorem busStuck (dt : Micros) : Statement (.busStuck dt) := of_wellFormed _
theorem offerExpiry (dt : Micros) (ctx : Nat) : Statement (.offerExpiry dt ctx) := of_wellFormed _
theorem clearAsserted (dt : Micros) : Statement (.clearAsserted dt) := of_wellFormed _
theorem clearCounts (dt : Micros) : Statement (.clearCounts dt) := of_wellFormed _
theorem clearRelease (dt : Micros) : Statement (.clearRelease dt) := of_wellFormed _
theorem shortClear (dt : Micros) : Statement (.shortClear dt) := of_wellFormed _
theorem lineGoesRecessive (dt : Micros) : Statement (.lineGoesRecessive dt) := of_wellFormed _

end Sys2Proof.Laws.ElapsedSpan
end

