-- ==== Sys2Proof/Laws/Reads.lean ====
section
/-! SUPPORT. The answers of the flash, said once: an answer within 2,000 µs completes its operation, and a later one has the
effect of the operation's timeout (R17, R118, R127, log 2). -/

namespace Sys2Proof.Machine

theorem answerLate_iff (s : State) (op : Operation) : s.answerLate op = true ↔ 2000 < signedDiff s.now op.issued := by
  unfold State.answerLate State.ran Config.pageTimeout
  rw [decide_eq_true_iff]
  omega

theorem takeAnswer_inTime {s : State} {op : Operation} (c : ChannelNo) (out : PageOutcome)
    (h : signedDiff s.now op.issued ≤ 2000) : s.takeAnswer c op out = s.answered c op.kind out :=
  if_neg fun hl => absurd ((answerLate_iff s op).mp hl) (by omega)

theorem takeAnswer_late {s : State} {op : Operation} (c : ChannelNo) (out : PageOutcome)
    (h : 2000 < signedDiff s.now op.issued) : s.takeAnswer c op out = s.timedOut c op.kind :=
  if_pos ((answerLate_iff s op).mpr h)

/-- An operation whose answer comes too late has run its 2,000 µs. -/
theorem ran_of_answerLate {s : State} {op : Operation} (h : s.answerLate op = true) :
    s.ran op.issued Config.pageTimeout = true := by
  rw [answerLate_iff] at h
  unfold State.ran Config.pageTimeout
  rw [decide_eq_true_iff]
  omega

section Late

variable {dt : Micros} {ch : ChannelNo} {op : Operation} {s : State}

theorem execFetchPageRead_late (out : PageOutcome) (hop : ((s.elapse dt).chan ch).op = some op)
    (hr : op.kind.readsFetch = true) (hl : (s.elapse dt).answerLate op = true) :
    execFetchPageRead dt ch out s = execPageTimeout dt ch s := by
  simp only [execFetchPageRead, execPageTimeout, State.command, hop, hr, State.takeAnswer, hl, ran_of_answerLate hl, if_true]

theorem execDirectoryPageRead_late (out : PageOutcome) (hop : ((s.elapse dt).chan ch).op = some op)
    (hr : op.kind.readsDirectory = true) (hl : (s.elapse dt).answerLate op = true) :
    execDirectoryPageRead dt ch out s = execPageTimeout dt ch s := by
  simp only [execDirectoryPageRead, execPageTimeout, State.command, hop, hr, State.takeAnswer, hl, ran_of_answerLate hl,
    if_true]

theorem execGeometryReadAnswer_late (pages : Nat) (hop : (s.elapse dt).probeOn ch = some op)
    (hl : (s.elapse dt).answerLate op = true) :
    execGeometryReadAnswer dt ch pages s = execGeometryReadTimeout dt ch s := by
  simp only [execGeometryReadAnswer, execGeometryReadTimeout, State.command, hop, hl, ran_of_answerLate hl, if_true]

theorem execProgramOperationComplete_late {p : Program} (success : Bool)
    (hop : (s.elapse dt).programOperation = some (p, op)) (hl : (s.elapse dt).answerLate op = true) :
    execProgramOperationComplete dt success s = execProgramTimeout dt s := by
  simp [execProgramOperationComplete, execProgramTimeout, State.command, hop, hl, ran_of_answerLate hl]

end Late

end Sys2Proof.Machine
end

