-- ==== Sys2Proof/Tests/Slice0.lean ====
section
/-! SUPPORT. The model's own tests: one ill-formed term for each check of WellFormed, words and figures worked by hand
from the manual, and for every statement with hypotheses a state that meets them. -/

namespace Sys2Proof.Tests

set_option Elab.async false

open Sys2Proof.Machine

/-! ### Small states -/

/-- A good image's fields: bridges 1 and 2, clock station 1, lead 1,024, margin 256, demand capacity 4,000. -/
def config : ConfigImage where
  bridges := [1, 2]
  clockStation := 1
  rateCode := 1
  gapCode := 1
  lead := 1024
  margin := 256
  capacity := 4000
  zoneMatch := 0x100000
  zoneMask := 0xF00000

/-- The first 62 bytes of the image with those fields, laid out by R169; the bridge count as given. -/
def imageBody (bridges : Byte) : List Byte :=
  [bridges, 1, 2, 0, 0, 1, 1, 1, 4, 0, 1, 0, 0x0F, 0xA0, 0x10, 0, 0, 0xF0, 0, 0] ++ List.replicate 42 0

/-- The image with its last word as given; R169's sum holds for 0x7AC7 when the bridge count is 2. -/
def image (bridges : Byte) (last : Nat) : List Byte := imageBody bridges ++ Bytes.be 2 last

/-- A stereo24 zone of 480,000 frames, none of its blocks stored. -/
def zone : ZoneRecord where
  zone := 0x100010
  format := .stereo24
  length := 480000
  base := 10
  stored := 235
  loop := none
  effective := 0
  short := true

/-- A channel that answered its probe. -/
def probed : Channel := { Channel.powerOn with pageCount := some 15000 }

/-- The part in SERVING at count 1,000, the bus in GAP, the lanes of bridge 2 open. -/
def serving : State :=
  { State.reset with
    status := { State.reset.status with phase := .serving, station := 5, config := some config }
    bus := { State.reset.bus with state := .gap }
    clock := { State.reset.clock with state := .running, sfc := 1000, interval := some 1333 }
    dir := { State.reset.dir with table := [zone], loaded := some { records := 1, blocks := 3 } }
    fetch := { channels := Vector.replicate 8 probed, extent := 40000 }
    delivery := { State.reset.delivery with views := [(1, 0), (2, 0xFF)] } }

/-- The entry at a played index of the zone's plain sequence, phantom and ready. -/
def entry (k : Nat) (leaveTime : Time) : Entry where
  pos := k
  index := k
  part := .first
  k := k
  need := BitVec.ofNat 48 (2048 * k)
  leave := BitVec.ofNat 48 (2048 * k + 2048)
  deadline := BitVec.ofNat 32 (2048 * k) - 1024
  leaveTime := leaveTime
  eligible := none
  phantom := true
  slot := none
  ready := true
  patched := 0
  busPhase := .none

/-- A RUNNING stream of bridge 2 over the zone, two entries in its window of depth 2. -/
def stream : Context where
  id := 0x2007
  zone := zone
  f0 := 0
  origin := 0
  rate := 65536
  depth := 2
  demand := 6
  lane := 3
  policy := .tolerant
  activeLoop := false
  state := .running
  releaseMode := .none
  exitPass := none
  cutDistance := none
  gen := { part := .first, k := 2, pos := 2, index := 2, overrun := 0, closed := false }
  window := [entry 0 2048, entry 1 4096]
  delivered := 0
  dropped := 0
  patched := 0
  nacks := 0
  endReason := none
  offer := none

/-- The same stream CONTENDING, its offer in a phase. -/
def contending (phase : OfferPhase) : Context :=
  { stream with
    state := .contending, window := []
    gen := { part := .first, k := 0, pos := 0, index := 0, overrun := 0, closed := false }
    offer := some { phase := phase, expiry := 0, lapsed := false } }

/-- SERVING with context 0 as given. -/
def holding (c : Context) : State :=
  { serving with cue := { serving.cue with demandSum := c.demand }, streams := { serving.streams with contexts := [(0, c)] } }

/-- A state with another bus state. -/
def onBus (b : BusState) (s : State) : State := { s with bus := { s.bus with state := b } }

/-- A frame of station 5's own. -/
def ownFrame (dest : Station) (body : FrameBody) : WireFrame := { urgency := 0, source := 5, dest := dest, body := body }

/-- The BLOCK of the stream's head. -/
def headBlock : BlockFields := { id := 0x2007, lane := 3, flags := 0x80, k := 0, pass := 0, data := [] }

/-- The 7240 holds the bus with an item, presented or sent. -/
def tenured (item : OwnItem) (body : FrameBody) (sent : Bool) (s : State) : State :=
  { s with bus := { s.bus with
      state := .busy, tenure := some { item := item, frame := ownFrame 2 body, sent := sent } } }

/-- Channel c carries out an operation issued at local time 0. -/
def doing (c : ChannelNo) (kind : OperationKind) (s : State) : State :=
  s.updChan c fun k => { k with op := some { kind := kind, issued := 0 } }

/-- A state in another phase. -/
def inPhase (p : Phase) (s : State) : State := { s with status := { s.status with phase := p } }

/-- A state with the CLEAR line as given. -/
def clearLine (l : ClearLine) (s : State) : State := { s with bus := { s.bus with clear := l } }

/-- A directory load in progress, its page still to be read. -/
def loadingIdle (l : DirectoryLoad) : State :=
  inPhase .directoryLoad { serving with dir := { serving.dir with table := [], loaded := none, load := some l } }

/-- A directory load in progress, its page read on channel 0. -/
def loading (l : DirectoryLoad) : State := doing 0 .directoryPage (loadingIdle l)

/-- A header page's first twelve bytes. -/
def headerBytes (records blocks : Nat) : List Byte := Bytes.be 4 0x72400D1A ++ Bytes.be 4 records ++ Bytes.be 4 blocks

/-- The fetch of block 2 of the zone, stored at flash block 12 on channel 4, into slot 0, with pages done as given. -/
def fetchOf (done : Nat) : Fetch where
  slot := 0
  block := 12
  deadline := 55
  pagesDone := done
  cancelPending := false
  order := 0

/-- Slot 0 in a state, holding block 2 of the zone. -/
def slotIn (state : SlotState) (refs done : Nat) : Slot where
  state := state
  zone := 0x100010
  k := 2
  refs := refs
  pagesDone := done
  patched := 0
  deadline := 55

/-- The slot that fetch fills. -/
def slotOf (refs done : Nat) : Slot := slotIn .filling refs done

/-- An entry that refers to slot 0 and awaits its block. -/
def heldEntry : Entry := { entry 0 2048 with phantom := false, slot := some 0, ready := false }

/-- One slot, one context, and one channel as given: slot 0 is the only one that is not EMPTY, and channel 4 the only one
with anything queued. -/
def cached (slot : Slot) (c : Context) (k : Channel) : State :=
  { holding c with
    cache := { serving.cache with
      slots := [(0, slot)], freeNext := 1, reclaim := if slot.state = .valid ∧ slot.refs = 0 then [0] else [] }
    fetch := { serving.fetch with channels := serving.fetch.channels.set 4 k } }

/-- Channel 4 with that fetch, carrying out an operation. -/
def fetchingChannel (kind : OperationKind) (done : Nat) : Channel :=
  { probed with queue := [fetchOf done], op := some { kind := kind, issued := 0 } }

/-- Channel 4 reads a page of that fetch, its slot referred to by so many entries. -/
def fetching (refs done : Nat) : State :=
  cached (slotOf refs done) { stream with window := List.replicate refs heldEntry } (fetchingChannel (.fetchPage 0) done)

/-- In SERVICE for bridge 2, with the store requests and the program given; blocks 5 to 7 are barred. -/
def service (queue : List StoreRequest) (program : Option Program) : State :=
  inPhase .service { serving with dir := { serving.dir with
    serviceStation := some 2, storeQueue := queue, program := program, layout := some { blocks := 8, recordBlocks := 4 } } }

/-- A STORE request of bridge 2. -/
def request (a : Nat) : StoreRequest := { station := 2, address := BitVec.ofNat 32 a, data := [1] }

/-- A program of that request. -/
def programOf (a : Nat) (stage : ProgramStage) : Program := { request := request a, stage := stage, silent := false }

/-- The clock in a state, its last edge at 0, interval 1,333, watch at 1,999, local time as given. -/
def clocked (st : ClockState) (run : Nat) (load : Option PendingLoad) (now : Time) : State :=
  { serving with clock := { serving.clock with
      state := st, synthRun := run, load := load, localTime := now, lastEdge := some 0, watch := some 1999 } }

/-- A CUE of bridge 2 for the zone. -/
def cueFields (id : StreamId) (zone : Zone) : CueFields where
  id := id
  zone := zone
  lane := 3
  f0 := 0
  origin := 2000
  rate := 65536
  depth := 2
  policy := 0

/-- The first n contexts taken, by streams of bridge 3. -/
def taken (n : Nat) : State :=
  { serving with streams := { serving.streams with
      contexts := (List.range n).map fun i => (i, { stream with id := BitVec.ofNat 16 (0x3000 + i) }) } }

/-! ### Ill-formed terms refused (WellFormed) -/

theorem test_elapsed_beyond_signed_reach : (Instr.markEdge 0x80000000).wellFormed = false := by decide
theorem test_elapsed_at_its_limit : (Instr.markEdge 0x7FFFFFFF).wellFormed = true := by decide
theorem test_image_too_short : (Instr.configImageRead 0 (imageBody 2)).wellFormed = false := by decide
theorem test_image_of_64_bytes : (Instr.configImageRead 0 (image 2 0)).wellFormed = true := by decide
theorem test_page_count_beyond_limit : (Instr.geometryReadAnswer 0 3 16777216).wellFormed = false := by decide
theorem test_page_count_at_limit : (Instr.geometryReadAnswer 0 3 16777215).wellFormed = true := by decide
theorem test_directory_page_too_short : (Instr.directoryPageRead 0 0 (.good [1])).wellFormed = false := by decide
theorem test_fetch_page_too_short : (Instr.fetchPageRead 0 0 (.corrected [])).wellFormed = false := by decide
theorem test_uncorrectable_page : (Instr.fetchPageRead 0 0 .uncorrectable).wellFormed = true := by decide
theorem test_store_too_short : (Instr.store ⟨0, []⟩ 1 0 [1, 2]).wellFormed = false := by decide
theorem test_context_beyond_table : (Instr.offerExpiry 0 1024).wellFormed = false := by decide
theorem test_last_context : (Instr.offerExpiry 0 1023).wellFormed = true := by decide

/-- A RUN of station 1 carrying 0x01020304, byte for byte by R161 to R164, its check worked apart from the model. -/
def runBytes : List Byte := [0x00, 0x01, 0x08, 0x01, 0x00, 0x04, 0x01, 0x02, 0x03, 0x04, 0x99, 0x0A, 0x27, 0xBB]

/-- A SERVICE-ENTER of station 2 addressed to station 5. -/
def enterBytes : List Byte := [0x70, 0x02, 0x50, 0x02, 0x00, 0x00, 0x7C, 0xAF, 0x38, 0x33]

theorem test_frame_of_its_row : (Instr.run ⟨0, runBytes⟩ 1 0x01020304).wellFormed = true := by decide +kernel
theorem test_frame_of_another_value : (Instr.run ⟨0, runBytes⟩ 1 0x01020305).wellFormed = false := by decide +kernel
theorem test_frame_of_another_row : (Instr.ackSlotEnd ⟨0, some runBytes⟩).wellFormed = false := by decide +kernel
theorem test_frame_to_another_station : (Instr.ackSlotEnd ⟨0, some enterBytes⟩).wellFormed = true := by decide +kernel
theorem test_frame_cut_short : (Instr.serviceEnter ⟨0, enterBytes.take 9⟩ 2).wellFormed = false := by decide +kernel

/-! ### Words, frames and the check -/

/-- The check value of the CRC's published test string "123456789" under R162's polynomial, order and inversion. -/
theorem test_crc_check_value :
    Bytes.crc [0x31, 0x32, 0x33, 0x34, 0x35, 0x36, 0x37, 0x38, 0x39] = 0xFC891918 := by decide +kernel

/-- The words of the example of 9.8: the OFFER's, X's BLOCK's, the END's and the STATE's. -/
theorem test_words_of_the_six_tenures :
    ({ urgency := 33, source := 5, dest := 2, body := .offer 0x2011 0 } : WireFrame).word = 0x4215
    ∧ ({ urgency := 6, source := 5, dest := 1, body := .block headBlock } : WireFrame).word = 0x5065
    ∧ (ownFrame 1 (.endNotice 0x1031 1 0 0 0)).word = 0x6005 ∧ (ownFrame 2 (.state [])).word = 0x7005 := by
  decide +kernel

theorem test_run_frame_read :
    frameCommand 5 0 runBytes .broadcast .ack = .run ⟨0, runBytes⟩ 1 0x01020304 := by decide +kernel

/-- The same frame with one payload bit turned over fails its check. -/
theorem test_run_frame_damaged :
    frameCommand 5 0 [0x00, 0x01, 0x08, 0x01, 0x00, 0x04, 0x01, 0x02, 0x03, 0x05, 0x99, 0x0A, 0x27, 0xBB] .broadcast .ack
      = .checkFailure 0 .broadcast := by decide +kernel

/-- The SERVICE-ENTER is for station 5 a row of its own, for station 6 a frame it only tracks. -/
theorem test_service_enter_frame_read :
    frameCommand 5 0 enterBytes .addressed .ack = .serviceEnter ⟨0, enterBytes⟩ 2
    ∧ frameCommand 6 0 enterBytes .addressed .ack = .ackSlotEnd ⟨0, some enterBytes⟩ := by decide +kernel

theorem test_no_table_word_spells_a_command : decodeTableWord 8 0 = none := rfl

/-! ### The manual's worked figures -/

/-- The load with every check (1.3): the three records accepted, with their counts. -/
theorem test_load_with_every_check :
    let raw := fun z f n b st l =>
      ({ zone := BitVec.ofNat 24 z, format := f, length := n, base := b, stored := st, loop := l } : RawRecord)
    let records := [raw 0x100010 4 480000 100 235 none, raw 0x100020 3 200000 400 49 (some ⟨50000, 150000⟩),
      raw 0x100020 3 200000 900 49 none, raw 0x200005 1 90000 1000 15 none,
      raw 0x100030 2 100000 39990 33 (some ⟨10000, 10200⟩), raw 0x100040 1 0 2000 1 none]
    let r := records.foldl (checkRecord config 40000 3) ([], Directory.powerOn.counts)
    (r.1.map fun z => (z.zone, z.effective, z.loop.isSome, z.short))
        = [(0x100010, 235, false, false), (0x100020, 49, true, false), (0x100030, 10, false, true)]
      ∧ r.2.list = [0, 1, 0, 1, 1, 1, 1, 0, 0, 0, 0, 0, 0] := by decide +kernel

/-- The stream of 3.8. -/
def plain : Context :=
  { stream with f0 := 12000, origin := 1000000, rate := 98304, depth := 4, window := [] }

/-- 3.8: the demand, the load figure and the urgencies of the four slacks. -/
theorem test_plain_stream_figures :
    demandOf 98304 .stereo24 = 9 ∧ loadFigure 1209 4000 = 77 ∧ urgencyOf (-24) = 0 ∧ urgencyOf 168 = 2
    ∧ urgencyOf 1534 = 23 ∧ urgencyOf 2899 = 45 ∧ plain.distanceAt 1002000 = 3000 := by decide +kernel

/-- 3.8: deadline, leave time and eligibility of played indexes 0, 1 and 4. -/
theorem test_plain_stream_times :
    let times := fun j =>
      let e := plain.playedAt j
      (e.2, plain.timeOf (plain.needAt e.1 e.2) - 1024, plain.timeOf (plain.leaveAt e.1 e.2), plain.eligibilityOf j)
    times 0 = (5, 998976, 1000192, none) ∧ times 1 = (6, 999168, 1001558, none)
    ∧ times 4 = (9, 1003264, 1005654, some 1000192) := by decide +kernel

/-- The stream of 3.9, its exit pass fixed at 2. -/
def looped : Context :=
  { stream with
    zone := { zone with format := .mono16, length := 30000, loop := some { first := 6000, stop := 18000 } }
    origin := 10000, rate := 131072, depth := 4, activeLoop := true, exitPass := some 2
    gen := { part := .pass 3, k := 2, pos := 11, index := 11, overrun := 0, closed := false } }

/-- Pass number, block, distances, leave time and eligibility time of a played index. -/
def loopedRow (j : Nat) : Nat × Nat × (Nat × Nat) × Time × Option Time :=
  let e := looped.playedAt j
  (e.1.passNumber, e.2, looped.span e.1 e.2, looped.timeOf (looped.leaveAt e.1 e.2), looped.eligibilityOf j)

/-- 3.9: the exit pass and the rows j = 3, 8, 9 and 11 of the table. -/
theorem test_short_loop_rows :
    looped.exitPassAt ⟨6000, 18000⟩ (looped.distanceAt 25000) = 2
    ∧ looped.exitPassAt ⟨6000, 18000⟩ (looped.distanceAt 24999) = 1
    ∧ loopedRow 3 = (1, 0, (18000, 18144), 19072, none) ∧ loopedRow 8 = (2, 2, (36288, 42000), 31000, some 22144)
    ∧ loopedRow 9 = (65535, 2, (42000, 42432), 31216, some 25000)
    ∧ loopedRow 11 = (65535, 4, (48576, 54000), 37000, some 28144) := by
  refine ⟨by decide +kernel, by decide +kernel, ?_, ?_, ?_, ?_⟩ <;> decide +kernel

/-- 3.9's overrun: past two entries of pass 3, the generator stands at the first coda entry, position 11, index 9. -/
theorem test_overrun :
    looped.exitGenerator ⟨6000, 18000⟩ 2
      = { part := .coda, k := 2, pos := 11, index := 9, overrun := 2, closed := false } := by decide +kernel

/-- The SERVICE-ENTER to station 5 at station 6: its slot is not driven and the part stays in SERVING. -/
theorem test_frame_to_another_station_not_taken :
    ∃ t, exec (.serviceEnter ⟨0, enterBytes⟩ 2) { serving with status := { serving.status with station := 6 } } = .next t
      ∧ t.status.phase = .serving ∧ t.bus.state = .ackSlot false := by
  refine ⟨_, rfl, ?_, ?_⟩ <;> decide +kernel

/-- At station 5 it is taken, by its own row and at the end of its slot. -/
theorem test_frame_to_this_station_taken :
    (∃ t, exec (.serviceEnter ⟨0, enterBytes⟩ 2) serving = .next t ∧ t.status.phase = .service
      ∧ t.bus.state = .ackSlot true)
    ∧ ∃ t, exec (.ackSlotEnd ⟨0, some enterBytes⟩) (onBus .busy serving) = .next t ∧ t.status.phase = .service
      ∧ t.bus.state = .gap := by
  refine ⟨⟨_, rfl, ?_, ?_⟩, _, rfl, ?_, ?_⟩ <;> decide +kernel

/-- A line that a broken frame left dominant has no slot to end; it goes on until the line goes recessive (R147). -/
theorem test_dominant_line_stays_busy :
    (∃ t, exec (.ackSlotEnd ⟨0, none⟩) (onBus .busyDominant serving) = .next t ∧ t.bus.state = .busyDominant)
    ∧ ∃ t, exec (.lineGoesRecessive 0) (onBus .busyDominant serving) = .next t ∧ t.bus.state = .gap := by
  refine ⟨⟨_, rfl, ?_⟩, _, rfl, ?_⟩ <;> decide +kernel

/-- An acknowledged BLOCK closes a lane and is counted, but not while a counted CLEAR is asserted (R133, R136). -/
theorem test_block_observed :
    (∃ t, exec (.blockObserved ⟨0, []⟩ 2 3 .ack) serving = .next t ∧ t.laneOpen 2 3 = false
      ∧ t.delivery.counts.foreignBlock = 1)
    ∧ ∃ t, exec (.blockObserved ⟨0, []⟩ 2 3 .ack) (clearLine .counted serving) = .next t
      ∧ t.delivery = serving.delivery := by
  refine ⟨⟨_, rfl, ?_, ?_⟩, _, rfl, ?_⟩ <;> decide +kernel

/-- The part right after power-on releases FAULT and counts nothing (R175, R174). -/
theorem test_reset_is_silent : State.reset.status.faultDriven = false ∧ ∀ k ∈ State.reset.counts, k = 0 := by
  refine ⟨rfl, ?_⟩
  rw [← List.forall_iff_forall_mem]
  decide +kernel

/-! ### For every statement with hypotheses, a state that meets them, clause by clause -/

/-- A state that holds one context meets the law of the tables. -/
theorem holding_tableLaw (c : Context) : (holding c).TableLaw := by
  refine ⟨List.pairwise_singleton _ _, ?_, List.Pairwise.nil, by simp [holding, serving, State.reset, State.powerOn,
    Cache.powerOn]⟩
  intro p hp
  simp only [holding, List.mem_singleton] at hp
  subst hp
  exact Nat.zero_lt_succ _

theorem serving_tableLaw : serving.TableLaw :=
  ⟨List.Pairwise.nil, by simp [serving, State.reset, State.powerOn, StreamEngine.powerOn], List.Pairwise.nil,
    by simp [serving, State.reset, State.powerOn, Cache.powerOn]⟩

theorem cached_slot? (slot : Slot) (c : Context) (k : Channel) (n : SlotNo) :
    (cached slot c k).slot? n = if n = 0 then some slot else none := by
  by_cases h : n = 0
  · subst h
    rfl
  · have h' : ¬ 0 = n.val := fun e => h (Fin.ext e.symm)
    simp [State.slot?, cached, Sparse.get, h, h']

theorem cached_tableLaw (slot : Slot) (c : Context) (k : Channel) : (cached slot c k).TableLaw :=
  ⟨(holding_tableLaw c).1, (holding_tableLaw c).2.1, List.pairwise_singleton _ _, by simp [cached, Config.slots]⟩

/-- The cache law of that state, by what the slot's record and the context's window say of each other. -/
theorem cached_cacheLaw {slot : Slot} {c : Context} (k : Channel)
    (hw : ∀ e ∈ c.window, e.slot.all (· == 0) = true)
    (hr : slot.refs = (c.window.filter fun e => e.slot.map Fin.val == some 0).length)
    (hp : slot.state = .patched → slot.refs ≠ 0) (hs : c.state = .spent → c.window = []) :
    (cached slot c k).CacheLaw := by
  refine ⟨List.nodup_singleton _, ?_, ?_, Nat.le_of_ble_eq_true rfl, List.nodup_nil, by simp [cached, serving, State.reset,
    State.powerOn, Cache.powerOn], ?_, ?_, ?_, ?_, ?_⟩
  · simp [cached, State.refsTo, holding, hr]
  · intro p hp' e he n hn
    simp only [cached, holding, List.mem_singleton] at hp'
    subst hp'
    have h0 : n = 0 := by simpa [hn] using hw e he
    simp [cached_slot?, h0]
  · intro n
    rw [cached_slot?]
    have h : 1 ≤ n.val ↔ n ≠ 0 := by rw [Nat.one_le_iff_ne_zero, Ne, Ne, Fin.ext_iff]; rfl
    show _ ↔ n ∈ ([] : List SlotNo) ∨ 1 ≤ n.val
    by_cases hn : n = 0 <;> simp [hn, h]
  · unfold cached
    dsimp only
    split <;> simp
  · intro n
    rw [cached_slot?]
    show n ∈ (if slot.state = .valid ∧ slot.refs = 0 then [0] else []) ↔ _
    split
    · rename_i hv
      refine ⟨fun h => ⟨slot, if_pos (List.mem_singleton.mp h), hv⟩, ?_⟩
      rintro ⟨x, h, -⟩
      split at h
      · exact List.mem_singleton.mpr ‹_›
      · cases h
    · rename_i hv
      refine ⟨fun h => absurd h List.not_mem_nil, ?_⟩
      rintro ⟨x, h, hx⟩
      split at h
      · cases h
        exact absurd hx hv
      · cases h
  · simpa [cached] using hp
  · simpa [cached, holding] using hs

/-- The fetch law of that state, with one fetch queued. -/
theorem cached_fetchLaw {slot : Slot} (c : Context) {k : Channel} {f : Fetch} (hk : k.queue = [f]) (hf : f.slot = 0)
    (hb : channelOf f.block = 4) (hd : f.pagesDone < 3) (hs : slot.state = .filling)
    (hc : f.cancelPending = true → slot.refs = 0)
    (ho : k.op.all (fun op => match op.kind with | .fetchPage n => n == 0 | _ => true) = true := by rfl) :
    (cached slot c k).FetchLaw := by
  have hx : ∀ x : ChannelNo, (cached slot c k).chan x = if x = 4 then k else probed := by
    intro x
    fin_cases x <;> rfl
  have hq : ∀ x : ChannelNo, ((cached slot c k).chan x).queue = if x = 4 then [f] else [] := by
    intro x
    rw [hx]
    split <;> simp [hk, probed, Channel.powerOn]
  refine ⟨?_, ?_, ?_, ?_, ?_, ?_⟩
  · intro x g hg
    rw [hq] at hg
    split at hg
    · simp only [List.mem_singleton] at hg
      subst hg
      exact ⟨by simp_all, hd, slot, by rw [cached_slot?, if_pos hf], hs, hc⟩
    · simp at hg
  · intro x
    rw [hq]
    split <;> simp
  · intro x y g hg g' hg' _
    rw [hq] at hg hg'
    split at hg <;> split at hg' <;> simp_all
  · intro n slot' _ _
    refine ⟨4, f, by rw [hq]; simp, ?_⟩
    rename_i h _
    rw [cached_slot?] at h
    split at h <;> simp_all
  · intro x n issued h
    rw [hx] at h
    split at h
    · rename_i h4
      refine ⟨f, by rw [hq, if_pos h4]; exact List.mem_singleton.mpr rfl, ?_⟩
      rw [h] at ho
      exact hf.trans (eq_of_beq (show (n == 0) = true from ho)).symm
    · cases h
  · intro x
    have : ((cached slot c k).chan x).partials.length ≤ 1 :=
      Nat.le_trans (List.length_filter_le _ _) (by rw [hq]; split <;> simp)
    omega

/-- What holds of the head of a list, checked by evaluation. -/
theorem head_of_all {l : List Entry} {P : Entry → Prop} [DecidablePred P]
    (h : l.head?.all (fun e => decide (P e)) = true) : ∀ e rest, l = e :: rest → P e := by
  rintro e rest rfl
  simpa using h

/-- Stale heads dropped, for a TOLERANT stream whose window, refilled with phantoms, has no stale head. -/
theorem serves {s : State} {c : Context} {gone stay : List Entry} (hw : c.window = gone ++ stay)
    (hg : ∀ e ∈ gone, e.busPhase = .none ∧ 0 ≤ signedDiff s.clock.sfc e.leaveTime)
    (hc : c.gen.closed = true ∨ c.zone.effective = 0) (hp : c.policy = .tolerant)
    (hr : (Context.fillPhantoms s.lead (c.depth - stay.length) { c with window := stay }).window.head?.all
      (fun e => decide (e.isStale s.clock.sfc = false)) = true) : s.ServesHeads c gone stay :=
  ⟨hw, hg, hc, head_of_all hr, .inl hp⟩

theorem witness_StepRunsFrontCommand :
    ({ serving with pending := [.storeTaken 1, .markEdge 0] } : State).pending = .storeTaken 1 :: [.markEdge 0] := rfl

/-- For StandingConditions, WhatCommandsMayMove, CountsNeverFall and PhaseMovesByTheTable: commands that answer a next
state, with the premises of the clauses. -/
theorem witness_StandingConditions :
    (∃ t, exec (.storeTaken 0) serving = .next t) ∧ (∀ straps, Instr.storeTaken 0 ≠ .powerOn straps)
    ∧ (∀ dt, Instr.storeTaken 0 ≠ .directoryLoad dt) ∧ ¬ serving.TimesOut (.storeTaken 0) ∧ serving.LoadLaw
    ∧ (∃ t, exec (.gapEnd 0) serving = .next t ∧ t.bus.state = .free ∧ t.cleared = false
        ∧ t.status.phase ≠ .configLoad)
    ∧ (serving.status.faultDriven = false
      ∧ ∃ t, exec (.pageTimeout 2000 4) ((doing 4 .discardedFetchPage serving).updChan 4 fun k => { k with timeouts := 2 })
        = .next t ∧ t.status.faultDriven = true) := by
  refine ⟨⟨_, rfl⟩, by simp, by simp, by simp [State.TimesOut], by simp [State.LoadLaw, serving, State.reset, State.powerOn, Directory.powerOn],
    ⟨_, rfl, by decide +kernel, by decide +kernel, by decide +kernel⟩, by decide +kernel, _, rfl, by decide +kernel⟩

/-- The third answer in a row that comes a microsecond too late, of a discarded read, takes the channel OFFLINE; in time it
completes the read. -/
theorem witness_StandingConditions_late :
    let s := (doing 4 .discardedFetchPage serving).updChan 4 fun k => { k with timeouts := 2 }
    (s.TimesOut (.fetchPageRead 2001 4 .uncorrectable)
      ∧ ∃ t, exec (.fetchPageRead 2001 4 .uncorrectable) s = .next t ∧ t.status.faultDriven = true)
    ∧ (¬ s.TimesOut (.fetchPageRead 2000 4 .uncorrectable)
      ∧ ∃ t, exec (.fetchPageRead 2000 4 .uncorrectable) s = .next t ∧ t.status.faultDriven = false) := by
  refine ⟨⟨.inr ⟨_, _, _, _, .inl rfl, rfl, by decide +kernel⟩, _, rfl, by decide +kernel⟩, ?_, _, rfl, by decide +kernel⟩
  rintro (⟨_, _, h⟩ | ⟨_, _, _, op, h | h, ho, hw⟩)
  · cases h
  · cases h
    have : op = { kind := .discardedFetchPage, issued := 0 } := by
      have hs : some op = some { kind := .discardedFetchPage, issued := 0 } := ho.symm.trans (by decide +kernel)
      exact Option.some.inj hs
    subst this
    exact absurd hw (by decide +kernel)
  · cases h

/-- A command that brings no frame boundary, in FREE, with a station asking for the STATE and with nothing to send. -/
theorem witness_StandingConditions_free :
    let asked := onBus .free { serving with bus := { serving.bus with requests := 4 } }
    (Instr.storeTaken 0).isBoundary = false ∧ asked.bus.state = .free
    ∧ (∃ t, exec (.storeTaken 0) asked = .next t ∧ t.bus.requests ≠ 0 ∧ t.cleared = false ∧ t.status.phase ≠ .configLoad
        ∧ t.bus.startBit = true ∧ asked.bus.startBit = false)
    ∧ ∃ t, exec (.storeTaken 0) (onBus .free serving) = .next t ∧ t.bus.state = .free ∧ t.somethingToSend = false := by
  refine ⟨rfl, rfl, ⟨_, rfl, ?_⟩, _, rfl, ?_⟩ <;> decide +kernel

theorem witness_WhatCommandsMayMove :
    serving.status.phase ≠ .configLoad
    ∧ ∃ t, exec (.markEdge 0) (clocked .unset 0 (some ⟨.run, 9⟩) 0) = .next t ∧ t.clock.state = .unset := by
  refine ⟨by decide +kernel, _, rfl, by decide +kernel⟩

/-- A CONTENDING context with its offer queued, and two listed bytes. -/
def lawful : State :=
  { holding (contending .queued) with
    bus := { serving.bus with offers := [0] }, cache := { serving.cache with dram := [(5, 1), (9, 2)] } }

/-- For the six statements that a step keeps a law: states that meet each law, with a context and a listed byte, and a
step that answers a next state. -/
theorem witness_step_laws :
    lawful.MemoryLaw ∧ lawful.TableLaw ∧ lawful.DemandLaw ∧ lawful.StreamIdLaw ∧ lawful.WindowLaw ∧ lawful.OfferLaw
      ∧ lawful.RangeLaw ∧ ∃ t, step lawful = .next t := by
  refine ⟨?_, holding_tableLaw (contending .queued), ?_, ?_, ?_, ?_, ?_, _, rfl⟩
  · show Dram.wf _
    decide +kernel
  · unfold State.DemandLaw
    decide +kernel
  · unfold State.StreamIdLaw
    decide +kernel
  · intro p hp
    simp only [lawful, holding, List.mem_singleton] at hp
    subst hp
    exact ⟨fun _ => rfl, by decide, by decide, by decide, List.Pairwise.nil, by simp [contending]⟩
  · refine ⟨by decide, ?_⟩
    intro i hi
    simp only [lawful, List.mem_singleton] at hi
    subst hi
    exact ⟨_, _, rfl, rfl, rfl, by decide⟩
  · refine ⟨by decide +kernel, by decide +kernel, ?_, by decide +kernel, by decide +kernel⟩
    intro i hi
    cases hi
    decide

/-- A fetch with one reference, the first page just read. -/
theorem witness_CacheAndQueuesAgree :
    let s := { fetching 1 0 with pending := [.fetchPageRead 0 4 .uncorrectable] }
    s.TableLaw ∧ s.CacheLaw ∧ s.FetchLaw ∧ ∃ t, step s = .next t :=
  let c : Context := { stream with window := [heldEntry] }
  let k := fetchingChannel (.fetchPage 0) 0
  ⟨cached_tableLaw (slotOf 1 0) c k, cached_cacheLaw k (by decide +kernel) rfl (by decide) (by decide),
    cached_fetchLaw c (k := k) rfl rfl (by decide) (by decide) rfl (by decide), _, rfl⟩

theorem witness_FrameRoundTrip :
    (ownFrame 2 (.endNotice 0x1031 1 0xFFFFFFFF 0 7)).wellFormed = true
    ∧ ({ urgency := 255, source := 15, dest := 0, body := .pause } : WireFrame).wellFormed = true := by decide

/-- A good image, handled at 10,000 µs and one later; one whose sum is wrong, and one of five bridges. -/
theorem witness_ConfigImageJudged :
    let bridges := fun image => (List.range (Bytes.field image 0 1)).map fun i => BitVec.ofNat 4 (Bytes.field image (1 + i) 1)
    let good := fun image => image.length = 64
      ∧ ((List.range 32).map fun i => Bytes.field image (2 * i) 2).sum % 65536 = 0xA55A
      ∧ 1 ≤ Bytes.field image 0 1 ∧ Bytes.field image 0 1 ≤ 4 ∧ (bridges image).Nodup
      ∧ BitVec.ofNat 4 (Bytes.field image 5 1) ∈ bridges image ∧ BitVec.ofNat 16 (Bytes.field image 12 2) ≠ 0
      ∧ (BitVec.ofNat 16 (Bytes.field image 8 2)).toNat ≤ 16383
    State.reset.status.phase = .configLoad ∧ good (image 2 0x7AC7) ∧ ¬ good (image 2 0x7AC6) ∧ ¬ good (image 5 0x77C7)
    ∧ ¬ 10000 < signedDiff (State.reset.clock.localTime + 10000) 0
    ∧ 10000 < signedDiff (State.reset.clock.localTime + 10001) 0
    ∧ 10000 ≤ signedDiff (State.reset.clock.localTime + 10000) 0
    ∧ State.reset.cleared = false ∧ ∀ ch : ChannelNo, (State.reset.chan ch).op = none := by
  refine ⟨?_, ?_, ?_, ?_, ?_, ?_, ?_, ?_, ?_⟩ <;> decide +kernel

/-- Channel 3 probing, alone or beside channel 4. -/
theorem witness_ProbesRunAndEnd_answer :
    let alone := inPhase .probe (doing 3 (.probe 3) serving)
    let both := inPhase .probe (doing 4 (.probe 1) (doing 3 (.probe 3) serving))
    (alone.chan 3).op = some { kind := .probe 3, issued := 0 } ∧ (alone.chan 3).queue = []
    ∧ (alone.chan 3).probePending = false ∧ (alone.chan 3).offline = false ∧ alone.cleared = false
    ∧ alone.dir.load = none ∧ alone.dir.program = none
    ∧ (∀ c, c ≠ 3 → (alone.chan c).probing = false)
    ∧ (both.chan 3).op = some { kind := .probe 3, issued := 0 } ∧ (both.chan 3).queue = []
    ∧ (both.chan 3).probePending = false ∧ (both.chan 3).offline = false ∧ both.cleared = false
    ∧ both.dir.load = none ∧ both.dir.program = none ∧ (∃ c, c ≠ 3 ∧ (both.chan c).probing = true)
    ∧ signedDiff (alone.clock.localTime + 2000) 0 ≤ 2000 ∧ 2000 < signedDiff (alone.clock.localTime + 2001) 0 := by
  decide +kernel

/-- The second attempt, and the third, alone or beside channel 4's. -/
theorem witness_ProbesRunAndEnd_timeout :
    let second := doing 3 (.probe 2) serving
    let alone := inPhase .probe (doing 3 (.probe 3) serving)
    let both := doing 4 (.probe 1) alone
    (second.chan 3).op = some { kind := .probe 2, issued := 0 } ∧ 2000 ≤ signedDiff (second.clock.localTime + 2000) 0
    ∧ ((alone.chan 3).op = some { kind := .probe 3, issued := 0 } ∧ (alone.chan 3).queue = []
      ∧ (alone.chan 3).probePending = false ∧ alone.dir.load = none ∧ ∀ c, c ≠ 3 → (alone.chan c).probing = false)
    ∧ ((both.chan 3).op = some { kind := .probe 3, issued := 0 } ∧ (both.chan 3).queue = []
      ∧ (both.chan 3).probePending = false ∧ both.dir.load = none ∧ ∃ c, c ≠ 3 ∧ (both.chan c).probing = true) := by
  decide +kernel

/-- Channel 0 IDLE, busy and OFFLINE. -/
theorem witness_DirectoryHeaderReadAndJudged_begins :
    let s := inPhase .directoryLoad serving
    s.status.phase = .directoryLoad ∧ s.dir.load = none ∧ s.cleared = false ∧ s.dir.storeQueue = []
    ∧ s.dir.program = none ∧ s.dir.awaitsProbe = false ∧ (∀ ch : ChannelNo, (s.chan ch).probing = false)
    ∧ ((s.chan 0).offline = false ∧ (s.chan 0).op = none ∧ (s.chan 0).probePending = false
      ∧ (s.chan 0).pageCount = some 15000 ∧ 0 < 15000)
    ∧ ((doing 0 .discardedFetchPage s).chan 0).op ≠ none
    ∧ ((s.updChan 0 fun k => { k with offline := true }).chan 0).offline = true := by decide +kernel

/-- A header of one full record block, one of a record more than it holds, the last block count that fits, one without
records; the first two timeouts in a row and the third, of the header page's own read and of the read it waits for. -/
theorem witness_DirectoryHeaderReadAndJudged_read :
    let s := loading .header
    let good := fun bytes => Bytes.field bytes 0 4 = 0x72400D1A ∧ Bytes.field bytes 4 4 ≤ 1048576
      ∧ 1 + ceilDiv (Bytes.field bytes 4 4) 384 ≤ Bytes.field bytes 8 4 ∧ Bytes.field bytes 8 4 ≤ s.fetch.extent
    let third := fun kind => (doing 0 kind (loadingIdle .header)).updChan 0 fun k => { k with timeouts := 2 }
    (s.chan 0).op = some { kind := .directoryPage, issued := 0 } ∧ s.dir.load = some .header ∧ (s.chan 0).queue = []
    ∧ (s.chan 0).probePending = false ∧ (s.chan 0).offline = false ∧ s.cleared = false ∧ s.dir.program = none
    ∧ good (headerBytes 384 2) ∧ 0 < Bytes.field (headerBytes 384 2) 4 4 ∧ good (headerBytes 1 40000)
    ∧ (good (headerBytes 0 1) ∧ Bytes.field (headerBytes 0 1) 4 4 = 0)
    ∧ (s.chan 1).op = none ∧ (s.chan 1).probePending = false ∧ (s.chan 1).offline = false
    ∧ (s.chan 1).pageCount = some 15000
    ∧ ¬ good (headerBytes 385 2) ∧ ¬ good (headerBytes 1 40001)
    ∧ (2000 ≤ signedDiff (s.clock.localTime + 2000) 0 ∧ signedDiff (s.clock.localTime + 2000) 0 ≤ 2000
      ∧ 2000 < signedDiff (s.clock.localTime + 2001) 0) ∧ (s.chan 0).timeouts < 2
    ∧ ((third .directoryPage).chan 0).op = some { kind := .directoryPage, issued := 0 }
    ∧ ((third .discardedFetchPage).chan 0).op = some { kind := .discardedFetchPage, issued := 0 }
    ∧ ((third .discardedFetchPage).chan 0).timeouts = 2 ∧ (third .discardedFetchPage).dir.load = some .header := by
  refine ⟨?_, ?_, ?_, ?_, ?_, ?_, ?_, ?_, ?_, ?_, ?_, ?_, ?_, ?_, ?_, ?_, ?_, ?_, ?_, ?_, ?_, ?_, ?_⟩ <;> decide +kernel

/-- The last page of 129 records; of 500 records page 2, followed by one of another channel, and page 0, by one of its
own. -/
theorem witness_RecordPagesBuildTheTable :
    let last := loading (.records { records := 129, blocks := 3 } 1 [zone])
    let third := doing 1 .directoryPage (loadingIdle (.records { records := 500, blocks := 3 } 2 [zone]))
    let first := doing 1 .directoryPage (loadingIdle (.records { records := 500, blocks := 3 } 0 []))
    ((last.chan 0).op = some { kind := .directoryPage, issued := 0 }
      ∧ last.dir.load = some (.records { records := 129, blocks := 3 } 1 [zone]) ∧ ¬ 1 + 1 < ceilDiv 129 128
      ∧ last.status.config = some config ∧ (last.chan 0).queue = [] ∧ (last.chan 0).probePending = false
      ∧ (last.chan 0).offline = false ∧ last.cleared = false ∧ last.dir.program = none)
    ∧ ((third.chan 1).op = some { kind := .directoryPage, issued := 0 }
      ∧ third.dir.load = some (.records { records := 500, blocks := 3 } 2 [zone]) ∧ 2 + 1 < ceilDiv 500 128
      ∧ channelOf (1 + (2 + 1) / 3) = 2 ∧ (third.chan 2).op = none ∧ (third.chan 2).probePending = false
      ∧ (third.chan 2).offline = false ∧ (third.chan 2).pageCount = some 15000
      ∧ channelPage (1 + (2 + 1) / 3) ((2 + 1) % 3) < 15000)
    ∧ ((first.chan 1).op = some { kind := .directoryPage, issued := 0 } ∧ 0 + 1 < ceilDiv 500 128
      ∧ channelOf (1 + (0 + 1) / 3) = 1 ∧ (first.chan 1).pageCount = some 15000
      ∧ channelPage (1 + (0 + 1) / 3) ((0 + 1) % 3) < 15000)
    ∧ (2000 ≤ signedDiff (last.clock.localTime + 2000) 0 ∧ signedDiff (last.clock.localTime + 2000) 0 ≤ 2000
      ∧ 2000 < signedDiff (last.clock.localTime + 2001) 0 ∧ (last.chan 0).timeouts < 2) := by
  refine ⟨?_, ?_, ?_, ?_⟩ <;> decide +kernel

/-- R5's limits: lengths 0 and 67,108,865, format code 5; and both at once. -/
theorem witness_RecordSkippedForLengthOrFormat :
    (67108864 < 67108865 ∧ ¬ 1 ∉ [1, 2, 3, 4]) ∧ (5 ∉ [1, 2, 3, 4] ∧ ¬ ((67108864 = 0) ∨ 67108864 < 67108864)) := by
  decide

/-- R6 to R8 at their limits: the zone of the last record, a zone outside the match, loops of 256 and of 255 frames. -/
theorem witness_RecordJudged :
    (67108864 ≠ 0 ∧ 67108864 ≤ 67108864 ∧ Format.ofCode 4 = some .stereo24)
    ∧ ¬ (∀ p, [zone].getLast? = some p → p.zone < 0x100010)
    ∧ (∀ p, [zone].getLast? = some p → p.zone < 0x100011)
    ∧ 0x200011#24 &&& config.zoneMask ≠ config.zoneMatch &&& config.zoneMask
    ∧ 0x100011#24 &&& config.zoneMask = config.zoneMatch &&& config.zoneMask
    ∧ (0 < 256 ∧ 256 ≤ 6145 ∧ 256 ≤ 256 - 0) ∧ ¬ (0 < 255 ∧ 255 ≤ 6145 ∧ 256 ≤ 255 - 0) := by
  refine ⟨by decide, ?_, ?_, by decide, by decide, by decide, by decide⟩
  · intro h
    exact absurd (h zone rfl) (by decide)
  · intro p hp
    cases hp
    decide

/-- The five ways a page read of channel 4, issued at 0, ends, each at a limit of its time: 2,000 µs, and one more for an
answer that comes too late. -/
def pageEnds : List (Micros × PageEnd) :=
  [(2000, .answer (.good (List.replicate 4096 9))), (2000, .answer (.corrected (List.replicate 4096 9))),
    (2000, .answer .uncorrectable), (2000, .timeout), (2001, .late (.good (List.replicate 4096 9)))]

/-- Each can end a read issued at 0, where fewer than two timeouts came before. -/
theorem canEnd {s : State} (h : signedDiff (s.clock.localTime + 2000) 0 = 2000)
    (hl : signedDiff (s.clock.localTime + 2001) 0 = 2001) (ht : (s.chan 4).timeouts < 2) :
    ∀ x ∈ pageEnds, s.CanEnd x.1 4 0 x.2 := by
  intro x hm
  simp only [pageEnds, List.mem_cons, List.not_mem_nil, or_false] at hm
  rcases hm with rfl | rfl | rfl | rfl | rfl
  exacts [⟨h.le, List.length_replicate⟩, ⟨h.le, List.length_replicate⟩, h.le, ⟨h.ge, ht⟩, ⟨hl ▸ (by decide), ht⟩]

/-- A fetch alone in its queue; and one behind an unbegun fetch whose deadline is the break-in margin of 256 frames
earlier, and a frame less (R120). -/
theorem witness_FetchPageWritten :
    let s := fetching 1 1
    let unbegun := { fetchOf 0 with slot := 8, deadline := 55 }
    let partly := fun d : Nat => { fetchOf 2 with deadline := BitVec.ofNat 32 d }
    (s.chan 4).op = some { kind := .fetchPage 0, issued := 0 } ∧ (∀ x ∈ pageEnds, s.CanEnd x.1 4 0 x.2)
    ∧ fetchOf 1 ∈ (s.chan 4).queue ∧ (fetchOf 1).slot = 0
    ∧ ((s.chan 4).queue.map Fetch.slot).Nodup ∧ (fetchOf 1).cancelPending = false ∧ (fetchOf 1).pagesDone < 2
    ∧ (s.chan 4).pageCount = some 15000 ∧ channelPage (fetchOf 2).block (fetchOf 2).pagesDone < 15000
    ∧ (s.chan 4).offline = false ∧ (s.chan 4).probePending = false ∧ s.cleared = false ∧ s.dir.program = none
    ∧ s.dir.load = none ∧ s.MemoryLaw ∧ s.margin = 256
    ∧ choiceOf [fetchOf 2] s.margin = some (fetchOf 2, false)
    ∧ choiceOf [unbegun, partly 311] s.margin = some (unbegun, true)
    ∧ choiceOf [unbegun, partly 310] s.margin = some (partly 310, false) := by
  refine ⟨by decide +kernel, canEnd (by decide +kernel) (by decide +kernel) (by decide +kernel), by decide +kernel, rfl, by decide +kernel, rfl,
    by decide, by decide +kernel, by decide, by decide +kernel, by decide +kernel, by decide +kernel, rfl, rfl,
    ⟨List.Pairwise.nil, (by intro c hc; cases hc)⟩, ?_, ?_, ?_, ?_⟩ <;> decide +kernel

/-- The third page of a slot: without a patched page, and with one, before it or itself, where no entry refers to the slot,
or the head of a TOLERANT or of a STRICT stream does. -/
theorem witness_FillMakesEntriesReady :
    let c := fun policy => ({ stream with policy := policy, window := [heldEntry] } : Context)
    let patched := fun refs => { slotOf refs 2 with patched := 1 }
    let s := fun (slot : Slot) (c : Context) => cached slot c (fetchingChannel (.fetchPage 0) 2)
    let plain := s (slotOf 1 2) (c .tolerant)
    (plain.chan 4).op = some { kind := .fetchPage 0, issued := 0 } ∧ (∀ x ∈ pageEnds, plain.CanEnd x.1 4 0 x.2)
    ∧ (plain.chan 4).queue = [fetchOf 2] ∧ (fetchOf 2).slot = 0 ∧ (fetchOf 2).cancelPending = false
    ∧ (fetchOf 2).pagesDone = 2 ∧ (plain.chan 4).offline = false
    ∧ (plain.chan 4).probePending = false ∧ plain.cleared = false ∧ plain.dir.program = none ∧ plain.dir.load = none
    ∧ (∀ slot c, (s slot c).slot? 0 = some slot ∧ (s slot c).TableLaw ∧ (s slot c).MemoryLaw)
    ∧ (slotOf 1 2).patched = 0 ∧ (slotOf 1 2).patched ||| 4#3 ≠ 0 ∧ (patched 0).patched ≠ 0 ∧ (patched 0).refs = 0
    ∧ (patched 1).refs ≠ 0
    ∧ (∀ p ∈ (s (patched 1) (c .tolerant)).streams.contexts, p.2.policy = .tolerant)
    ∧ ((s (patched 1) (c .strict)).ctx? 0 = some (c .strict) ∧ (c .strict).policy = .strict
      ∧ (c .strict).window = heldEntry :: [] ∧ heldEntry.slot = some 0
      ∧ ∀ p ∈ (s (patched 1) (c .strict)).streams.contexts, p.1 ≠ 0 → ∀ x ∈ p.2.window, x.slot ≠ some 0) := by
  refine ⟨by decide +kernel, canEnd (by decide +kernel) (by decide +kernel) (by decide +kernel), by decide +kernel, rfl, rfl, rfl,
    by decide +kernel, by decide +kernel, by decide +kernel, rfl, rfl,
    fun slot c => ⟨cached_slot? slot c _ 0, cached_tableLaw _ _ _, List.Pairwise.nil, (by intro c hc; cases hc)⟩,
    rfl, by decide, by decide, rfl, by decide, ?_, rfl, rfl, rfl, rfl, ?_⟩ <;> decide +kernel

/-- The second and the third timeout in a row of a discarded read, with nothing queued, a probe pending or not. -/
theorem witness_PageTimeoutCounts :
    let s := fun (n : Nat) (pending : Bool) =>
      (doing 4 .discardedFetchPage serving).updChan 4 fun k => { k with timeouts := n, probePending := pending }
    ∀ n ∈ [1, 2], ∀ pending : Bool, ((s n pending).chan 4).op = some { kind := .discardedFetchPage, issued := 0 }
      ∧ 2000 ≤ signedDiff ((s n pending).clock.localTime + 2000) 0
      ∧ 2000 < signedDiff ((s n pending).clock.localTime + 2001) 0 ∧ ((s n pending).chan 4).offline = false
      ∧ (s n pending).cleared = false ∧ (s n pending).dir.program = none ∧ (s n pending).dir.load = none
      ∧ ((s n pending).chan 4).queue = [] ∧ ((s n pending).chan 4).timeouts = n
      ∧ ((s n pending).chan 4).probePending = pending ∧ n ≤ 2 := by decide +kernel

/-- The third timeout in a row with a fetch queued, its slot referred to or not, the probe pending or not: of a discarded
read, and of each page of the fetch itself. -/
theorem witness_PageTimeoutCounts_offline (pending : Bool) :
    let k := fun kind (done : Nat) => { fetchingChannel kind done with timeouts := 2, probePending := pending }
    let s := fun kind (done refs : Nat) =>
      cached (slotOf refs done) { stream with window := List.replicate refs heldEntry } (k kind done)
    (∀ kind done refs, ((s kind done refs).chan 4).op = some { kind := kind, issued := 0 }
      ∧ ((s kind done refs).chan 4).queue = [fetchOf done] ∧ ((s kind done refs).chan 4).timeouts = 2
      ∧ ((s kind done refs).chan 4).offline = false ∧ (s kind done refs).cleared = false
      ∧ (s kind done refs).dir.program = none ∧ (s kind done refs).dir.load = none
      ∧ (s kind done refs).status.faultDriven = false ∧ (s kind done refs).slot? 0 = some (slotOf refs done)
      ∧ ∀ p ∈ (s kind done refs).streams.contexts, p.2.policy = .tolerant)
    ∧ (∀ kind ∈ [.discardedFetchPage, .fetchPage 0], ∀ done refs, done < 3 → refs ≤ 1 → (s kind done refs).TableLaw
      ∧ (s kind done refs).MemoryLaw ∧ (s kind done refs).CacheLaw ∧ (s kind done refs).FetchLaw)
    ∧ (∀ done, fetchOf done ∈ [fetchOf done] ∧ OperationKind.fetchPage 0 = .fetchPage (fetchOf done).slot
      ∧ (fetchOf done).cancelPending = false)
    ∧ 2000 ≤ signedDiff (serving.clock.localTime + 2000) 0 ∧ 2000 < signedDiff (serving.clock.localTime + 2001) 0 := by
  refine ⟨fun kind done refs => ⟨rfl, rfl, rfl, rfl, rfl, rfl, rfl, rfl, rfl, ?_⟩, fun kind hk done refs hd hr =>
      ⟨cached_tableLaw _ _ _, ⟨List.Pairwise.nil, (by intro c hc; cases hc)⟩, cached_cacheLaw _ ?_ ?_ (by simp [slotOf, slotIn]) ?_,
        cached_fetchLaw _ (f := fetchOf done) rfl rfl (by show channelOf 12 = 4; decide) hd rfl ?_ ?_⟩,
    fun done => ⟨List.mem_singleton.mpr rfl, rfl, rfl⟩, by decide +kernel⟩
  · intro p hp
    rw [List.mem_singleton.mp hp]
    rfl
  · intro e he
    rw [(List.mem_replicate.mp he).2]
    rfl
  · obtain rfl | rfl : refs = 0 ∨ refs = 1 := by omega
    all_goals rfl
  · intro h
    cases h
  · intro h
    cases h
  · simp only [List.mem_cons, List.not_mem_nil, or_false] at hk
    rcases hk with rfl | rfl <;> rfl

theorem witness_ServiceEnteredAndLeft :
    serving.judgesAddressed enterBytes ∧ serving.status.phase = .serving ∧ serving.streams.contexts = [] ∧ 2 ∈ serving.bridges
    ∧ (service [] none).judgesAddressed enterBytes ∧ (service [] none).status.phase = .service
    ∧ (service [] none).dir.serviceStation = some 2
    ∧ (holding stream).judgesAddressed enterBytes ∧ (holding stream).streams.contexts ≠ [] := by
  refine ⟨⟨?_, ⟨?_, ?_⟩, ?_, ?_⟩, ?_, ?_, ?_, ⟨?_, ⟨?_, ?_⟩, ?_, ?_⟩, ?_, ?_, ⟨?_, ⟨?_, ?_⟩, ?_, ?_⟩, ?_⟩ <;>
    decide +kernel

/-- The store queue with three requests and with four; a bridge and a station outside the bridge set. -/
theorem witness_StoreQueued :
    let three := service (List.replicate 3 (request 4)) none
    let four := service (List.replicate 4 (request 4)) none
    three.judgesAddressed enterBytes ∧ 2 ∈ three.bridges ∧ three.status.phase = .service ∧ three.dir.serviceStation = some 2
    ∧ three.dir.storeQueue.length < 4 ∧ four.judgesAddressed enterBytes
    ∧ ¬ four.dir.storeQueue.length < 4 ∧ 3 ∉ three.bridges := by
  refine ⟨⟨?_, ⟨?_, ?_⟩, ?_, ?_⟩, ?_, ?_, ?_, ?_, ⟨?_, ⟨?_, ?_⟩, ?_, ?_⟩, ?_, ?_⟩ <;> decide +kernel

/-- Flash block addresses 40,000 (beyond the extent), 5 (barred), 4 and 8 (neither); channel 0 online and OFFLINE. -/
theorem witness_StoreTakenJudged :
    let s := service [request 8, request 3] none
    let off := s.updChan 0 fun k => { k with offline := true }
    s.dir.storeQueue = request 8 :: [request 3] ∧ s.dir.program = none
    ∧ (s.bus.notices.filter Notice.isStored).length < 4 ∧ s.fetch.extent ≤ (request 40000).address.toNat
    ∧ (s.dir.layout = some { blocks := 8, recordBlocks := 4 } ∧ 5 < 8 ∧ 4 < 5) ∧ ¬ (4 < 8 ∧ 4 < 4) ∧ ¬ (8 < 8 ∧ 4 < 8)
    ∧ (request 8).address.toNat < s.fetch.extent ∧ (s.chan (channelOf 8)).offline = false
    ∧ (off.chan (channelOf 8)).offline = true := by decide +kernel

/-- R127 and R17 at the limit of 2,000 µs: an answer is taken there, and a microsecond later the attempt, or the program, has
failed. -/
theorem test_answers_at_and_after_the_timeout :
    let probe := inPhase .probe (doing 3 (.probe 1) serving)
    let program := doing 0 (.program (.page 2 [])) (service [] (some (programOf 0 (.programming 2))))
    (∃ t, exec (.geometryReadAnswer 2000 3 7) probe = .next t ∧ (t.chan 3).pageCount = some 7)
    ∧ (∃ t, exec (.geometryReadAnswer 2001 3 7) probe = .next t ∧ (t.chan 3).counts.probeFailures = 1
        ∧ (t.chan 3).op = some { kind := .probe 2, issued := 2001 })
    ∧ (∃ t, exec (.programOperationComplete 2000 true) program = .next t ∧ t.dir.counts.written = 1)
    ∧ (∃ t, exec (.programOperationComplete 2001 true) program = .next t ∧ t.dir.counts.programFailed = 1) := by
  refine ⟨⟨_, rfl, ?_⟩, ⟨_, rfl, ?_, ?_⟩, ⟨_, rfl, ?_⟩, ⟨_, rfl, ?_⟩⟩ <;> decide +kernel

theorem witness_ProgramRunsAndEnds :
    let waits := service [] (some (programOf 8 .waiting))
    let erases := doing 0 (.program (.erase 8)) (service [] (some (programOf 8 .erasing)))
    let programs := doing 0 (.program (.page 4 [])) (service [] (some (programOf 8 (.programming 1))))
    let last := doing 0 (.program (.page 2 [])) (service [] (some (programOf 0 (.programming 2))))
    (waits.dir.program = some (programOf 8 .waiting) ∧ (waits.chan 0).op = none ∧ (waits.chan 0).offline = false
      ∧ (waits.chan 0).probePending = false ∧ waits.cleared = false ∧ 8 % 8 = 0)
    ∧ (erases.dir.program = some (programOf 8 .erasing)
      ∧ (erases.chan 0).op = some { kind := .program (.erase 8), issued := 0 })
    ∧ (programs.dir.program = some (programOf 8 (.programming 1)) ∧ 1 < 2
      ∧ (programs.chan 0).op = some { kind := .program (.page 4 []), issued := 0 })
    ∧ (last.dir.program = some (programOf 0 (.programming 2)) ∧ (programOf 0 (.programming 2)).silent = false
      ∧ last.dir.load = none ∧ last.cleared = false
      ∧ (last.chan 0).op = some { kind := .program (.page 2 []), issued := 0 } ∧ (last.chan 0).queue = []
      ∧ (last.chan 0).probePending = false ∧ (last.chan 0).offline = false
      ∧ 2000 ≤ signedDiff (last.clock.localTime + 2000) 0 ∧ signedDiff (last.clock.localTime + 2000) 0 ≤ 2000
      ∧ 2000 < signedDiff (last.clock.localTime + 2001) 0) := by
  refine ⟨?_, ?_, ?_, ?_⟩ <;> decide +kernel

/-- A program that a CLEAR made silent, under that CLEAR, after it, and after it with a probe of its channel pending. -/
theorem witness_ProgramRunsAndEnds_silent :
    let p := { programOf 8 (.programming 2) with silent := true }
    let s := doing 0 (.program (.page 5 [])) (service [] (some p))
    let awaits := s.updChan 0 fun k => { k with probePending := true }
    s.dir.program = some p ∧ p.silent = true ∧ (s.chan 0).op = some { kind := .program (.page 5 []), issued := 0 }
    ∧ (clearLine .counted s).cleared = true ∧ (s.dir.load = none ∧ (s.chan 0).queue = [] ∧ (s.chan 0).offline = false)
    ∧ ((awaits.chan 0).probePending = true ∧ awaits.cleared = false ∧ awaits.dir.program = some p
      ∧ (awaits.chan 0).op = some { kind := .program (.page 5 []), issued := 0 })
    ∧ 2000 ≤ signedDiff (s.clock.localTime + 2000) 0 ∧ signedDiff (s.clock.localTime + 2000) 0 ≤ 2000
    ∧ 2000 < signedDiff (s.clock.localTime + 2001) 0 := by
  decide +kernel

/-- No head is stale at the count a mark gives: with no stream, and with a head one frame from its leave time. -/
theorem witness_NoHeadStale : serving.NoHeadStale 1064 ∧ (holding stream).NoHeadStale 2047 := by
  refine ⟨(by intro p hp; cases hp), ?_⟩
  intro p hp _ e rest hw
  simp only [holding, List.mem_singleton] at hp
  subst hp
  simp only [stream, List.cons.injEq] at hw
  rw [← hw.1]
  decide +kernel

theorem witness_RunningClockMoves :
    let free := clocked .running 0 none 0
    let loaded := clocked .running 0 (some ⟨.timing, 2048⟩) 0
    free.clock.state = .running ∧ free.clockTakes = true ∧ free.clock.isGlitch (free.clock.localTime + 666) = false
    ∧ free.clock.load = none ∧ loaded.clock.load = some ⟨.timing, 2048⟩ ∧ free.clock.interval = some 1333
    ∧ free.clock.watch = some 1999 ∧ 0 ≤ signedDiff (free.clock.localTime + 1999) 1999
    ∧ (free.listening = true ∧ free.status.phase ≠ .configLoad ∧ 1 ∈ free.bridges)
    ∧ free.status.config.map ConfigImage.clockStation = some 1 := by decide +kernel

theorem witness_RealMarkByClockState :
    (clocked .unset 0 none 0).clockTakes = true
    ∧ (clocked .unset 0 none 0).clock.isGlitch ((clocked .unset 0 none 0).clock.localTime + 666) = false
    ∧ (clocked .unset 0 none 0).clock.state = .unset ∧ (clocked .unset 0 none 0).clock.load = none
    ∧ (clocked .unset 0 (some ⟨.run, 9⟩) 0).clock.load = some ⟨.run, 9⟩
    ∧ (clocked .paused 0 (some ⟨.run, 9⟩) 0).clock.state = .paused
    ∧ (clocked .flywheel 256 none 0).clock.state = .flywheel ∧ (clocked .lost 256 none 0).clock.state = .lost := by
  decide +kernel

/-- Edges half an interval after the last, and one microsecond sooner; spans of 320, 3,000 and 3,001 µs. -/
theorem witness_EdgeCapture :
    let s := clocked .running 0 none 0
    s.clockTakes = true ∧ s.clock.interval = some 1333 ∧ s.clock.lastEdge = some 0
    ∧ signedDiff (s.clock.localTime + 665) 0 < (1333 / 2 : Nat) ∧ (1333 / 2 : Nat) ≤ signedDiff (s.clock.localTime + 666) 0
    ∧ s.clock.pairingOpen = true ∧ signedDiff (s.clock.localTime + 3000) 0 ≤ 3000
    ∧ 3000 < signedDiff (s.clock.localTime + 3001) 0 ∧ serving.clock.lastEdge = none := by decide +kernel

theorem witness_FlywheelEndsInLost :
    let s := clocked .flywheel 255 none 0
    s.clock.interval = some 1333 ∧ s.clock.watch = some 1999 ∧ 0 ≤ signedDiff (s.clock.localTime + 1999) 1999
    ∧ s.clock.state = .flywheel ∧ s.clock.synthRun < 256 ∧ s.clock.load = none
    ∧ (clocked .flywheel 255 (some ⟨.timing, 2048⟩) 0).clock.load = some ⟨.timing, 2048⟩
    ∧ (clocked .flywheel 256 none 0).clock.synthRun = 256 ∧ (clocked .lost 256 none 0).clock.state = .lost := by
  decide +kernel

theorem witness_TransportByClockState :
    serving.handsOn 1 ∧ serving.handsOn 2 ∧ serving.clockTakes = true
    ∧ serving.status.config.map ConfigImage.clockStation = some 1
    ∧ serving.status.config.map ConfigImage.clockStation ≠ some 2
    ∧ (clocked .paused 0 none 0).clock.state = .paused ∧ (clocked .unset 0 none 0).clock.state = .unset
    ∧ (clocked .lost 256 none 0).clock.state = .lost
    ∧ (clearLine .counted serving).handsOn 2 ∧ (clearLine .counted serving).cleared = true := by
  refine ⟨⟨?_, ?_, ?_⟩, ⟨?_, ?_, ?_⟩, ?_, ?_, ?_, ?_, ?_, ?_, ⟨?_, ?_, ?_⟩, ?_⟩ <;> decide +kernel

theorem serving_handsOn : serving.handsOn 2 := by refine ⟨?_, ?_, ?_⟩ <;> decide +kernel

/-- A capacity of 4,000 with 3,994 taken and a demand of 6; the lowest FREE context is 0. -/
theorem witness_CueAdmitted :
    let s := { serving with cue := { serving.cue with demandSum := 3994 } }
    let f := cueFields 0x2009 0x100010
    serving.handsOn 2 ∧ s.status.phase = .serving ∧ s.cleared = false ∧ f.id.extractLsb' 12 4 = (2 : Station)
    ∧ (∀ p ∈ s.streams.contexts, p.2.id ≠ f.id) ∧ s.status.config = some config
    ∧ f.zone &&& config.zoneMask = config.zoneMatch &&& config.zoneMask ∧ s.dir.load = none
    ∧ s.dir.table.find? (fun r => r.zone == f.zone) = some zone ∧ s.TableLaw ∧ 0 < 1024 ∧ s.ctx? 0 = none
    ∧ s.cue.demandSum + (max 16384 (min f.rate.toNat 262144) * zone.format.frameBytes + 65535) / 65536
        ≤ config.capacity.toNat := by
  refine ⟨serving_handsOn, ?_, ?_, ?_, ?_, ?_, ?_, ?_, ?_, serving_tableLaw, ?_, ?_, ?_⟩ <;> decide +kernel

/-- A CUE with the id of the stream that context 0 holds. -/
theorem witness_CueAdmitted_superseding :
    let s := holding stream
    s.handsOn 2 ∧ s.status.phase = .serving ∧ s.cleared = false
    ∧ (cueFields 0x2007 0x100010).id.extractLsb' 12 4 = (2 : Station) ∧ s.TableLaw ∧ s.StreamIdLaw
    ∧ s.ctx? 0 = some stream ∧ stream.id = (cueFields 0x2007 0x100010).id := by
  refine ⟨⟨?_, ?_, ?_⟩, ?_, ?_, ?_, holding_tableLaw _, by simp [State.StreamIdLaw, holding], rfl, rfl⟩ <;>
    decide +kernel

theorem taken_wf (n : Nat) : Sparse.wf (taken n).streams.contexts :=
  List.Pairwise.map _ (fun _ _ h => h) List.pairwise_lt_range

theorem taken_ctx (n i : Nat) (h : i < n) : (taken n).ctx? i ≠ none := by
  have listed : (taken n).ctx? i = some { stream with id := BitVec.ofNat 16 (0x3000 + i) } :=
    (Sparse.get_eq_some_iff (taken_wf n)).mpr (List.mem_map.mpr ⟨i, List.mem_range.mpr h, rfl⟩)
  rw [listed]
  exact Option.some_ne_none _

theorem taken_tableLaw (n : Nat) (h : n ≤ 1024) : (taken n).TableLaw := by
  refine ⟨taken_wf n, ?_, serving_tableLaw.2.2.1, serving_tableLaw.2.2.2⟩
  intro p hp
  obtain ⟨i, hi, rfl⟩ := List.mem_map.mp hp
  exact Nat.lt_of_lt_of_le (List.mem_range.mp hi) h

/-- Another station's id, a zone outside the match, a zone the directory lacks; every context taken; a demand sum one
too great. -/
theorem witness_CueTurnedAwayOrDeclined :
    serving.handsOn 2 ∧ (service [] none).status.phase ≠ .serving
    ∧ (clearLine .counted serving).cleared = true ∧ (cueFields 0x1009 0x100010).id.extractLsb' 12 4 ≠ (2 : Station)
    ∧ 0x200010#24 &&& config.zoneMask ≠ config.zoneMatch &&& config.zoneMask
    ∧ (∀ r ∈ serving.dir.table, r.zone ≠ 0x100012)
    ∧ (∀ i < 1024, (taken 1024).ctx? i ≠ none) ∧ (taken 1024).TableLaw
    ∧ (∃ i < 1024, serving.ctx? i = none)
    ∧ config.capacity.toNat < 3995 + (65536 * zone.format.frameBytes + 65535) / 65536 := by
  refine ⟨serving_handsOn, ?_, ?_, ?_, ?_, ?_, taken_ctx 1024, taken_tableLaw 1024 (Nat.le_refl _),
    ⟨0, ?_, ?_⟩, ?_⟩ <;> decide +kernel

theorem holding_streamIdLaw (c : Context) : (holding c).StreamIdLaw := by simp [State.StreamIdLaw, holding]

theorem witness_ReleaseWithoutEffectOnBlocks :
    (holding stream).handsOn 2 ∧ (∀ p ∈ (holding stream).streams.contexts, p.2.id ≠ 0x2008)
    ∧ (holding stream).TableLaw ∧ (holding stream).StreamIdLaw ∧ (holding stream).ctx? 0 = some stream
    ∧ stream.id = 0x2007 ∧ stream.state = .running ∧ stream.releaseMode = .none
    ∧ (holding (contending .queued)).ctx? 0 = some (contending .queued) ∧ (contending .queued).state = .contending
    ∧ (contending .queued).window = [] := by
  refine ⟨⟨?_, ?_, ?_⟩, ?_, holding_tableLaw _, holding_streamIdLaw _, ?_, ?_, ?_, ?_, ?_, ?_, ?_⟩ <;> decide +kernel

/-- A CUT at the count 2,048: the first entry, need 0, stays and the second, need 2,048, goes; at the origin both go; and at
4,097, one frame beyond the generator's element, both stay, with a window of 2 and of 3 entries; and where the head's need,
past the wrap, lies above the cut distance and the next entry's below it, the next entry becomes head. -/
theorem witness_CutTruncates :
    let deep := { stream with depth := 3 }
    let first := { entry 0 2048 with need := 0xFFFFFFFFFFFF }
    let wrapped := { stream with window := [first, entry 1 4096] }
    (∀ c, (holding c).TableLaw ∧ (holding c).StreamIdLaw ∧ (holding c).ctx? 0 = some c) ∧ (holding stream).handsOn 2
    ∧ (holding deep).handsOn 2 ∧ stream.id = 0x2007 ∧ stream.state = .running ∧ stream.releaseMode ≠ .cut
    ∧ signedDiff 2048 stream.origin = 2048
    ∧ BitVec.ofNat 48 (stream.rate * (signedDiff 2048 stream.origin).toNat / 65536) = (2048 : Distance)
    ∧ stream.window = [entry 0 2048] ++ [entry 1 4096] ∧ (∀ e ∈ [entry 0 2048], e.need < 2048)
    ∧ (∀ e ∈ [entry 1 4096], 2048 ≤ e.need) ∧ 2048 ≤ stream.needAt stream.gen.part stream.gen.k
    ∧ stream.window = [] ++ stream.window ∧ signedDiff 0 stream.origin ≤ 0 ∧ (∀ e ∈ stream.window, 0 ≤ e.need)
    ∧ (BitVec.ofNat 48 (stream.rate * (signedDiff 4097 stream.origin).toNat / 65536) = (4097 : Distance)
      ∧ stream.gen.closed = false ∧ stream.needAt stream.gen.part stream.gen.k = 4096 ∧ (∀ e ∈ stream.window, e.need < 4097)
      ∧ stream.window = stream.window ++ [] ∧ stream.WindowLaw ∧ deep.WindowLaw ∧ stream.window.length = stream.depth
      ∧ deep.zone.effective = 0 ∧ deep.needAt deep.gen.part deep.gen.k = 4096)
    ∧ wrapped.WindowLaw ∧ wrapped.window = first :: [entry 1 4096] ∧ 4097 ≤ first.need
    ∧ ([entry 1 4096].filter fun x => decide (x.need < 4097)) = [entry 1 4096]
    ∧ (holding wrapped).ServesHeads { wrapped with
        releaseMode := .cut, cutDistance := some 4097, window := [entry 1 4096] } [] [entry 1 4096] := by
  refine ⟨fun c => ⟨holding_tableLaw _, holding_streamIdLaw _, rfl⟩, serving_handsOn, serving_handsOn, ?_, ?_, ?_, ?_, ?_, ?_,
    ?_, ?_, ?_, ?_, ?_, ?_, ⟨?_, ?_, ?_, ?_, ?_, ?_, ?_, ?_, ?_, ?_⟩, ?_, ?_, ?_, ?_,
    serves rfl (by decide +kernel) (.inr rfl) rfl (by decide +kernel)⟩ <;>
    first | decide +kernel | (unfold Context.WindowLaw; decide +kernel)

/-- A stream of 3.9's zone in pass 3, a PLAYOUT at 25,000 fixing pass 2: two entries stay; and with the zone's end at
the loop's, where all go. -/
theorem witness_PlayoutFixesTheExit :
    let c := fun (n : Nat) (w : List Entry) => ({ looped with
      zone := { looped.zone with length := n }, state := .looping, exitPass := none, window := w } : Context)
    let f : ReleaseFields := { id := 0x2007, mode := 1, time := 25000 }
    let late := fun k : Nat => entry k 37000
    let held := { c 30000 [] with
      state := .running, releaseMode := .playout, exitPass := some 2, window := [late 7, late 8]
      gen := { part := .coda, k := 2, pos := 11, index := 9, overrun := 2, closed := false } }
    let l : Loop := { first := 6000, stop := 18000 }
    (∀ n w, (holding (c n w)).handsOn 2 ∧ (holding (c n w)).TableLaw ∧ (holding (c n w)).StreamIdLaw
      ∧ (holding (c n w)).ctx? 0 = some (c n w) ∧ (c n w).id = f.id ∧ f.mode = 1 ∧ (c n w).state = .looping
      ∧ (c n w).activeLoop = true ∧ (c n w).zone.loop = some l ∧ (c n w).zone.effective = 0)
    ∧ ((c 30000 [late 7, late 8, late 9, late 10]).WindowLaw ∧ (c 18000 [late 9, late 10]).WindowLaw)
    ∧ (signedDiff f.time looped.origin = 15000
      ∧ 1 + (131072 * 15000 / 65536 - (18000 - 0)) / (18000 - 6000) = 2 ∧ ((18000 - 1) / 6144 - 0 + 1)
        + 2 * ((18000 - 1) / 6144 - 6000 / 6144 + 1) = 9)
    ∧ ((∀ e ∈ [late 7, late 8], e.index < 9) ∧ (∀ e ∈ [late 9, late 10], 9 ≤ e.index) ∧ ¬ (11 < 9) ∧ 18000 ≠ 30000)
    ∧ (Context.fillPhantoms 1024 2 held).window ≠ []
    ∧ (Context.fillPhantoms 1024 4 { c 18000 [] with
        gen := { (c 18000 []).gen with index := 9, overrun := 2, closed := true } }).window = [] := by
  refine ⟨fun n w => ⟨serving_handsOn, holding_tableLaw _,
    holding_streamIdLaw _, rfl, rfl, rfl, rfl, rfl, rfl, rfl⟩, ⟨?_, ?_⟩, ?_, ?_, ?_, rfl⟩
  · unfold Context.WindowLaw
    decide +kernel
  · unfold Context.WindowLaw
    decide +kernel
  all_goals decide +kernel

theorem witness_StopAllFreesTheBridge :
    (holding stream).handsOn 2 ∧ (holding stream).TableLaw
    ∧ (holding stream).streams.contexts.filter (fun p => p.2.id.extractLsb' 12 4 == 2) = [(0, stream)] := by
  refine ⟨⟨?_, ?_, ?_⟩, holding_tableLaw _, ?_⟩ <;> decide +kernel

theorem witness_OffersEndWithoutANotice :
    (holding stream).listening = true ∧ ¬ (holding stream).isAddressed [] ∧ (holding stream).status.phase ≠ .configLoad
    ∧ (∀ p ∈ (holding stream).streams.contexts, p.2.id ≠ 0x2008)
    ∧ (holding stream).TableLaw ∧ (holding stream).StreamIdLaw ∧ (holding stream).ctx? 0 = some stream
    ∧ (∀ phase, (holding (contending phase)).ctx? 0 = some (contending phase) ∧ (contending phase).window = []
        ∧ (contending phase).offer = some { phase := phase, expiry := 0, lapsed := false })
    ∧ 0 ≤ signedDiff ((holding (contending .queued)).clock.localTime + 0) 0 := by
  refine ⟨by decide +kernel, by unfold State.isAddressed; decide +kernel, by decide +kernel, by decide +kernel,
    holding_tableLaw _, holding_streamIdLaw _, rfl, fun _ => ⟨rfl, rfl, rfl⟩, by decide +kernel⟩

theorem witness_LaneViewsAndDamagedFrames :
    serving.handsOn 2 ∧ serving.cleared = false ∧ (clearLine .counted serving).handsOn 2
    ∧ (clearLine .counted serving).cleared = true ∧ serving.listening = true ∧ serving.status.phase ≠ .configLoad
    ∧ serving.status.phase ≠ .unconfigured ∧ (inPhase .unconfigured serving).listening = true
    ∧ ¬ serving.isAddressed [] := by
  refine ⟨serving_handsOn, ?_, ⟨?_, ?_, ?_⟩, ?_, ?_, ?_, ?_, ?_, ?_⟩ <;>
    first | decide +kernel | (unfold State.isAddressed; decide +kernel)

/-- Station 3 is no bridge of the set; the SERVICE-ENTER is addressed to station 5, and not to station 6. -/
theorem witness_FramesAnsweredBySource :
    let sixth := { serving with status := { serving.status with station := 6 } }
    serving.judgesAddressed enterBytes ∧ (clearLine .counted serving).listening = true
    ∧ (clearLine .counted serving).isAddressed enterBytes
    ∧ (clearLine .counted serving).status.phase ≠ .configLoad ∧ (clearLine .counted serving).cleared = true
    ∧ 3 ∉ serving.bridges ∧ (inPhase .configLoad serving).listening = true
    ∧ (sixth.listening = true ∧ ¬ sixth.isAddressed enterBytes)
    ∧ ((onBus .busy serving).bus.state = .busy ∧ (onBus .busy serving).listening = true
      ∧ (onBus .busy serving).isAddressed enterBytes
      ∧ judgeFrame enterBytes .addressed = .wellFormed { urgency := 0, source := 2, dest := 5, body := .serviceEnter }) := by
  refine ⟨⟨?_, ⟨?_, ?_⟩, ?_, ?_⟩, ?_, ⟨?_, ?_⟩, ?_, ?_, ?_, ?_, ⟨?_, ?_⟩, ?_, ?_, ⟨?_, ?_⟩, ?_⟩ <;>
    first | decide +kernel | (unfold State.isAddressed; decide +kernel)

/-- Each bus state a clause of BusStateMoves begins in, and a notice to send. -/
theorem witness_BusStateMoves :
    let sends := { serving with bus := { serving.bus with notices := [.stored 2 0 .written] } }
    (∀ b, (onBus b serving).bus.state = b ∧ (onBus b serving).bus.tenure = none)
    ∧ (sends.bus.state = .gap ∧ sends.somethingToSend = true ∧ sends.mayContend = true)
    ∧ (serving.bus.state = .gap ∧ serving.somethingToSend = false) ∧ (onBus .unsynced serving).bus.state = .unsynced
    ∧ ((onBus .unsynced sends).somethingToSend = true ∧ (onBus .unsynced sends).mayContend = true
      ∧ (onBus .unsynced serving).somethingToSend = false)
    ∧ (onBus .busyDominant serving).bus.state = .busyDominant
    ∧ ((onBus .busy serving).bus.state = .busy ∧ (onBus .busy serving).bus.startBit = false
      ∧ (onBus .busy serving).bus.tenure = none ∧ ¬ (onBus .busy serving).isAddressed []) := by
  refine ⟨fun _ => ⟨rfl, rfl⟩, ?_, ?_, ?_, ?_, ?_, ?_, ?_, ?_, ?_⟩ <;>
    first | decide +kernel | (unfold State.isAddressed; decide +kernel)

/-- A state for each class: an offer queued, a contending head, an END, a STORED, a STATE for station 15, and none. -/
theorem witness_ContestPresentsTheLowestClass :
    let offers := { holding (contending .queued) with bus := { serving.bus with offers := [0] } }
    let notices := fun n => ({ serving with bus := { serving.bus with notices := [n] } } : State)
    let asked := { serving with bus := { serving.bus with requests := 0x8000 } }
    serving.bus.state = .gap ∧ serving.NoHeadStale serving.clock.sfc ∧ (holding stream).NoHeadStale 1000
    ∧ (clearLine .counted serving).cleared = true ∧ serving.cleared = false ∧ serving.status.phase ≠ .configLoad
    ∧ (offers.bus.offers = 0 :: [] ∧ offers.ctx? 0 = some (contending .queued))
    ∧ bestContender 1000 (holding stream).contenders = some (0, stream, entry 0 2048)
    ∧ (serving.bus.offers = [] ∧ serving.contenders = [])
    ∧ (notices (.ended 3 0x2007 .cut 1 2 3)).bus.notices = [.ended 3 0x2007 .cut 1 2 3]
    ∧ (notices (.stored 2 9 .written)).bus.notices = [.stored 2 9 .written]
    ∧ (asked.bus.notices = [] ∧ asked.bus.requests.getLsbD 15 = true ∧ ∀ k < 15, asked.bus.requests.getLsbD k = false)
    ∧ serving.bus.requests = 0 := by
  refine ⟨by decide +kernel, (by intro p hp; cases hp), ?_, by decide +kernel, by decide +kernel, by decide +kernel,
    by decide +kernel, by decide +kernel, by decide +kernel, rfl, rfl, by decide +kernel, by decide +kernel⟩
  intro p hp _ e rest hw
  simp only [holding, List.mem_singleton] at hp
  subst hp
  simp only [stream, List.cons.injEq] at hw
  rw [← hw.1]
  decide +kernel

theorem witness_PresentedBlockHasLeastSlack :
    (holding stream).TableLaw ∧ (holding stream).bus.tenure = none
    ∧ ∃ t frame, exec (.contestStart 0) (holding stream) = .next t
        ∧ t.bus.tenure = some { item := .block 0 none, frame := frame, sent := false } := by
  refine ⟨holding_tableLaw _, by decide +kernel, _, (holding stream).blockFrame stream (entry 0 2048), rfl, ?_⟩
  decide +kernel

/-- The head of the stream, ready, on an open lane of bridge 2, one frame from its leave time. -/
theorem witness_PresentedBlockHasLeastSlack_presents :
    let s : State := { holding stream with clock := { serving.clock with sfc := 2047 } }
    s.bus.state = .gap ∧ s.cleared = false ∧ s.status.phase ≠ .configLoad ∧ s.bus.offers = []
    ∧ s.NoHeadStale s.clock.sfc ∧ (0, stream) ∈ s.streams.contexts ∧ stream.state = .running
    ∧ stream.window = entry 0 2048 :: [entry 1 4096] ∧ (entry 0 2048).ready = true
    ∧ signedDiff s.clock.sfc (entry 0 2048).leaveTime < 0 ∧ (entry 0 2048).eligible = none
    ∧ stream.id.extractLsb' 12 4 = (2 : Station)
    ∧ s.delivery.views.find? (fun v => v.1 == (2 : Station)) = some (2, 0xFF)
    ∧ (0xFF : LaneSet).getLsbD stream.lane.toNat = true := by
  exact ⟨rfl, by decide +kernel, by decide +kernel, rfl, witness_NoHeadStale.2, List.mem_singleton.mpr rfl, rfl, rfl, rfl,
    by decide +kernel, rfl, by decide, rfl, by decide⟩

/-- Each item presented. -/
theorem witness_ContestWonSendsTheFrame :
    let presented := fun item body => tenured item body false (holding stream)
    serving.MemoryLaw
    ∧ (presented (.offer 0) (.offer 0x2007 0)).bus.tenure
        = some { item := .offer 0, frame := ownFrame 2 (.offer 0x2007 0), sent := false }
    ∧ (presented (.block 0 (some 7)) (.block headBlock)).bus.tenure
        = some { item := .block 0 (some 7), frame := ownFrame 2 (.block headBlock), sent := false }
    ∧ (presented (.ended 0) (.endNotice 0x2007 1 0 0 0)).bus.tenure
        = some { item := .ended 0, frame := ownFrame 2 (.endNotice 0x2007 1 0 0 0), sent := false }
    ∧ (tenured .stored (.storedNotice 9 1) false
        { serving with bus := { serving.bus with notices := [.stored 2 9 .written] } }).bus.notices
        = .stored 2 9 .written :: []
    ∧ (presented .state (.state [])).bus.tenure
        = some { item := .state, frame := ownFrame 2 (.state []), sent := false } := by
  exact ⟨⟨List.Pairwise.nil, (by intro c hc; cases hc)⟩, rfl, rfl, rfl, rfl, rfl⟩

/-- An OFFER whose expiry has not come and one whose expiry has; a BLOCK whose head leaves one frame later, and one whose
head is stale. -/
theorem witness_ContestLostKeepsTheItem :
    let lapsed := { contending .presented with offer := some { phase := .presented, expiry := 0, lapsed := true } }
    let offer := fun c => tenured (.offer 0) (.offer 0x2007 0) false (holding c)
    let head := { entry 0 2048 with busPhase := .presented }
    let c := { stream with window := [head, entry 1 4096] }
    let block := tenured (.block 0 none) (.block headBlock) false { holding c with clock := { serving.clock with sfc := 2048 } }
    ((offer (contending .presented)).bus.tenure
        = some { item := .offer 0, frame := ownFrame 2 (.offer 0x2007 0), sent := false }
      ∧ (offer (contending .presented)).ctx? 0 = some (contending .presented)
      ∧ (contending .presented).offer = some { phase := .presented, expiry := 0, lapsed := false })
    ∧ ((offer lapsed).ctx? 0 = some lapsed ∧ lapsed.window = [])
    ∧ (block.bus.tenure = some { item := .block 0 none, frame := ownFrame 2 (.block headBlock), sent := false }
      ∧ block.ctx? 0 = some c ∧ c.window = head :: [entry 1 4096] ∧ signedDiff 2047 head.leaveTime < 0)
    ∧ (c.delivering = true ∧ (holding c).TableLaw ∧ c.WindowLaw ∧ [entry 0 2048] ≠ []
      ∧ block.ServesHeads { c with window := { head with busPhase := .none } :: [entry 1 4096] }
          [entry 0 2048] [entry 1 4096])
    ∧ (tenured .stored (.storedNotice 9 1) false serving).bus.tenure
        = some { item := .stored, frame := ownFrame 2 (.storedNotice 9 1), sent := false } := by
  refine ⟨⟨rfl, rfl, rfl⟩, ⟨rfl, rfl⟩, ⟨rfl, rfl, rfl, by decide⟩, ⟨rfl, holding_tableLaw _, ?_, by decide,
    serves rfl (by decide +kernel) (.inr rfl) rfl (by decide +kernel)⟩, rfl⟩
  unfold Context.WindowLaw
  decide +kernel

/-- A STRICT stream of depth 3 whose head's BLOCK is presented or SENT and leaves at 2,048, a patched entry behind it: the head
stale at 2,048 as the contest is lost, the mark comes or the BLOCK is refused, or delivered. -/
theorem witness_FaultsAtHead :
    let bad := { entry 1 4096 with patched := 1 }
    let c := fun phase => ({ stream with
      policy := .strict, depth := 3, window := [{ entry 0 2048 with busPhase := phase }, bad, entry 2 6144]
      gen := { stream.gen with pos := 3 } } : Context)
    let s := fun (c : Context) => ({ holding c with clock := { serving.clock with sfc := 2048 } } : State)
    (∀ phase, (c phase).WindowLaw ∧ (c phase).delivering = true ∧ (s (c phase)).TableLaw
      ∧ (c phase).window = { entry 0 2048 with busPhase := phase } :: [bad, entry 2 6144])
    ∧ (s (c .none)).FaultsAtHead (c .none) [entry 0 2048] bad [entry 2 6144]
    ∧ (s (c .sent)).FaultsAtHead { c .sent with window := [bad, entry 2 6144], delivered := 1, nacks := 0 } [] bad
        [entry 2 6144] := by
  refine ⟨fun phase => ⟨?_, rfl, holding_tableLaw _, rfl⟩, ⟨rfl, rfl, ?_, ?_, rfl, ?_⟩, ⟨rfl, rfl, ?_, ?_, rfl, ?_⟩⟩
  · unfold Context.WindowLaw
    cases phase <;> decide +kernel
  all_goals decide +kernel

/-- F0 at the zone's length; and a context that a CLEAR has freed. -/
theorem witness_OwnOfferAndNoticeSlots_offer :
    let c := { contending .sent with f0 := 480000 }
    let s := fun u => tenured (.offer 0) (.offer 0x2007 0) true u
    (∀ u, (s u).bus.tenure = some { item := .offer 0, frame := ownFrame 2 (.offer 0x2007 0), sent := true })
    ∧ (s (holding c)).ctx? 0 = some c
    ∧ c.state = .contending ∧ c.offer = some { phase := .sent, expiry := 0, lapsed := false } ∧ c.window = []
    ∧ c.zone.length ≤ c.f0.toNat ∧ (s serving).ctx? 0 = none := by
  exact ⟨fun _ => rfl, rfl, rfl, rfl, rfl, by decide, rfl⟩

/-- A window of depth 16 from frame 5,000, whose block 2 alone is stored, VALID in slot 0 and unreferenced; the count one
frame before the first block's leave time. -/
theorem witness_TakenStreamFillsItsWindow :
    let c := { contending .sent with zone := { zone with effective := 3 }, f0 := 5000, depth := 16 }
    let s := tenured (.offer 0) (.offer 0x2007 0) true (cached (slotIn .valid 0 3) c probed)
    s.bus.tenure = some { item := .offer 0, frame := ownFrame 2 (.offer 0x2007 0), sent := true } ∧ s.ctx? 0 = some c
    ∧ s.TableLaw ∧ s.CacheLaw ∧ c.state = .contending
    ∧ c.offer = some { phase := .sent, expiry := 0, lapsed := false }
    ∧ c.window = [] ∧ c.activeLoop = false ∧ c.exitPass = none ∧ c.cutDistance = none
    ∧ c.f0.toNat < c.zone.length ∧ 2 ≤ c.depth ∧ c.depth ≤ 16
    ∧ c.f0.toNat / c.zone.format.framesPerBlock + c.depth ≤ (c.zone.length - 1) / c.zone.format.framesPerBlock
    ∧ c.zone.length ≤ 67108864
    ∧ signedDiff 1143 (c.origin + BitVec.ofNat 32 (((5000 / 2048 + 1) * 2048 - 5000) * 65536 / c.rate)) < 0
    ∧ ∀ j ∈ (List.range 16).filter fun j => decide (5000 / 2048 + j < c.zone.effective), ∃ p ∈ s.cache.slots,
        p.2.zone = c.zone.zone ∧ p.2.k = 5000 / 2048 + j ∧ p.2.state ≠ .filling ∧ p.2.patched = 0 := by
  intro c s
  refine ⟨rfl, rfl, cached_tableLaw (slotIn .valid 0 3) c probed,
    cached_cacheLaw (c := c) probed (by decide) rfl (by decide) (by decide), rfl, rfl,
    rfl, rfl, rfl, rfl, by decide, by decide, by decide, by decide, by decide, by decide, ?_⟩
  intro j hj
  have h : 5000 / 2048 + j < 3 := by simpa [c, s] using (List.mem_filter.mp hj).2
  have h0 : j = 0 := by omega
  exact ⟨(0, slotIn .valid 0 3), List.mem_singleton.mpr rfl, rfl, by rw [h0]; rfl, by decide, rfl⟩

/-- A state with context 1 beside those it has. -/
def alongside (s : State) (c : Context) : State :=
  { s with streams := { s.streams with contexts := s.streams.contexts ++ [(1, c)] } }

theorem alongside_cacheLaw {s : State} {c : Context} (h : s.CacheLaw) (hw : c.window = []) : (alongside s c).CacheLaw := by
  have hr : ∀ n, (alongside s c).refsTo n = s.refsTo n := by
    intro n
    simp [alongside, State.refsTo, hw]
  obtain ⟨h1, h2, h3, h4, h5, h6, h7, h8, h9, h10, h11⟩ := h
  refine ⟨h1, fun p hp => (h2 p hp).trans (hr p.1).symm, ?_, h4, h5, h6, h7, h8, h9, h10, ?_⟩
  · intro p hp e he
    rcases List.mem_append.mp hp with hp | hp
    · exact h3 p hp e he
    · rw [List.mem_singleton.mp hp, hw] at he
      cases he
  · intro p hp hs
    rcases List.mem_append.mp hp with hp | hp
    · exact h11 p hp hs
    · rw [List.mem_singleton.mp hp]
      exact hw

/-- Its first block PATCHED or FILLING in slot 0, for another stream's entry; in FILLING the deadlines are equal. -/
theorem witness_TakenStreamFillsItsWindow_shared :
    let c := { contending .sent with zone := { zone with effective := 3 }, f0 := 4096 }
    let other := { stream with id := 0x2009, window := [heldEntry] }
    let patched := { slotIn .patched 1 3 with patched := 5 }
    let filling := { slotOf 1 0 with deadline := 0xFFFFFC00 }
    let s := fun slot k => tenured (.offer 1) (.offer 0x2007 0) true (alongside (cached slot other k) c)
    (∀ slot k, (s slot k).ctx? 1 = some c ∧ (s slot k).TableLaw)
    ∧ (s patched probed).CacheLaw ∧ patched.state = .patched ∧ patched.patched ≠ 0 ∧ c.policy = .tolerant
    ∧ ((s filling (fetchingChannel (.fetchPage 0) 0)).CacheLaw ∧ (s filling (fetchingChannel (.fetchPage 0) 0)).FetchLaw
      ∧ filling.refs ≠ 0 ∧ 0 ≤ signedDiff (c.origin + 0 - 1024) filling.deadline)
    ∧ c.f0.toNat / c.zone.format.framesPerBlock = 2 ∧ patched.k = 2 ∧ 2 < c.zone.effective := by
  intro c other patched filling s
  refine ⟨fun slot k => ⟨rfl, ?_⟩,
    alongside_cacheLaw (cached_cacheLaw (slot := patched) (c := other) probed (by decide +kernel) rfl (by decide) (by decide)) rfl,
    rfl, by decide, rfl,
    ⟨alongside_cacheLaw (cached_cacheLaw (slot := filling) (c := other) _ (by decide +kernel) rfl (by decide) (by decide)) rfl,
      cached_fetchLaw (slot := filling) other rfl rfl (by decide) (by decide) rfl (by decide), by decide, by decide⟩,
    by decide, rfl, by decide⟩
  refine ⟨?_, ?_, (cached_tableLaw slot other k).2.2⟩
  · show Sparse.wf [(0, other), (1, c)]
    unfold Sparse.wf
    simp
  · show ∀ p ∈ [(0, other), (1, c)], p.1 < Config.contexts
    decide +kernel

theorem freeList_take (c : Cache) (d : Nat) (h : c.freeNext + d ≤ Config.slots) :
    c.freeList.take d = (List.range d).map (· + c.freeNext) := by
  rw [Cache.freeList, List.take_append_of_le_length (by simp; omega), ← List.map_take, List.take_range,
    Nat.min_eq_left (by omega)]

/-- The first two blocks stored and in no slot, their channels IDLE; the free list gives slots 1 and 2. -/
theorem witness_TakenStreamFillsItsWindow_missed :
    let c := { contending .sent with zone := { zone with effective := 235 } }
    let s := tenured (.offer 0) (.offer 0x2007 0) true (cached (slotIn .valid 0 3) c probed)
    let n : Nat → SlotNo := fun j => ⟨(j + 1) % 262144, Nat.mod_lt _ (by decide)⟩
    s.ctx? 0 = some c ∧ s.TableLaw ∧ s.CacheLaw ∧ c.activeLoop = false ∧ c.depth = 2
    ∧ ((List.range c.depth).filter fun j => decide (0 / 2048 + j < c.zone.effective)).length = c.depth
    ∧ s.cleared = false ∧ (∀ p ∈ s.cache.slots, p.2.zone = c.zone.zone → ∀ j < c.depth, p.2.k ≠ 0 / 2048 + j)
    ∧ s.cache.freeList.take c.depth = (List.range c.depth).map (fun j => (n j).val)
    ∧ ∀ j < c.depth, (s.chan (channelOf (c.zone.base + (0 / 2048 + j)))).offline = false
        ∧ (s.chan (channelOf (c.zone.base + (0 / 2048 + j)))).queue = []
        ∧ (s.chan (channelOf (c.zone.base + (0 / 2048 + j)))).pageCount = some 15000
        ∧ channelPage (c.zone.base + (0 / 2048 + j)) 0 < 15000 := by
  intro c s n
  refine ⟨rfl, cached_tableLaw (slotIn .valid 0 3) c probed,
    cached_cacheLaw (c := c) probed (by decide) rfl (by decide) (by decide), rfl, rfl, by decide, by decide +kernel, ?_,
    (freeList_take s.cache 2 (Nat.le_of_ble_eq_true rfl)).trans (by decide), by decide +kernel⟩
  intro p hp _ j hj
  rw [List.mem_singleton.mp hp]
  have : j < 2 := hj
  show 2 ≠ 0 / 2048 + j
  omega

/-- A LOOPING one: the loop of frames 12,300 to 13,000 lies in block 2, the first run's block too, VALID in slot 0; so
every element is of that block. -/
theorem witness_TakenStreamFillsItsWindow_looping :
    let l : Loop := { first := 12300, stop := 13000 }
    let c := { contending .sent with
      zone := { looped.zone with effective := 3, loop := some l }, f0 := 12288, depth := 16, activeLoop := true }
    let s := tenured (.offer 0) (.offer 0x2007 0) true (cached (slotIn .valid 0 3) c probed)
    s.ctx? 0 = some c ∧ s.TableLaw ∧ s.CacheLaw ∧ c.state = .contending
    ∧ some l = (if c.activeLoop = true then c.zone.loop else none) ∧ c.exitPass = none ∧ c.cutDistance = none
    ∧ (c.f0.toNat < l.stop ∧ l.first + 256 ≤ l.stop ∧ l.stop ≤ c.zone.length) ∧ c.zone.length ≤ 67108864
    ∧ ((l.stop - 1) / 6144 - c.f0.toNat / 6144 + 1 = 1 ∧ (l.stop - 1) / 6144 - l.first / 6144 + 1 = 1
      ∧ c.zone.format.framesPerBlock = 6144 ∧ 12288 / 6144 + 0 = 2 ∧ (∀ j, l.first / 6144 + (j - 1) % 1 = 2)
      ∧ 2 < c.zone.effective)
    ∧ signedDiff 711 (c.origin + BitVec.ofNat 32 ((min ((2 + 1) * 6144) l.stop - 12288) * 65536 / c.rate)) < 0
    ∧ ∃ p ∈ s.cache.slots, p.2.zone = c.zone.zone ∧ p.2.k = 2 ∧ p.2.state = .valid ∧ p.2.patched = 0 := by
  intro l c s
  refine ⟨rfl, cached_tableLaw (slotIn .valid 0 3) c probed,
    cached_cacheLaw (c := c) probed (by decide) rfl (by decide) (by decide), rfl, rfl, rfl, rfl, by decide, by decide,
    ⟨by decide, by decide, rfl, rfl, fun j => by show 12300 / 6144 + (j - 1) % 1 = 2; omega, by decide⟩, by decide, ?_⟩
  exact ⟨(0, slotIn .valid 0 3), List.mem_singleton.mpr rfl, rfl, rfl, rfl, rfl⟩

/-- A mark that brings the count to the head's leave time: the next entry, patched, becomes head; with none behind it a
stream whose sequence is closed is over. -/
theorem witness_StaleHeadsAreDropped :
    let c := fun (closed : Bool) (w : List Entry) => { stream with gen := { stream.gen with closed := closed }, window := w }
    let s := fun (c : Context) => ({ holding c with clock := { serving.clock with sfc := 1984 } } : State)
    let marked := fun (c : Context) => { s c with clock := { (s c).clock.captured 0 with sfc := (s c).clock.sfc + 64 } }
    let next := { entry 1 4096 with patched := 1 }
    (∀ x, (s x).clock.state = .running ∧ (s x).clockTakes = true
      ∧ (s x).clock.isGlitch ((s x).clock.localTime + 0) = false
      ∧ (s x).clock.load = none ∧ (s x).TableLaw ∧ (s x).ctx? 0 = some x
      ∧ ∀ p ∈ (s x).streams.contexts, p.1 ≠ 0 → p.2.delivering = true → ∀ e rest, p.2.window = e :: rest →
          e.isStale ((s x).clock.sfc + 64) = false)
    ∧ (c false [entry 0 2048, next]).WindowLaw ∧ (c true [entry 0 2048]).WindowLaw ∧ (c true []).state = .running
    ∧ (marked (c false [entry 0 2048, next])).ServesHeads (c false [entry 0 2048, next]) [entry 0 2048] [next]
    ∧ (marked (c true [entry 0 2048])).ServesHeads (c true [entry 0 2048]) [entry 0 2048] [] := by
  refine ⟨fun x => ⟨rfl, rfl, rfl, rfl, holding_tableLaw x, rfl, ?_⟩, ?_, ?_, rfl,
    serves rfl (by decide +kernel) (.inr rfl) rfl (by decide +kernel),
    serves rfl (by decide +kernel) (.inl rfl) rfl (by decide +kernel)⟩
  · intro p hp h
    exact absurd (congrArg Prod.fst (List.mem_singleton.mp hp)) h
  · unfold Context.WindowLaw
    decide +kernel
  · unfold Context.WindowLaw
    decide +kernel

/-- The slot that carries the key: VALID on the reclaim list, PATCHED, and FILLING with a deadline of 55; the channel of
its fetch. -/
theorem witness_LookupByTheSlotsState_hit :
    let s := fun (slot : Slot) (refs : Nat) =>
      cached slot { stream with window := List.replicate refs heldEntry } (fetchingChannel (.fetchPage 0) 0)
    (∀ slot refs, (s slot refs).TableLaw ∧ (s slot refs).slot? 0 = some slot)
    ∧ (∀ state refs, (slotIn state refs 0).zone = 0x100010 ∧ (slotIn state refs 0).k = 2)
    ∧ (s (slotIn .valid 0 3) 0).CacheLaw ∧ (s (slotIn .patched 1 3) 1).CacheLaw
    ∧ ((s (slotOf 1 0) 1).CacheLaw ∧ (s (slotOf 1 0) 1).FetchLaw
      ∧ fetchOf 0 ∈ ((s (slotOf 1 0) 1).chan 4).queue ∧ (fetchOf 0).slot = 0
      ∧ 0 ≤ signedDiff 55 (slotOf 1 0).deadline ∧ signedDiff 54 (slotOf 1 0).deadline < 0) := by
  exact ⟨fun slot refs => ⟨cached_tableLaw _ _ _, rfl⟩, fun _ _ => ⟨rfl, rfl⟩,
    cached_cacheLaw _ (by decide +kernel) rfl (by decide) (by decide),
    cached_cacheLaw _ (by decide +kernel) rfl (by decide) (by decide),
    cached_cacheLaw _ (by decide +kernel) rfl (by decide) (by decide),
    cached_fetchLaw _ rfl rfl (by decide) (by decide) rfl (by decide), List.mem_singleton.mpr rfl, rfl, by decide, by decide⟩

/-- The first m slots VALID and unreferenced, the reclaim list as given, and no slot that was never used. -/
def reclaimable (m : Nat) (l : List SlotNo) : State :=
  { serving with cache := { serving.cache with
      slots := (List.range m).map fun n => (n, { slotIn .valid 0 3 with zone := 0x100011, k := n })
      freeNext := m, reclaim := l } }

theorem reclaimable_wf (m : Nat) (l : List SlotNo) : Sparse.wf (reclaimable m l).cache.slots :=
  List.Pairwise.map _ (fun _ _ h => h) List.pairwise_lt_range

theorem reclaimable_tableLaw {m : Nat} (l : List SlotNo) (h : m ≤ Config.slots) : (reclaimable m l).TableLaw := by
  refine ⟨serving_tableLaw.1, serving_tableLaw.2.1, reclaimable_wf m l, ?_⟩
  intro p hp
  obtain ⟨n, hn, rfl⟩ := List.mem_map.mp hp
  exact Nat.lt_of_lt_of_le (List.mem_range.mp hn) h

theorem reclaimable_cacheLaw {m : Nat} {l : List SlotNo} (h : m ≤ Config.slots) (hl : l.Nodup)
    (hm : ∀ n : SlotNo, n.val < m) (ha : ∀ n, n ∈ l) : (reclaimable m l).CacheLaw := by
  have slot : ∀ n : SlotNo, (reclaimable m l).slot? n = some { slotIn .valid 0 3 with zone := 0x100011, k := n.val } :=
    fun n => (Sparse.get_eq_some_iff (reclaimable_wf m l)).mpr
      (List.mem_map.mpr ⟨n.val, List.mem_range.mpr (hm n), rfl⟩)
  refine ⟨?_, ?_, (by intro p hp; cases hp), h, List.nodup_nil, (by intro n hn; cases hn), ?_, hl, ?_, ?_,
    (by intro p hp; cases hp)⟩
  · show ((List.map _ (List.range m)).map _).Nodup
    rw [List.map_map]
    exact List.Nodup.map (fun a b h => congrArg Prod.snd h) List.nodup_range
  · intro p hp
    obtain ⟨n, -, rfl⟩ := List.mem_map.mp hp
    rfl
  · intro n
    rw [slot]
    refine ⟨fun h => (by cases h), fun h => ?_⟩
    rcases h with h | h
    · cases h
    · exact absurd (hm n) (Nat.not_lt.mpr h)
  · intro n
    rw [slot]
    exact ⟨fun _ => ⟨_, rfl, rfl, rfl⟩, fun _ => ha n⟩
  · intro p hp h
    obtain ⟨n, -, rfl⟩ := List.mem_map.mp hp
    cases h

theorem reclaimable_zone {m : Nat} {l : List SlotNo} {p : Nat × Slot} (h : p ∈ (reclaimable m l).cache.slots) :
    p.2.zone = 0x100011 := by
  obtain ⟨n, -, rfl⟩ := List.mem_map.mp h
  rfl

theorem reclaimable_head {m : Nat} {l : List SlotNo} (h : Config.slots ≤ m) :
    (reclaimable m l).cache.freeList = []
    ∧ ((reclaimable m l).cache.freeList ++ (reclaimable m l).cache.reclaim.map Fin.val).head? = l.head?.map Fin.val := by
  have empty : (reclaimable m l).cache.freeList = [] := by
    show (List.range (Config.slots - m)).map _ ++ [] = []
    simp [Nat.sub_eq_zero_of_le h]
  refine ⟨empty, ?_⟩
  rw [empty]
  simp [reclaimable]

theorem freeList_head (c : Cache) (l : List Nat) (h : c.freeNext < Config.slots) :
    (c.freeList ++ l).head? = some c.freeNext := by
  cases hk : Config.slots - c.freeNext with
  | zero => omega
  | succ k => simp [Cache.freeList, hk, List.range_succ_eq_map]

theorem finRange_head (n : Nat) : (List.finRange (n + 1)).head? = some 0 := by simp [List.finRange_succ]

/-- A key no slot carries, the free list's head taken, and the reclaim list's where the free list is empty; the block's
channel OFFLINE, busy, awaiting its probe, under a counted CLEAR, and IDLE with the block within and beyond its extent. -/
theorem witness_LookupByTheSlotsState_miss :
    let s := fun (k : Channel) => cached (slotIn .valid 0 3) { stream with window := [] } k
    (∀ k, (s k).TableLaw ∧ (s k).CacheLaw ∧ (s k).chan (channelOf 12) = k)
    ∧ (∀ k, ∀ p ∈ (s k).cache.slots, p.2.zone = 0x100010 → p.2.k ≠ 3)
    ∧ (∀ k, ((s k).cache.freeList ++ (s k).cache.reclaim.map Fin.val).head? = some (1 : SlotNo).val)
    ∧ (let full := reclaimable 262144 (List.finRange 262144)
      full.TableLaw ∧ full.CacheLaw ∧ (∀ p ∈ full.cache.slots, p.2.zone = 0x100010 → p.2.k ≠ 3)
      ∧ full.cache.freeList = []
      ∧ (full.cache.freeList ++ full.cache.reclaim.map Fin.val).head? = some (0 : SlotNo).val)
    ∧ ({ probed with offline := true } : Channel).offline = true
    ∧ ({ probed with offline := false, probePending := true } : Channel).probePending = true
    ∧ (fetchingChannel (.fetchPage 0) 0).op ≠ none ∧ (clearLine .counted (s probed)).cleared = true
    ∧ (probed.op = none ∧ probed.probePending = false ∧ (s probed).cleared = false ∧ probed.queue = []
      ∧ probed.pageCount = some 15000 ∧ channelPage 12 0 < 15000)
    ∧ ∀ m, ({ probed with pageCount := some 3 } : Channel).pageCount = some m → m ≤ channelPage 12 0 := by
  refine ⟨fun k => ⟨cached_tableLaw _ _ _, cached_cacheLaw k (by decide) rfl (by decide) (by decide), rfl⟩, ?_, ?_,
    ⟨reclaimable_tableLaw _ (Nat.le_refl _),
      reclaimable_cacheLaw (Nat.le_refl _) (List.nodup_finRange _) (fun n => n.isLt) List.mem_finRange, ?_,
      (reclaimable_head (Nat.le_refl _)).1, ?_⟩, rfl, rfl, by decide, by decide +kernel,
    ⟨rfl, rfl, by decide +kernel, rfl, rfl, by decide⟩, ?_⟩
  · intro k p hp
    rw [List.mem_singleton.mp hp]
    decide
  · intro k
    exact freeList_head _ _ (Nat.le_of_ble_eq_true rfl)
  · intro p hp h
    rw [reclaimable_zone hp] at h
    exact absurd h (by decide)
  · exact (reclaimable_head (m := 262144) (Nat.le_refl 262144)).2.trans
      (congrArg (Option.map Fin.val) (finRange_head 262143))
  · intro m hm
    cases hm
    decide

/-- The entry of a stored block, its slot FILLING. -/
theorem witness_LookupByTheSlotsState_entry :
    let c := { stream with zone := { zone with effective := 3 }, window := [heldEntry] }
    let s := cached (slotOf 1 0) c (fetchingChannel (.fetchPage 0) 0)
    c.gen.k < c.zone.effective ∧ ∃ found,
      s.lookup c.zone.zone c.gen.k (c.zone.base + c.gen.k) (c.nextEntry s.lead).deadline = some found
      ∧ ∃ slot, found.state.slot? found.slot = some slot := by
  refine ⟨by decide, _, rfl, _, rfl⟩

/-- A fetch for an entry's slot, on a channel that is OFFLINE or on one whose page count of 3 its first page meets. -/
theorem witness_LookupByTheSlotsState_report :
    let s := fun k => cached (slotOf 1 0) { stream with window := [heldEntry] } k
    let beyond := { probed with queue := [fetchOf 0], pageCount := some 3 }
    (∀ k, (s k).TableLaw ∧ (s k).MemoryLaw ∧ (s k).CacheLaw ∧ (∀ p ∈ (s k).streams.contexts, p.2.policy = .tolerant)
      ∧ (s k).slot? (fetchOf 0).slot = some (slotOf 1 0) ∧ (s k).chan 4 = k)
    ∧ (fetchOf 0).pagesDone = 0 ∧ beyond.queue = [fetchOf 0]
    ∧ (∀ m, beyond.pageCount = some m → m ≤ channelPage (fetchOf 0).block 0) ∧ probed.queue = [] := by
  refine ⟨fun k => ⟨cached_tableLaw _ _ _, ⟨List.Pairwise.nil, (by intro c hc; cases hc)⟩,
    cached_cacheLaw k (by decide +kernel) rfl (by decide) (by decide), ?_, rfl, rfl⟩, rfl, rfl, ?_, rfl⟩
  · intro p hp
    rw [List.mem_singleton.mp hp]
    rfl
  · intro m hm
    cases hm
    decide

/-- The last reference of a slot and one of two, by the slot's state; its fetch in no queue, waiting, in its second page,
and in its third. -/
theorem witness_ReferenceReleased :
    let s := fun (slot : Slot) (k : Channel) => cached slot { stream with window := [heldEntry] } k
    let waits := { fetchingChannel .discardedFetchPage 0 with op := none }
    (entry 0 2048).slot = none ∧ heldEntry.slot = some 0 ∧ (∀ slot k, (s slot k).slot? 0 = some slot)
    ∧ (1 < (slotIn .valid 2 3).refs ∧ ∀ state, (slotIn state 1 3).refs = 1 ∧ (slotIn state 1 3).state = state)
    ∧ (∀ c, ∀ f ∈ ((s (slotOf 1 2) probed).chan c).queue, f.slot ≠ 0)
    ∧ ((∀ k ∈ [waits, fetchingChannel (.fetchPage 0) 1, fetchingChannel (.fetchPage 0) 2], (s (slotOf 1 2) k).FetchLaw)
      ∧ fetchOf 0 ∈ ((s (slotOf 1 2) waits).chan 4).queue ∧ waits.op = none
      ∧ fetchOf 1 ∈ ((s (slotOf 1 2) (fetchingChannel (.fetchPage 0) 1)).chan 4).queue ∧ (fetchOf 1).pagesDone < 2
      ∧ fetchOf 2 ∈ ((s (slotOf 1 2) (fetchingChannel (.fetchPage 0) 2)).chan 4).queue ∧ (fetchOf 2).pagesDone = 2) := by
  refine ⟨rfl, rfl, fun _ _ => rfl, ⟨by decide, fun _ => ⟨rfl, rfl⟩⟩, by decide +kernel, ?_, List.mem_singleton.mpr rfl,
    rfl, List.mem_singleton.mpr rfl, by decide, List.mem_singleton.mpr rfl, rfl⟩
  intro k hk
  simp only [List.mem_cons, List.not_mem_nil, or_false] at hk
  rcases hk with rfl | rfl | rfl <;> exact cached_fetchLaw _ rfl rfl (by decide) (by decide) rfl (by decide)

/-- Page 0 of a fetch that awaits cancellation ends, in each way. -/
theorem witness_ReferenceReleased_cancelled :
    let f := { fetchOf 0 with cancelPending := true }
    let s := cached (slotOf 0 0) { stream with window := [] } { fetchingChannel (.fetchPage 0) 0 with queue := [f] }
    ((s.chan 4).op = some { kind := .fetchPage 0, issued := 0 } ∧ (s.chan 4).queue = [f] ∧ f.slot = 0
      ∧ f.cancelPending = true ∧ (s.chan 4).offline = false ∧ (s.chan 4).probePending = false ∧ s.cleared = false
      ∧ s.dir.program = none ∧ s.dir.load = none) ∧ ∀ x ∈ pageEnds, s.CanEnd x.1 4 0 x.2 := by
  exact ⟨by decide +kernel, canEnd (by decide +kernel) (by decide +kernel) (by decide +kernel)⟩

/-- A head SENT: before an entry one frame from its leave time, before a stale one, and as the last of its window; of a
RUNNING stream whose sequence is closed and of a LOOPING one; before a refill by block 2, VALID in slot 0; and of a context
that a CLEAR has freed. -/
theorem witness_OwnBlockAckDelivers :
    let head := { entry 0 2048 with busPhase := .sent }
    let c := fun (w : List Entry) => { stream with gen := { stream.gen with closed := true }, window := w }
    let laps := { looped with state := .looping, exitPass := none, window := [head, entry 1 4095] }
    let s := fun (u : State) => tenured (.block 0 none) (.block headBlock) true { u with
      clock := { serving.clock with sfc := 4095 } }
    let held := fun (c : Context) (rest : List Entry) => { c with window := rest, delivered := 1, nacks := 0 }
    let stored := { stream with window := [head, entry 1 6144], zone := { zone with effective := 3 } }
    let cache := s (cached (slotIn .valid 0 3) stored probed)
    (∀ u, (s u).bus.tenure = some { item := .block 0 none, frame := ownFrame 2 (.block headBlock), sent := true })
    ∧ (ownFrame 2 (.block headBlock)).body = .block headBlock ∧ (s serving).ctx? 0 = none ∧ head.busPhase = .sent
    ∧ (∀ c, (s (holding c)).ctx? 0 = some c ∧ (s (holding c)).TableLaw) ∧ (∀ w, (c w).delivering = true)
    ∧ laps.delivering = true ∧ (c [head, entry 1 4096]).WindowLaw ∧ laps.WindowLaw
    ∧ (s (holding (c [head, entry 1 4096]))).ServesHeads (held (c []) [entry 1 4096]) [] [entry 1 4096]
    ∧ (s (holding (c [head]))).ServesHeads (held (c []) []) [] []
    ∧ (s (holding laps)).ServesHeads (held laps [entry 1 4095]) [entry 1 4095] []
    ∧ (cache.ctx? 0 = some stored ∧ cache.TableLaw ∧ stored.WindowLaw ∧ stored.window.length = stored.depth
      ∧ stored.gen.closed = false ∧ stored.gen.k < stored.zone.effective
      ∧ (entry 1 6144).isStale 4095 = false ∧ (entry 1 6144).patched = 0
      ∧ ∀ delivery streams, ∃ t, (State.released [head] { cache.slotEnded 0 with delivery := delivery, streams := streams }
          ).createEntry 0 (held stored [entry 1 6144]) = some (t, .none)) := by
  refine ⟨fun _ => rfl, rfl, rfl, rfl, fun c => ⟨rfl, holding_tableLaw c⟩, fun _ => rfl, rfl, ?_, ?_,
    serves rfl (by decide +kernel) (.inl rfl) rfl (by decide +kernel),
    serves rfl (by decide +kernel) (.inl rfl) rfl (by decide +kernel),
    serves rfl (by decide +kernel) (.inr rfl) rfl (by decide +kernel),
    rfl, cached_tableLaw _ _ probed, ?_, rfl, rfl, by decide, by decide +kernel, rfl, fun _ _ => ⟨_, rfl⟩⟩
  all_goals
    unfold Context.WindowLaw
    decide +kernel

/-- A delivery whose refill misses: the block's channel OFFLINE, and one whose page count its first page meets. -/
theorem witness_OwnBlockAckDelivers_reported :
    let head := { entry 0 2048 with busPhase := .sent }
    let stored := { stream with
      window := [head, entry 1 6144], zone := { zone with base := 9, effective := 5 }, gen := { stream.gen with k := 3 } }
    let held := { stored with window := [entry 1 6144], delivered := 1, nacks := 0 }
    let s := fun k => tenured (.block 0 none) (.block headBlock) true (cached (slotIn .valid 0 3) stored k)
    let ended := fun (k : Channel) => ({ (s k).slotEnded 0 with
      delivery :=
        { views := [(1, 0), (2, 0xF7)]
          counts := { serving.delivery.counts with blocksAcknowledged := 1, phantomBlock := 1 } }
      streams := { contexts := [(0, held)], counts := { serving.streams.counts with delivered := 1 } } } : State)
    let reports := fun (k : Channel) => (((ended k).released [head]).createEntry 0 held).map Prod.snd
    let f : Fetch := { slot := 1, block := 12, deadline := 0x1400, pagesDone := 0, cancelPending := false, order := 0 }
    reports { probed with offline := true } = some (.offline 4 f)
    ∧ reports { probed with pageCount := some 3 } = some (.beyond 4 1) := by
  decide +kernel

/-- The third NACK in a row, of a head one frame from its leave time and of a stale one, and the fourth; and the NACK of a
context that a CLEAR has freed. -/
theorem witness_OwnBlockNackCounts :
    let head := { entry 0 2048 with busPhase := .sent }
    let c := fun (n : Nat) => { stream with nacks := n, window := [head, entry 1 4096] }
    let s := fun (sfc : Time) (u : State) => tenured (.block 0 none) (.block headBlock) true { u with
      clock := { serving.clock with sfc := sfc } }
    (∀ sfc u, (s sfc u).bus.tenure = some { item := .block 0 none, frame := ownFrame 2 (.block headBlock), sent := true })
    ∧ (ownFrame 2 (.block headBlock)).body = .block headBlock ∧ (s 2047 serving).ctx? 0 = none
    ∧ (∀ sfc n, (s sfc (holding (c n))).ctx? 0 = some (c n) ∧ (s sfc (holding (c n))).TableLaw)
    ∧ (∀ n, (c n).window = head :: [entry 1 4096]) ∧ head.busPhase = .sent ∧ (c 2).nacks < 3 ∧ (c 3).nacks = 3
    ∧ signedDiff 2047 head.leaveTime < 0
    ∧ ((c 2).delivering = true ∧ (c 2).WindowLaw ∧ [entry 0 2048] ≠ [] ∧ (s 2048 (holding (c 2))).ServesHeads
        { c 2 with window := { head with busPhase := .none } :: [entry 1 4096], nacks := 3 } [entry 0 2048]
        [entry 1 4096]) := by
  refine ⟨fun _ _ => rfl, rfl, rfl, fun _ n => ⟨rfl, holding_tableLaw (c := _)⟩, fun _ => rfl, rfl, by decide, rfl, by decide,
    rfl, ?_, by decide, serves rfl (by decide +kernel) (.inr rfl) rfl (by decide +kernel)⟩
  unfold Context.WindowLaw
  decide +kernel

theorem witness_OwnOfferAndNoticeSlots_notice :
    let c := { stream with state := .spent, window := [] }
    let s := fun u => tenured (.ended 0) (.endNotice 0x2007 1 0 0 0) true u
    (∀ u, (s u).bus.tenure = some { item := .ended 0, frame := ownFrame 2 (.endNotice 0x2007 1 0 0 0), sent := true })
    ∧ (s (holding c)).ctx? 0 = some c ∧ c.state = .spent ∧ (s serving).ctx? 0 = none
    ∧ (tenured .stored (.storedNotice 9 1) true serving).bus.tenure
        = some { item := .stored, frame := ownFrame 2 (.storedNotice 9 1), sent := true }
    ∧ (tenured .state (.state []) true serving).bus.tenure
        = some { item := .state, frame := ownFrame 2 (.state []), sent := true } := by
  exact ⟨fun _ => rfl, rfl, rfl, rfl, rfl, rfl⟩

/-- The watch at 10,000 µs; CLEAR released, and asserted for 99 µs. -/
theorem witness_BusPortTimers :
    let s := { serving with bus := { serving.bus with watch := .running 0, requests := 4 } }
    s.bus.watch = .running 0 ∧ 10000 ≤ signedDiff (s.clock.localTime + 10000) 0 ∧ s.somethingToSend = true
    ∧ s.cleared = false ∧ serving.bus.clear = .released
    ∧ (clearLine (.asserted 0) serving).bus.clear = .asserted 0
    ∧ signedDiff ((clearLine (.asserted 0) serving).clock.localTime + 99) 0 < 100 := by decide +kernel

/-- A contest that opens, a frame received, an acknowledge slot, an episode, and the slot of a frame of the 7240's own. -/
theorem witness_BusPortTimers_restarts :
    let s := onBus .busy { serving with bus := { serving.bus with requests := 4 } }
    let episode := { s with bus := { s.bus with watch := .episode } }
    s.bus.requests ≠ 0 ∧ s.cleared = false ∧ { s with bus := { s.bus with startBit := true } }.contestOpens = true
    ∧ s.listening = true ∧ s.bus.state ≠ .gap ∧ s.bus.state ≠ .free ∧ s.bus.state ≠ .busyDominant
    ∧ s.bus.watch ≠ .episode
    ∧ (episode.listening = true ∧ episode.bus.requests ≠ 0 ∧ episode.bus.watch = .episode)
    ∧ (tenured .stored (.storedNotice 9 1) true s).bus.tenure
        = some { item := .stored, frame := ownFrame 2 (.storedNotice 9 1), sent := true } := by decide +kernel

/-- A watch that runs, an episode, and a watch found idle, at a command that brings no boundary; BUS_STUCK one microsecond
early. -/
theorem witness_BusPortTimers_kept :
    let s := fun w => ({ serving with bus := { serving.bus with requests := 4, watch := w } } : State)
    (∀ w ∈ [StuckWatch.idle, .running 0, .episode], ∃ t, exec (.storeTaken 7) (s w) = .next t
      ∧ t.somethingToSend = true ∧ t.cleared = false
      ∧ t.bus.watch = match w with | .idle => .running 7 | w => w)
    ∧ (Instr.storeTaken 7).isBoundary = false ∧ (Instr.busStuck 9999).isBoundary = false
    ∧ signedDiff ((s (.running 0)).clock.localTime + 9999) 0 < 10000 := by
  refine ⟨?_, rfl, rfl, by decide +kernel⟩
  intro w hw
  refine ⟨_, rfl, ?_⟩
  revert w
  decide +kernel

/-- CLEAR at 100 µs in each phase. -/
theorem witness_ClearReachesEveryBlock_counted :
    let s := fun p => inPhase p (clearLine (.asserted 0) (holding stream))
    (∀ p, (s p).bus.clear = .asserted 0 ∧ (s p).status.phase = p)
    ∧ 100 ≤ signedDiff ((s .serving).clock.localTime + 100) 0 ∧ (holding stream).TableLaw := by
  exact ⟨fun _ => ⟨rfl, rfl⟩, by decide +kernel, holding_tableLaw _⟩

theorem witness_ClearReachesEveryBlock_released :
    ∀ p, (inPhase p (clearLine .counted serving)).bus.clear = .counted
      ∧ (inPhase p (clearLine .counted serving)).status.phase = p := fun _ => ⟨rfl, rfl⟩

/-- The slowest and the fastest rate, a time one frame after the origin and one at it. -/
theorem witness_TimesRoundUpDistancesDown :
    (0 < 16384 ∧ 262144 ≤ 262144) ∧ 0 < signedDiff (stream.origin + 1) stream.origin
    ∧ signedDiff stream.origin stream.origin ≤ 0 := by decide

/-- Plain, looping without an exit, and with the exit pass of 3.9, up to its last element but one. -/
theorem witness_SequenceAndGenerator :
    let passing := { looped with exitPass := none }
    (plain.f0.toNat < plain.zone.length ∧ plain.loop? = none ∧ plain.kFirst + 228 < plain.kEnd)
    ∧ (passing.f0.toNat < passing.zone.length ∧ passing.loop? = some ⟨6000, 18000⟩ ∧ passing.exitPass = none
      ∧ passing.f0.toNat < 18000 ∧ 6000 + 256 ≤ 18000 ∧ 18000 ≤ passing.zone.length)
    ∧ (looped.loop? = some ⟨6000, 18000⟩ ∧ looped.exitPass = some 2
      ∧ 10 + 1 < looped.firstCount ⟨6000, 18000⟩ + 2 * looped.passCount ⟨6000, 18000⟩
          + (if 18000 = looped.zone.length then 0 else looped.kEnd - 18000 / looped.blockFrames + 1))
    ∧ (looped.cutDistance = none
      ∧ ((Part.coda, 4) : Part × Nat) = looped.playedAt 11 ∧ 4 ≤ looped.kEnd
      ∧ (plain.firstGenerator.part, plain.firstGenerator.k) = plain.playedAt 0 ∧ plain.firstGenerator.closed = false
      ∧ plain.firstGenerator.k ≤ plain.kEnd) := by
  refine ⟨?_, ?_, ?_, ?_⟩ <;> decide +kernel

end Sys2Proof.Tests
end

/-! SUPPORT. The record checks of the directory load: what the length and format checks of R5 answer, and what a record
checked before another can change for it. -/

namespace Sys2Proof.Machine

/-! ### The length and format checks (R5) -/

theorem Format.ofCode_eq_none {code : Nat} (h : code ∉ [1, 2, 3, 4]) : Format.ofCode code = none := by
  unfold Format.ofCode
  split
  case h_5 => rfl
  all_goals exact absurd (by decide) h

section RecordChecks

variable {config : ConfigImage} {extent blocks : Nat} {r : RawRecord}

theorem judgeRecord_badLength (last : Option ZoneRecord) (h : r.length = 0 ∨ Config.maxLength < r.length) :
    judgeRecord config extent blocks last r = .badLength := if_pos h

theorem judgeRecord_badFormat (last : Option ZoneRecord) (hlen : ¬ (r.length = 0 ∨ Config.maxLength < r.length))
    (hfmt : r.format ∉ [1, 2, 3, 4]) : judgeRecord config extent blocks last r = .badFormat := by
  unfold judgeRecord
  rw [if_neg hlen, Format.ofCode_eq_none hfmt]

theorem checkRecord_badLength (acc : List ZoneRecord × DirectoryCounts)
    (h : r.length = 0 ∨ Config.maxLength < r.length) :
    checkRecord config extent blocks acc r = (acc.1, { acc.2 with lengthSkips := inc acc.2.lengthSkips }) := by
  rw [checkRecord, judgeRecord_badLength _ h]
  rfl

theorem checkRecord_badFormat (acc : List ZoneRecord × DirectoryCounts)
    (hlen : ¬ (r.length = 0 ∨ Config.maxLength < r.length)) (hfmt : r.format ∉ [1, 2, 3, 4]) :
    checkRecord config extent blocks acc r = (acc.1, { acc.2 with formatSkips := inc acc.2.formatSkips }) := by
  rw [checkRecord, judgeRecord_badFormat _ hlen hfmt]
  rfl

/-- A record that fails either check of R5, or both, leaves the table as it was. -/
theorem checkRecord_table_of_skip (acc : List ZoneRecord × DirectoryCounts)
    (h : (r.length = 0 ∨ Config.maxLength < r.length) ∨ r.format ∉ [1, 2, 3, 4]) :
    (checkRecord config extent blocks acc r).1 = acc.1 := by
  by_cases hlen : r.length = 0 ∨ Config.maxLength < r.length
  · rw [checkRecord_badLength acc hlen]
  · rw [checkRecord_badFormat acc hlen (h.resolve_left hlen)]

/-! ### The table is built from the table alone -/

/-- The counts kept so far have no say in what a record adds to the table. -/
theorem checkRecord_table_congr {acc acc' : List ZoneRecord × DirectoryCounts} (h : acc.1 = acc'.1) :
    (checkRecord config extent blocks acc r).1 = (checkRecord config extent blocks acc' r).1 := by
  simp only [checkRecord, h]
  cases judgeRecord config extent blocks acc'.1.getLast? r <;> rfl

theorem foldl_checkRecord_table_congr (rest : List RawRecord) {acc acc' : List ZoneRecord × DirectoryCounts}
    (h : acc.1 = acc'.1) :
    (rest.foldl (checkRecord config extent blocks) acc).1 = (rest.foldl (checkRecord config extent blocks) acc').1 := by
  induction rest generalizing acc acc' with
  | nil => exact h
  | cons r rest ih => exact ih (checkRecord_table_congr h)

end RecordChecks

/-- Settles O21: R5's checks come first, the length before the format, and what later records add depends on the table
alone, which a skipped record leaves as it was. -/
theorem recordSkippedForLengthOrFormat : Obligations.RecordSkippedForLengthOrFormat := by
  intro config extent blocks table counts r badLength badFormat after length badly
  have afterLength : badLength → after = length := checkRecord_badLength _
  refine ⟨fun hlen _ => afterLength hlen, fun hfmt hlen => checkRecord_badFormat _ hlen hfmt,
    fun hlen _ => .inl (afterLength hlen), fun hskip rest => ?_⟩
  exact foldl_checkRecord_table_congr rest (checkRecord_table_of_skip _ hskip)

end Sys2Proof.Machine

/-! SUPPORT. The block cache as a lookup finds it: what holds while no slot is occupied, and which slot a miss takes from
the free list. -/

namespace Sys2Proof.Machine

section CacheLookup

variable {s : State} {c : Cache}

/-! ### A cache in which every slot is EMPTY -/

theorem slot?_eq_none_of_slots_nil (h : s.cache.slots = []) (n : SlotNo) : s.slot? n = none :=
  Sparse.get_eq_none (by simp [h])

theorem findKey_eq_none_of_slots_nil (h : s.cache.slots = []) (zone : Zone) (k : Nat) : s.findKey zone k = none := by
  simp [State.findKey, h]

/-- A free list that nothing has left and nothing has joined holds every slot in ascending number (R112). -/
theorem freeList_eq_range (hnext : c.freeNext = 0) (htail : c.freeTail = []) : c.freeList = List.range Config.slots := by
  rw [Cache.freeList, hnext, htail, List.map_nil, List.append_nil, Nat.sub_zero]
  exact List.map_id' _

/-! ### The slot a miss takes (R104) -/

/-- While slots never taken remain, the lowest of them is the head of the free list. -/
theorem takeSlot_of_freeNext_lt (h : c.freeNext < 262144) :
    c.takeSlot = some (⟨c.freeNext, h⟩, { c with freeNext := c.freeNext + 1 }) := dif_pos h

/-- A miss answers with the slot taken for it, whatever its fetch request does to the channel. -/
theorem lookup_slot_of_miss {zone : Zone} {k block : Nat} {deadline : Time} {n : SlotNo} {d : Cache}
    (hmiss : s.findKey zone k = none) (htake : s.cache.takeSlot = some (n, d)) :
    ∃ u, s.lookup zone k block deadline = some u ∧ u.slot = n := by
  simp only [State.lookup, hmiss, State.allocate, htake, Option.some.injEq]
  exact ⟨_, rfl, rfl⟩

end CacheLookup

/-! ### Power-on -/

theorem exec_powerOn (straps : Station) (s : State) : exec (.powerOn straps) s = .next (State.powerOn straps s.pending) :=
  rfl

theorem cachePowerOn_counts : ∀ k ∈ Cache.powerOn.counts.list, k = 0 := by simp [Cache.powerOn, CacheCounts.list]

/-- Settles O3: no slot is occupied at power-on, so the first lookup is a miss and takes the head of the full free list,
slot 0. -/
theorem powerOnCacheState : Obligations.PowerOnCacheState := by
  intro straps s
  have hnext : Cache.powerOn.freeNext < 262144 := by decide
  have hempty : (State.powerOn straps s.pending).cache.slots = [] := rfl
  have hmiss := findKey_eq_none_of_slots_nil hempty
  refine ⟨_, exec_powerOn straps s, slot?_eq_none_of_slots_nil hempty, hmiss, freeList_eq_range rfl rfl, rfl,
    cachePowerOn_counts, fun zone k block deadline => ?_⟩
  exact lookup_slot_of_miss (hmiss zone k) (takeSlot_of_freeNext_lt hnext)

end Sys2Proof.Machine


/-! SUPPORT. What a command does outside the inner work, said once: every command but POWER_ON is a chain of the acts listed
here and then the standing conditions. An invariant of the acts is an invariant of every command. -/

namespace Sys2Proof.Machine

/-! ### The acts -/

/-- The acts only some commands have: those that move the bus state, a start bit sent, those on the bus-stuck watch, FAULT
brought up to date within a command, a mark, a counted CLEAR, those that move the phase, and an admission of a stream id that some
context may still hold. -/
inductive Special
  | line
  | startBit
  | watch
  | fault
  | mark
  | clear
  | image
  | unconfigured
  | probed
  | begun
  | service
  | left
  | repeated
  deriving DecidableEq

/-- The clock unit's part of the register law. -/
def Clock.InRange (c : Clock) : Prop :=
  c.synthRun ≤ Config.flywheelRun ∧ (c.state = .running → c.synthRun = 0)
  ∧ ∀ i, c.interval = some i → Config.minInterval ≤ i ∧ i ≤ Config.maxInterval

/-- A context that the offer queue may refer to. -/
def Context.Offered (c : Context) : Prop := c.state = .contending ∧ ∃ o, c.offer = some o ∧ o.phase ≠ .sent

/-- A change of a context from outside its window's work. -/
structure ContextAct (c d : Context) : Prop where
  id : d.id = c.id
  demand : d.demand = c.demand
  window : c.WindowLaw → d.WindowLaw

/-- A change of a channel. -/
structure ChannelAct (c d : Channel) : Prop where
  timeouts : c.timeouts ≤ 3 → d.timeouts ≤ 3
  counts : CountsRise c.counts.list d.counts.list

/-- A change of the bus port that leaves the line and the watch alone. -/
structure BusAct (b d : BusPort) : Prop where
  offers : d.offers.Sublist b.offers
  counts : CountsRise b.counts.list d.counts.list
  state : d.state = b.state
  startBit : d.startBit = b.startBit
  watch : d.watch = b.watch

/-- The image's fields reach their owners, before the probes. -/
def State.imageTaken (image : List Byte) (s : State) : State :=
  let config := imageFields image
  ((s.onStatus fun u => { u with phase := .probe, config := some config }).onClock fun c =>
    { c with interval := some (initialInterval config.rateCode) }).onDelivery fun d =>
    { d with views := config.bridges.map fun b => (b, 0) }

/-- The single acts of the commands, those of `S` among the special ones. -/
inductive Act (S : Special → Prop) : State → State → Prop
  | inner {s t : State} (h : Moves true s t) : Act S s t
  | fetch (f : FetchEngine → FetchEngine) (s : State)
      (h : ∀ c : ChannelNo, ChannelAct s.fetch.channels[c] (f s.fetch).channels[c]) : Act S s (s.onFetch f)
  | context (i : Nat) (f : Context → Context) (s : State) (h : ∀ c, s.ctx? i = some c → ContextAct c (f c))
      (ho : ∀ c, s.ctx? i = some c → i ∈ s.bus.offers → c.Offered → (f c).Offered) : Act S s (s.updCtx i f)
  | bus (f : BusPort → BusPort) (s : State) (h : BusAct s.bus (f s.bus)) : Act S s (s.onBus f)
  | line (state : BusState) (s : State) (hS : S .line) : Act S s (s.enterBus state)
  | startBit (s : State) (hS : S .startBit) : Act S s (s.onBus fun b => { b with state := .busy, startBit := true })
  | watch (f : StuckWatch → StuckWatch) (s : State) (hS : S .watch) (h : s.bus.watch = .idle → f s.bus.watch = .idle) :
      Act S s (s.onBus fun b => { b with watch := f b.watch })
  | clock (f : Clock → Clock) (s : State) (h : s.clock.InRange → (f s.clock).InRange)
      (hc : CountsRise s.clock.counts.list (f s.clock).counts.list)
      (ht : (f s.clock).localTime = s.clock.localTime) (hf : (f s.clock).sfc = s.clock.sfc)
      (hu : s.clock.state = .unset → (f s.clock).state = .unset) : Act S s (s.onClock f)
  | mark (f : Clock → Clock) (s : State) (hS : S .mark) (h : s.clock.InRange → (f s.clock).InRange)
      (hc : CountsRise s.clock.counts.list (f s.clock).counts.list)
      (ht : (f s.clock).localTime = s.clock.localTime) : Act S s (s.onClock f)
  | dir (f : Directory → Directory) (s : State) (hl : (f s.dir).load = s.dir.load)
      (hq : s.dir.storeQueue.length ≤ Config.storeRoom → (f s.dir).storeQueue.length ≤ Config.storeRoom)
      (hc : CountsRise s.dir.counts.list (f s.dir).counts.list) : Act S s (s.onDir f)
  | loadNext (l : DirectoryLoad) (s : State) (h : s.dir.load ≠ none) : Act S s (s.onDir fun d => { d with load := some l })
  | loadDone (header : Option DirectoryHeader) (table : List ZoneRecord) (s : State) (h : s.dir.load ≠ none) :
      Act S s (s.completeLoad header table)
  | begun (s : State) (hS : S .begun) (h : s.status.phase = .directoryLoad) : Act S s s.beginLoad
  | cue (f : CueUnit → CueUnit) (s : State) (hd : (f s.cue).demandSum = s.cue.demandSum)
      (hc : CountsRise s.cue.counts.list (f s.cue).counts.list)
      (hk : CountsRise s.cue.clamps.list (f s.cue).clamps.list) : Act S s (s.onCue f)
  | delivery (f : Delivery → Delivery) (s : State)
      (hc : CountsRise s.delivery.counts.list (f s.delivery).counts.list) : Act S s (s.onDelivery f)
  | fault (s : State) (hS : S .fault) : Act S s s.updateFault
  | probed (s : State) (hS : S .probed) : Act S s s.probeFinished
  | image (image : List Byte) (s : State) (hS : S .image) (h : s.status.phase = .configLoad) :
      Act S s (s.imageTaken image)
  | unconfigured (s : State) (hS : S .unconfigured) (h : s.status.phase = .configLoad) : Act S s s.enterUnconfigured
  | service (src : Station) (s : State) (hS : S .service) (h : s.status.phase = .serving) : Act S s (s.enterService src)
  | left (s : State) (hS : S .left) (h : s.status.phase = .service) :
      Act S s ((s.onDir fun d => { d with serviceStation := none }).onStatus fun u => { u with phase := .directoryLoad })
  | clear (s : State) (hS : S .clear) : Act S s s.clearAll
  | admission (i : Nat) (c : Context) (s : State) (hi : i < Config.contexts) (hfree : s.ctx? i = none)
      (hid : S .repeated ∨ ∀ p ∈ s.streams.contexts, p.2.id ≠ c.id) (hcap : s.cue.demandSum + c.demand ≤ s.capacity)
      (hw : c.WindowLaw) (ho : c.Offered) (hp : s.status.phase ≠ .configLoad) :
      Act S s (((s.putCtx i c).onCue fun u => { u with demandSum := u.demandSum + c.demand }).onBus fun b =>
        { b with offers := b.offers ++ [i] })
  | free (i : Nat) (c d : Context) (s : State) (hc : s.ctx? i = some d) (hd : d.demand = c.demand)
      (ho : i ∉ s.bus.offers ∨ d.state ≠ .contending) : Act S s (s.freeCtx i c)

/-- A chain of acts. -/
abbrev Acts (S : Special → Prop) : State → State → Prop := Relation.ReflTransGen (Act S)

end Sys2Proof.Machine


/-! SUPPORT. The laws the acts keep, each by the cases of an act. -/

namespace Sys2Proof.Machine

/-! ### Counts (R174) -/

/-- The counts of two states, group by group. -/
theorem counts_rise {s t : State}
    (ch : ∀ c, CountsRise (s.chan c).counts.list (t.chan c).counts.list)
    (dir : CountsRise s.dir.counts.list t.dir.counts.list)
    (clock : CountsRise s.clock.counts.list t.clock.counts.list)
    (clamps : CountsRise s.cue.clamps.list t.cue.clamps.list)
    (cue : CountsRise s.cue.counts.list t.cue.counts.list)
    (streams : CountsRise s.streams.counts.list t.streams.counts.list)
    (cache : CountsRise s.cache.counts.list t.cache.counts.list)
    (delivery : CountsRise s.delivery.counts.list t.delivery.counts.list)
    (bus : CountsRise s.bus.counts.list t.bus.counts.list)
    (onset : s.status.faultOnset.toNat ≤ t.status.faultOnset.toNat) :
    CountsRise s.counts t.counts := by
  have append : ∀ {a b c d : List Count}, CountsRise a b → CountsRise c d → CountsRise (a ++ c) (b ++ d) :=
    fun h h' => List.rel_append h h'
  have chans : CountsRise (channels.flatMap fun c => (s.chan c).counts.list)
      (channels.flatMap fun c => (t.chan c).counts.list) := by
    generalize channels = l
    induction l with
    | nil => exact .nil
    | cons c rest ih => exact append (ch c) ih
  exact append (append (append (append (append (append (append (append (append chans dir) clock) clamps) cue) streams)
    cache) delivery) bus) (.cons onset .nil)

theorem same {k : List Count} : CountsRise k k := countsRise_refl k

theorem counts_same {s t : State} (h : t.counts = s.counts) : CountsRise s.counts t.counts := h ▸ same

theorem chan_updChan (s : State) (c d : ChannelNo) (f : Channel → Channel) :
    (s.updChan c f).chan d = if c = d then f (s.chan d) else s.chan d := by
  unfold State.chan State.updChan State.onFetch
  simp only [Fin.getElem_fin, Vector.getElem_set, Fin.val_inj]
  split
  · rename_i h; subst h; rfl
  · rfl

@[simp] theorem chan_updChan_self (s : State) (c : ChannelNo) (f : Channel → Channel) :
    (s.updChan c f).chan c = f (s.chan c) := by rw [chan_updChan, if_pos rfl]

theorem chan_updChan_other (s : State) {c d : ChannelNo} (h : d ≠ c) (f : Channel → Channel) :
    (s.updChan c f).chan d = s.chan d := by rw [chan_updChan, if_neg (Ne.symm h)]

theorem chan_mapChannels (s : State) (f : Channel → Channel) (c : ChannelNo) :
    ({ s.fetch with channels := s.fetch.channels.map f } : FetchEngine).channels[c] = f (s.chan c) := by
  simp [State.chan]

/-- The inner work lets no count fall. -/
theorem Moves.counts {g : Bool} {s t : State} (h : Moves g s t) : CountsRise s.counts t.counts := by
  induction h with
  | refl => exact countsRise_refl _
  | tail _ hm ih =>
    refine countsRise_trans ih ?_
    cases hm with
    | count f _ h => exact counts_rise (fun _ => same) same same same same (h _) same same same le_rfl
    | context i f _ _ => exact counts_same rfl
    | cache f _ h => exact counts_rise (fun _ => same) same same same same same h.counts same same le_rfl
    | page n j d _ => exact counts_same rfl
    | channel c f _ h =>
      refine counts_rise (fun d => ?_) same same same same same same same same le_rfl
      rw [chan_updChan]
      split
      · exact (h _).counts
      · exact countsRise_refl _
    | notice n _ => exact counts_same rfl

theorem updateFault_rises (s : State) : CountsRise s.counts s.updateFault.counts := by
  refine counts_rise (fun _ => same) same same same same same same same same ?_
  unfold State.updateFault
  dsimp only [onStatus_status]
  split
  · exact le_inc _
  · exact le_rfl

theorem probeFinished_cases (s : State) : s.probeFinished = s ∨ ∃ p, s.probeFinished =
    (s.onFetch fun e => { e with extent := p }).onStatus fun u =>
      { u with phase := if u.phase = .probe then .directoryLoad else u.phase } := by
  unfold State.probeFinished
  split
  · exact .inr ⟨_, rfl⟩
  · exact .inl rfl

theorem clearAll_cases (s : State) : (s.status.phase = .unconfigured ∧ s.clearAll = s.onBus BusPort.clearCounts)
    ∨ (s.status.phase ≠ .unconfigured ∧ s.clearAll =
      ((((((((s.onBus BusPort.clearCounts).onClock Clock.clearCounts).onCue fun u => { u with demandSum := 0 }).onStreams
        fun e => { e with contexts := [] }).onCache Cache.clearCounts).onFetch fun e =>
        { e with channels := e.channels.map Channel.clearCounts }).closeViews).onDir
        (Directory.clearCounts s.status.phase)).onStatus fun u => { u with phase := u.phase.clearCounts }) := by
  unfold State.clearAll
  split
  · rename_i h; exact .inl ⟨h, rfl⟩
  · rename_i h; exact .inr ⟨h, rfl⟩

theorem dirClear_counts (p : Phase) (d : Directory) : (d.clearCounts p).counts = d.counts := by
  cases p <;> rfl

theorem busClear_rises (b : BusPort) : CountsRise b.counts.list b.clearCounts.counts.list := by
  simp [BusPort.clearCounts, BusCounts.list, le_inc]

/-- No act lets a count fall. -/
theorem Act.counts {S : Special → Prop} {s t : State} (h : Act S s t) : CountsRise s.counts t.counts := by
  cases h with
  | inner h => exact h.counts
  | fetch f _ h => exact counts_rise (fun c => (h c).counts) same same same same same same same same le_rfl
  | bus f _ h => exact counts_rise (fun _ => same) same same same same same same same h.counts le_rfl
  | clock f _ _ hc => exact counts_rise (fun _ => same) same hc same same same same same same le_rfl
  | mark f _ _ _ hc => exact counts_rise (fun _ => same) same hc same same same same same same le_rfl
  | dir f _ _ _ hc => exact counts_rise (fun _ => same) hc same same same same same same same le_rfl
  | cue f _ _ hc hk => exact counts_rise (fun _ => same) same same hk hc same same same same le_rfl
  | delivery f _ hc => exact counts_rise (fun _ => same) same same same same same same hc same le_rfl
  | fault => exact updateFault_rises s
  | loadDone x y _ _ => exact counts_rise (fun _ => same) (by simp [State.completeLoad, DirectoryCounts.list, le_inc]) same same same same same same same le_rfl
  | probed =>
    rcases probeFinished_cases s with h | ⟨p, h⟩ <;> rw [h]
    · exact countsRise_refl _
    · exact counts_same rfl
  | service src _ _ _ =>
    refine counts_rise (fun c => ?_) same same same same same same same same le_rfl
    have : (s.enterService src).chan c = (s.chan c).dropFetches := chan_mapChannels s _ c
    rw [this]
    exact countsRise_refl _
  | clear =>
    rcases clearAll_cases s with ⟨-, h⟩ | ⟨-, h⟩ <;> rw [h]
    · exact counts_rise (fun _ => same) same same same same same same same (busClear_rises _) le_rfl
    · refine counts_rise (fun c => ?_) ?_ same same same same same same (busClear_rises _) le_rfl
      · have : (s.fetch.channels.map Channel.clearCounts)[c] = (s.chan c).clearCounts := chan_mapChannels s _ c
        show CountsRise _ ((s.fetch.channels.map Channel.clearCounts)[c]).counts.list
        rw [this]
        exact countsRise_refl _
      · show CountsRise _ (Directory.clearCounts s.status.phase s.dir).counts.list
        rw [dirClear_counts]
        exact countsRise_refl _
  | context i f _ _ _ => exact counts_same rfl
  | line st _ _ => exact counts_same rfl
  | startBit => exact counts_same rfl
  | watch f _ _ _ => exact counts_same rfl
  | loadNext l _ _ => exact counts_same rfl
  | begun => exact counts_same rfl
  | image x _ _ _ => exact counts_same rfl
  | unconfigured => exact counts_same rfl
  | left => exact counts_same rfl
  | admission i c _ _ _ _ _ _ _ _ => exact counts_same rfl
  | free i c d _ _ _ _ => exact counts_same rfl

/-- A relation every act has and that chains is one of every chain of acts. -/
theorem Acts.lift {S : Special → Prop} {P : State → State → Prop} (refl : ∀ s, P s s)
    (trans : ∀ {s t u}, P s t → P t u → P s u) (act : ∀ {s t}, Act S s t → P s t) {s t : State} (h : Acts S s t) : P s t := by
  induction h with
  | refl => exact refl _
  | tail _ ha ih => exact trans ih (act ha)

theorem Acts.counts {S : Special → Prop} {s t : State} (h : Acts S s t) : CountsRise s.counts t.counts :=
  h.lift (P := fun s t => CountsRise s.counts t.counts) (fun _ => countsRise_refl _) countsRise_trans Act.counts

end Sys2Proof.Machine


/-! SUPPORT. The laws of the tables, the demand sum, the stream ids, the windows, the offer queue and the registers, kept by
every act. -/

namespace Sys2Proof.Machine

/-! ### Memory and tables (R72, R96) -/

theorem clearAll_memory (s : State) : s.clearAll.cache.dram = s.cache.dram := by
  rcases clearAll_cases s with ⟨-, h⟩ | ⟨-, h⟩ <;> rw [h] <;> rfl

theorem Act.memoryLaw {S : Special → Prop} {s t : State} (h : Act S s t) (hs : s.MemoryLaw) : t.MemoryLaw := by
  cases h with
  | inner h => exact h.memoryLaw hs
  | clear => unfold State.MemoryLaw; rw [clearAll_memory]; exact hs
  | probed => rcases probeFinished_cases s with h | ⟨p, h⟩ <;> rw [h] <;> exact hs
  | _ => exact hs

theorem modify_keys_mem {α : Type} {m : List (Nat × α)} {n : Nat} {f : α → α} {P : Nat → Prop}
    (h : ∀ p ∈ m, P p.1) : ∀ p ∈ Sparse.modify m n f, P p.1 := by
  intro p hp
  have : p.1 ∈ (Sparse.modify m n f).map Prod.fst := List.mem_map_of_mem hp
  rw [Sparse.modify_keys] at this
  obtain ⟨q, hq, he⟩ := List.mem_map.mp this
  exact he ▸ h q hq

theorem updCtx_tableLaw {s : State} (h : s.TableLaw) (i : Nat) (f : Context → Context) : (s.updCtx i f).TableLaw := by
  obtain ⟨hw, hk, hsw, hsk⟩ := h
  exact ⟨Sparse.modify_wf hw i f, modify_keys_mem (P := (· < Config.contexts)) hk, hsw, hsk⟩

theorem Moves.tableLaw {g : Bool} {s t : State} (h : Moves g s t) (hs : s.TableLaw) : t.TableLaw := by
  induction h with
  | refl => exact hs
  | tail _ hm ih =>
    cases hm with
    | context i f _ _ => exact updCtx_tableLaw ih i f
    | cache f _ h =>
      obtain ⟨hw, hk, hsw, hsk⟩ := ih
      exact ⟨hw, hk, h.slots hsw, h.keys hsk⟩
    | page n j d _ => exact ih
    | notice n _ => exact ih
    | count f _ _ => exact ih
    | channel c f _ _ => exact ih

theorem clearCounts_slots {c : Cache} (h : Sparse.wf c.slots) (hk : ∀ p ∈ c.slots, p.1 < Config.slots) :
    Sparse.wf c.clearCounts.slots ∧ ∀ p ∈ c.clearCounts.slots, p.1 < Config.slots := by
  constructor
  · rw [Sparse.wf_iff_keys]
    have : c.clearCounts.slots.map Prod.fst = (c.slots.filter fun x => x.2.state == .valid).map Prod.fst := by
      simp [Cache.clearCounts, Function.comp_def]
    rw [this]
    exact Sparse.wf_iff_keys.mp (List.Pairwise.filter _ h)
  · intro p hp
    obtain ⟨q, hq, rfl⟩ := List.mem_map.mp hp
    exact hk q (List.mem_of_mem_filter hq)

theorem Act.tableLaw {S : Special → Prop} {s t : State} (h : Act S s t) (hs : s.TableLaw) : t.TableLaw := by
  cases h with
  | inner h => exact h.tableLaw hs
  | context i f _ _ _ => exact updCtx_tableLaw hs i f
  | service => exact ⟨hs.1, hs.2.1, List.Pairwise.nil, fun _ h => absurd h List.not_mem_nil⟩
  | clear =>
    obtain ⟨hw, hk, hsw, hsk⟩ := hs
    rcases clearAll_cases s with ⟨-, h⟩ | ⟨-, h⟩ <;> rw [h]
    · exact ⟨hw, hk, hsw, hsk⟩
    · exact ⟨List.Pairwise.nil, fun _ h => absurd h List.not_mem_nil, clearCounts_slots hsw hsk⟩
  | admission i c _ hi _ _ _ _ _ _ =>
    obtain ⟨hw, hk, hsw, hsk⟩ := hs
    refine ⟨Sparse.put_wf hw i c, fun p hp => ?_, hsw, hsk⟩
    rcases Sparse.mem_put hp with rfl | hp
    · exact hi
    · exact hk p hp
  | free i c d _ _ _ _ =>
    obtain ⟨hw, hk, hsw, hsk⟩ := hs
    exact ⟨Sparse.erase_wf hw i, fun p hp => hk p (List.mem_of_mem_filter hp), hsw, hsk⟩
  | probed => rcases probeFinished_cases s with h | ⟨p, h⟩ <;> rw [h] <;> exact hs
  | _ => exact hs

/-! ### Records that every change keeps -/

/-- A change of one record that keeps a figure of it keeps the list of the figures. -/
theorem map_modify_eq {α β : Type} {m : List (Nat × α)} {i : Nat} {f : α → α} {g : α → β} (hm : Sparse.wf m)
    (h : ∀ a, Sparse.get m i = some a → g (f a) = g a) :
    (Sparse.modify m i f).map (fun p => g p.2) = m.map fun p => g p.2 := by
  simp only [Sparse.modify, List.map_map]
  refine List.map_congr_left fun p hp => ?_
  simp only [Function.comp]
  split
  · rename_i hpi
    exact h p.2 ((Sparse.get_eq_some_iff hm).mpr (hpi ▸ hp))
  · rfl

theorem Moves.map_context {β : Type} {g : Context → β} (hg : ∀ {b : Bool} {c d : Context}, ContextStep b c d → g d = g c)
    {b : Bool} {s t : State} (h : Moves b s t) (hs : s.TableLaw) :
    (t.streams.contexts.map fun p => g p.2) = s.streams.contexts.map fun p => g p.2 := by
  induction h with
  | refl => rfl
  | tail hms hm ih =>
    rw [← ih]
    have ht := Moves.tableLaw hms hs
    cases hm with
    | context i f _ h => exact map_modify_eq ht.1 fun c hc => hg (h c hc)
    | cache f _ h => rfl
    | page n j d _ => rfl
    | notice n _ => rfl
    | count f _ _ => rfl
    | channel c f _ _ => rfl

/-! ### The demand sum (R54) -/

theorem sum_put {α : Type} {m : List (Nat × α)} {i : Nat} {a : α} {g : α → Nat} (h : Sparse.get m i = none) :
    ((Sparse.put m i a).map fun p => g p.2).sum = (m.map fun p => g p.2).sum + g a := by
  induction m with
  | nil => simp [Sparse.put]
  | cons q rest ih =>
    obtain ⟨k, b⟩ := q
    simp only [Sparse.get] at h
    split at h
    · cases h
    · rename_i hk
      simp only [Sparse.put]
      split
      · simp; omega
      · split
        · rename_i he; exact absurd he.symm hk
        · simp only [List.map_cons, List.sum_cons, ih h]; omega

theorem sum_erase {α : Type} {m : List (Nat × α)} (hm : Sparse.wf m) {i : Nat} {a : α} {g : α → Nat}
    (h : Sparse.get m i = some a) :
    ((Sparse.erase m i).map fun p => g p.2).sum + g a = (m.map fun p => g p.2).sum := by
  induction m with
  | nil => simp [Sparse.get] at h
  | cons q rest ih =>
    obtain ⟨k, b⟩ := q
    obtain ⟨hk, hrest⟩ := List.pairwise_cons.mp hm
    simp only [Sparse.get] at h
    split at h
    · rename_i hki
      cases h
      have : Sparse.erase ((k, a) :: rest) i = rest := by
        simp only [Sparse.erase, List.filter_cons, hki, bne_self_eq_false, Bool.false_eq_true, if_false]
        exact List.filter_eq_self.mpr fun p hp => by have := hk p hp; simp only at this; simp; omega
      rw [this]; simp; omega
    · rename_i hki
      have : Sparse.erase ((k, b) :: rest) i = (k, b) :: Sparse.erase rest i := by
        simp [Sparse.erase, hki]
      rw [this]
      simp only [List.map_cons, List.sum_cons]
      have := ih hrest h
      omega

theorem demandLaw_of {s t : State} (hs : s.DemandLaw) (hsum : t.cue.demandSum = s.cue.demandSum)
    (hctx : (t.streams.contexts.map fun p => p.2.demand) = s.streams.contexts.map fun p => p.2.demand)
    (hcap : t.capacity = s.capacity) (hp : t.status.phase = .configLoad → s.status.phase = .configLoad) : t.DemandLaw := by
  obtain ⟨h1, h2, h3⟩ := hs
  refine ⟨by rw [hsum, hctx]; exact h1, by rw [hsum, hcap]; exact h2, fun ht => ?_⟩
  have := h3 (hp ht)
  rw [this] at hctx
  exact List.map_eq_nil_iff.mp hctx

theorem Act.demandLaw {S : Special → Prop} {s t : State} (h : Act S s t) (ht : s.TableLaw) (hs : s.DemandLaw) :
    t.DemandLaw := by
  cases h with
  | inner h =>
    obtain ⟨hst, -, -, hcue, -⟩ := h.frame
    exact demandLaw_of hs (by rw [hcue]) (h.map_context (fun hc => hc.demand) ht) (by unfold State.capacity; rw [hst])
      (by rw [hst]; exact id)
  | context i f _ h _ => exact demandLaw_of hs rfl (map_modify_eq ht.1 fun c hc => (h c hc).demand) rfl id
  | cue f _ hd _ _ => exact demandLaw_of hs hd rfl rfl id
  | loadDone x y _ _ => exact demandLaw_of hs rfl rfl rfl (fun h => by cases h)
  | probed =>
    rcases probeFinished_cases s with h | ⟨p, h⟩ <;> rw [h]
    · exact hs
    · refine demandLaw_of hs rfl rfl rfl fun h => ?_
      by_cases hp : s.status.phase = .probe
      · simp [hp] at h
      · simpa [hp] using h
  | image x _ _ h =>
    obtain ⟨h1, h2, h3⟩ := hs
    have hnil := h3 h
    have hzero : s.cue.demandSum = 0 := by rw [h1, hnil]; rfl
    exact ⟨h1, by show s.cue.demandSum ≤ _; omega, fun h => by cases h⟩
  | unconfigured => exact demandLaw_of hs rfl rfl rfl (fun h => by cases h)
  | service => exact demandLaw_of hs rfl rfl rfl (fun h => by cases h)
  | left => exact demandLaw_of hs rfl rfl rfl (fun h => by cases h)
  | clear =>
    rcases clearAll_cases s with ⟨-, h⟩ | ⟨-, h⟩ <;> rw [h]
    · exact hs
    · exact ⟨rfl, Nat.zero_le _, fun _ => rfl⟩
  | admission i c _ _ hfree _ hcap _ _ hp =>
    obtain ⟨h1, h2, h3⟩ := hs
    refine ⟨?_, hcap, fun h => absurd h hp⟩
    show s.cue.demandSum + c.demand = ((Sparse.put s.streams.contexts i c).map fun p => p.2.demand).sum
    rw [sum_put (g := Context.demand) hfree, h1]
  | free i c d _ hc hd _ =>
    obtain ⟨h1, h2, h3⟩ := hs
    have := sum_erase (g := Context.demand) ht.1 hc
    refine ⟨?_, ?_, fun h => ?_⟩
    · show s.cue.demandSum - c.demand = ((Sparse.erase s.streams.contexts i).map fun p => p.2.demand).sum
      omega
    · show s.cue.demandSum - c.demand ≤ s.capacity
      omega
    · show Sparse.erase s.streams.contexts i = []
      rw [h3 h]; rfl
  | _ => exact hs

/-! ### Stream ids (R58) -/

theorem nodup_put {α β : Type} {m : List (Nat × α)} {i : Nat} {a : α} {g : α → β} (hn : (m.map fun p => g p.2).Nodup)
    (ha : ∀ p ∈ m, g p.2 ≠ g a) : ((Sparse.put m i a).map fun p => g p.2).Nodup := by
  induction m with
  | nil => simp [Sparse.put]
  | cons q rest ih =>
    obtain ⟨k, b⟩ := q
    obtain ⟨hb, hrest⟩ := List.nodup_cons.mp hn
    have hnot : g a ∉ (rest.map fun p => g p.2) := by
      intro h
      obtain ⟨p, hp, he⟩ := List.mem_map.mp h
      exact ha p (List.mem_cons_of_mem _ hp) he
    simp only [Sparse.put]
    split
    · exact List.nodup_cons.mpr ⟨fun h => by
        rcases List.mem_cons.mp h with h | h
        · exact ha (k, b) (by simp) h.symm
        · exact hnot h, hn⟩
    · split
      · exact List.nodup_cons.mpr ⟨hnot, hrest⟩
      · refine List.nodup_cons.mpr ⟨fun h => ?_, ih hrest fun p hp => ha p (List.mem_cons_of_mem _ hp)⟩
        obtain ⟨p, hp, he⟩ := List.mem_map.mp h
        rcases Sparse.mem_put hp with rfl | hp
        · exact ha (k, b) (by simp) he.symm
        · exact hb (he ▸ List.mem_map_of_mem hp)

theorem Act.streamIdLaw {S : Special → Prop} (hS : ¬ S .repeated) {s t : State} (h : Act S s t) (ht : s.TableLaw)
    (hs : s.StreamIdLaw) : t.StreamIdLaw := by
  cases h with
  | inner h => unfold State.StreamIdLaw; rw [h.map_context (g := Context.id) (fun hc => hc.id) ht]; exact hs
  | context i f _ h _ =>
    unfold State.StreamIdLaw
    rw [updCtx_streams, map_modify_eq (g := Context.id) ht.1 fun c hc => (h c hc).id]
    exact hs
  | probed => rcases probeFinished_cases s with h | ⟨p, h⟩ <;> rw [h] <;> exact hs
  | clear =>
    rcases clearAll_cases s with ⟨-, h⟩ | ⟨-, h⟩ <;> rw [h]
    · exact hs
    · exact List.nodup_nil
  | admission i c _ _ _ hid _ _ _ _ => exact nodup_put (g := Context.id) hs (hid.resolve_left hS)
  | free i c d _ _ _ _ => exact hs.sublist (List.filter_sublist.map _)
  | _ => exact hs

/-! ### Windows (R37, R74) -/

theorem ContextStep.windowLaw {g : Bool} {c d : Context} (h : ContextStep g c d) (hc : c.WindowLaw) : d.WindowLaw := by
  obtain ⟨hcont, h2, h16, hlen, hrise, hpos⟩ := hc
  rw [Context.WindowLaw, h.depth]
  rcases h.window with ⟨hsub, hgen⟩ | ⟨-, hstate, hroom, e, he, hw, hgen⟩
  · have hle := hsub.length_le
    simp only [List.length_map] at hle
    refine ⟨fun hd => ?_, h2, h16, by omega, hrise.sublist hsub, fun e he => ?_⟩
    · rcases h.state with ⟨hs, -⟩ | ⟨hs, -⟩
      · rw [hcont (hs ▸ hd)] at hle
        exact List.length_eq_zero_iff.mp (by simpa using hle)
      · rw [hs] at hd; cases hd
    · rw [hgen]
      obtain ⟨x, hx, hxe⟩ := List.mem_map.mp (hsub.subset (List.mem_map_of_mem he))
      exact hxe ▸ hpos x hx
  · refine ⟨fun hd => ?_, h2, h16, ?_, ?_, fun x hx => ?_⟩
    · rcases h.state with ⟨hs, -⟩ | ⟨hs, -⟩
      · exact absurd (hs ▸ hd) hstate
      · rw [hs] at hd; cases hd
    · rw [hw, List.length_append, List.length_singleton]
      rcases hroom with hnil | hlt
      · rw [hnil]; simp; omega
      · omega
    · rw [hw, List.map_append, List.pairwise_append]
      refine ⟨hrise, by simp, fun a ha b hb => ?_⟩
      obtain ⟨x, hx, rfl⟩ := List.mem_map.mp ha
      simp only [List.map_cons, List.map_nil, List.mem_singleton] at hb
      rw [hb, he]
      exact hpos x hx
    · rw [hgen]
      rw [hw] at hx
      rcases List.mem_append.mp hx with hx | hx
      · have := hpos x hx; omega
      · rw [List.mem_singleton.mp hx, he]; omega

/-- The window law of the contexts as they are read, whatever the table's form. -/
def State.ReadWindowLaw (s : State) : Prop := ∀ i c, s.ctx? i = some c → c.WindowLaw

theorem readWindowLaw_of_windowLaw {s : State} (h : s.WindowLaw) : s.ReadWindowLaw :=
  fun _ _ hc => h _ (Sparse.mem_of_get hc)

theorem windowLaw_iff_read {s : State} (ht : s.TableLaw) : s.WindowLaw ↔ s.ReadWindowLaw :=
  ⟨readWindowLaw_of_windowLaw, fun h p hp => h p.1 p.2 ((Sparse.get_eq_some_iff ht.1).mpr hp)⟩

theorem updCtx_readWindowLaw {s : State} {i : Nat} {f : Context → Context} (hs : s.ReadWindowLaw)
    (h : ∀ c, s.ctx? i = some c → c.WindowLaw → (f c).WindowLaw) : (s.updCtx i f).ReadWindowLaw := by
  intro j c hc
  rw [ctx?_updCtx] at hc
  split at hc
  · rename_i hij
    subst hij
    obtain ⟨x, hx, rfl⟩ := Option.map_eq_some_iff.mp hc
    exact h x hx (hs i x hx)
  · exact hs j c hc

theorem Moves.readWindowLaw {g : Bool} {s t : State} (h : Moves g s t) (hs : s.ReadWindowLaw) : t.ReadWindowLaw := by
  induction h with
  | refl => exact hs
  | tail _ hm ih =>
    cases hm with
    | context i f _ h => exact updCtx_readWindowLaw ih fun c hc => (h c hc).windowLaw
    | cache f _ h => exact ih
    | page n j d _ => exact ih
    | notice n _ => exact ih
    | count f _ _ => exact ih
    | channel c f _ _ => exact ih

theorem Act.readWindowLaw {S : Special → Prop} {s t : State} (h : Act S s t) (hs : s.ReadWindowLaw) : t.ReadWindowLaw := by
  cases h with
  | inner h => exact h.readWindowLaw hs
  | context i f _ h _ => exact updCtx_readWindowLaw hs fun c hc => (h c hc).window
  | probed => rcases probeFinished_cases s with h | ⟨p, h⟩ <;> rw [h] <;> exact hs
  | clear =>
    rcases clearAll_cases s with ⟨-, h⟩ | ⟨-, h⟩ <;> rw [h]
    · exact hs
    · intro i c hc; cases hc
  | admission i c _ _ _ _ _ hw _ _ =>
    intro j d hd
    have hd : Sparse.get (Sparse.put s.streams.contexts i c) j = some d := hd
    rw [Sparse.get_put] at hd
    split at hd
    · cases hd; exact hw
    · exact hs j d hd
  | free i c d _ _ _ _ =>
    intro j x hx
    have hx : Sparse.get (Sparse.erase s.streams.contexts i) j = some x := hx
    rw [Sparse.get_erase] at hx
    split at hx
    · cases hx
    · exact hs j x hx
  | _ => exact hs

/-! ### The offer queue (R61) -/

theorem offerLaw_iff {s : State} : s.OfferLaw ↔
    s.bus.offers.Nodup ∧ ∀ i ∈ s.bus.offers, ∃ c, s.ctx? i = some c ∧ c.Offered := by
  unfold State.OfferLaw Context.Offered
  refine and_congr_right fun _ => forall₂_congr fun i _ => ?_
  constructor
  · rintro ⟨c, o, h1, h2, h3, h4⟩; exact ⟨c, h1, h2, o, h3, h4⟩
  · rintro ⟨c, h1, h2, o, h3, h4⟩; exact ⟨c, o, h1, h2, h3, h4⟩

theorem offerLaw_of {s t : State} (hs : s.OfferLaw) (ho : t.bus.offers.Sublist s.bus.offers)
    (hc : ∀ i ∈ t.bus.offers, ∀ c, s.ctx? i = some c → c.Offered → ∃ d, t.ctx? i = some d ∧ d.Offered) : t.OfferLaw := by
  obtain ⟨hn, hall⟩ := offerLaw_iff.mp hs
  refine offerLaw_iff.mpr ⟨hn.sublist ho, fun i hi => ?_⟩
  obtain ⟨c, h1, h2⟩ := hall i (ho.subset hi)
  exact hc i hi c h1 h2

/-- A context in CONTENDING, its window empty, stays so in the inner work. -/
theorem ContextStep.offered {g : Bool} {c d : Context} (h : ContextStep g c d) (hw : c.WindowLaw) (hc : c.Offered) :
    d.Offered := by
  obtain ⟨hst, o, ho, hp⟩ := hc
  rcases h.state with ⟨hs, he⟩ | ⟨-, hne⟩
  · exact ⟨hs.trans hst, o, he.trans ho, hp⟩
  · rcases hne with hne | hne
    · exact absurd hst hne
    · exact absurd (hw.1 hst) hne

theorem Moves.offered {g : Bool} {s t : State} (h : Moves g s t) (hs : s.ReadWindowLaw) {i : Nat} {c : Context}
    (hc : s.ctx? i = some c) (ho : c.Offered) : ∃ d, t.ctx? i = some d ∧ d.Offered := by
  induction h with
  | refl => exact ⟨c, hc, ho⟩
  | tail hms hm ih =>
    obtain ⟨d, hd, hdo⟩ := ih
    cases hm with
    | context j f _ h =>
      by_cases hji : j = i
      · subst hji
        exact ⟨f d, by simp [ctx?_updCtx, hd], (h d hd).offered (Moves.readWindowLaw hms hs j d hd) hdo⟩
      · exact ⟨d, by simp [ctx?_updCtx, hji, hd], hdo⟩
    | cache f _ h => exact ⟨d, hd, hdo⟩
    | page n j x _ => exact ⟨d, hd, hdo⟩
    | notice n _ => exact ⟨d, hd, hdo⟩
    | count f _ _ => exact ⟨d, hd, hdo⟩
    | channel c f _ _ => exact ⟨d, hd, hdo⟩

theorem Act.offerLaw {S : Special → Prop} {s t : State} (h : Act S s t) (hw : s.ReadWindowLaw) (hs : s.OfferLaw) :
    t.OfferLaw := by
  cases h with
  | inner h =>
    obtain ⟨-, -, -, -, -, -, -, l, hb⟩ := h.frame
    exact offerLaw_of hs (by rw [hb]) fun i _ c hc ho => h.offered hw hc ho
  | context i f _ _ ho =>
    refine offerLaw_of hs (List.Sublist.refl _) fun j hj c hc hoc => ?_
    rw [ctx?_updCtx]
    split
    · rename_i hij
      subst hij
      exact ⟨f c, by rw [hc]; rfl, ho c hc hj hoc⟩
    · exact ⟨c, hc, hoc⟩
  | bus f _ h => exact offerLaw_of hs h.offers fun i _ c hc ho => ⟨c, hc, ho⟩
  | probed => rcases probeFinished_cases s with h | ⟨p, h⟩ <;> rw [h] <;> exact hs
  | clear =>
    rcases clearAll_cases s with ⟨-, h⟩ | ⟨-, h⟩ <;> rw [h] <;>
      exact ⟨List.nodup_nil, fun i hi => absurd hi List.not_mem_nil⟩
  | admission i c _ _ hfree _ _ _ ho _ =>
    obtain ⟨hn, hall⟩ := offerLaw_iff.mp hs
    have hnot : i ∉ s.bus.offers := fun hi => by
      obtain ⟨d, hd, -⟩ := hall i hi
      rw [hfree] at hd; cases hd
    have hread : ∀ j, (((s.putCtx i c).onCue fun u => { u with demandSum := u.demandSum + c.demand }).onBus fun b =>
        { b with offers := b.offers ++ [i] }).ctx? j = if i = j then some c else s.ctx? j :=
      fun j => Sparse.get_put s.streams.contexts i j c
    refine offerLaw_iff.mpr ⟨?_, fun j hj => ?_⟩
    · exact List.nodup_append.mpr ⟨hn, List.nodup_singleton _, fun a ha b hb => by
        rw [List.mem_singleton.mp hb]; rintro rfl; exact hnot ha⟩
    · rw [hread]
      split
      · exact ⟨c, rfl, ho⟩
      · rename_i hij
        rcases List.mem_append.mp hj with hj | hj
        · exact hall j hj
        · exact absurd (List.mem_singleton.mp hj).symm hij
  | free i c d _ hc _ ho =>
    have hread : ∀ j, (s.freeCtx i c).ctx? j = if i = j then none else s.ctx? j := Sparse.get_erase _ i
    refine offerLaw_of hs (List.Sublist.refl _) fun j hj x hx hxo => ?_
    rw [hread]
    split
    · rename_i hij
      subst hij
      rw [hc] at hx
      cases hx
      rcases ho with ho | ho
      · exact absurd hj ho
      · exact absurd hxo.1 ho
    · exact ⟨x, hx, hxo⟩
  | _ => exact hs

/-! ### The registers (R16, R21, R26, R115) -/

theorem rangeLaw_iff {s : State} : s.RangeLaw ↔
    s.clock.InRange ∧ s.dir.storeQueue.length ≤ Config.storeRoom ∧ ∀ c : ChannelNo, (s.chan c).timeouts ≤ 3 := by
  unfold State.RangeLaw Clock.InRange
  tauto

theorem Moves.timeouts {g : Bool} {s t : State} (h : Moves g s t) (c : ChannelNo) :
    (t.chan c).timeouts = (s.chan c).timeouts := by
  induction h with
  | refl => rfl
  | tail _ hm ih =>
    rw [← ih]
    cases hm with
    | channel d f _ h =>
      rw [chan_updChan]
      split
      · exact (h _).timeouts
      · rfl
    | context i f _ h => rfl
    | cache f _ h => rfl
    | page n j x _ => rfl
    | notice n _ => rfl
    | count f _ _ => rfl

theorem initialInterval_range (code : BitVec 2) :
    Config.minInterval ≤ initialInterval code ∧ initialInterval code ≤ Config.maxInterval := by
  unfold initialInterval Config.minInterval Config.maxInterval
  split <;> omega

theorem clearCounts_storeQueue (p : Phase) (d : Directory) :
    (d.clearCounts p).storeQueue = d.storeQueue ∨ (d.clearCounts p).storeQueue = [] := by
  cases p <;> simp [Directory.clearCounts, Directory.clearInServing, Directory.clearInLoad]

theorem Act.rangeLaw {S : Special → Prop} {s t : State} (h : Act S s t) (hs : s.RangeLaw) : t.RangeLaw := by
  rw [rangeLaw_iff] at hs ⊢
  obtain ⟨hc, hq, ht⟩ := hs
  cases h with
  | inner h =>
    obtain ⟨-, hclock, hdir, -⟩ := h.frame
    exact ⟨hclock ▸ hc, hdir ▸ hq, fun c => (h.timeouts c).trans_le (ht c)⟩
  | fetch f _ h => exact ⟨hc, hq, fun c => (h c).timeouts (ht c)⟩
  | clock f _ h _ _ _ _ => exact ⟨h hc, hq, ht⟩
  | mark f _ _ h _ _ => exact ⟨h hc, hq, ht⟩
  | dir f _ _ h _ => exact ⟨hc, h hq, ht⟩
  | probed => rcases probeFinished_cases s with h | ⟨p, h⟩ <;> rw [h] <;> exact ⟨hc, hq, ht⟩
  | image x _ _ _ =>
    obtain ⟨h1, h2, h3⟩ := hc
    exact ⟨⟨h1, h2, fun i hi => by cases hi; exact initialInterval_range _⟩, hq, ht⟩
  | service src _ _ _ =>
    refine ⟨hc, hq, fun c => ?_⟩
    have : (s.enterService src).chan c = (s.chan c).dropFetches := chan_mapChannels s _ c
    rw [this]
    exact ht c
  | clear =>
    rcases clearAll_cases s with ⟨-, h⟩ | ⟨-, h⟩ <;> rw [h]
    · exact ⟨hc, hq, ht⟩
    · refine ⟨⟨Nat.zero_le _, fun _ => rfl, hc.2.2⟩, ?_, fun c => ?_⟩
      · show (Directory.clearCounts s.status.phase s.dir).storeQueue.length ≤ _
        rcases clearCounts_storeQueue s.status.phase s.dir with h | h <;> rw [h]
        · exact hq
        · exact Nat.zero_le _
      · have : (s.fetch.channels.map Channel.clearCounts)[c] = (s.chan c).clearCounts := chan_mapChannels s _ c
        show ((s.fetch.channels.map Channel.clearCounts)[c]).timeouts ≤ 3
        rw [this]
        exact ht c
  | _ => exact ⟨hc, hq, ht⟩

/-! ### The laws kept by a chain of acts -/

section
variable {S : Special → Prop} {s t : State}

theorem Acts.memoryLaw (h : Acts S s t) : s.MemoryLaw → t.MemoryLaw :=
  h.lift (P := fun s t => s.MemoryLaw → t.MemoryLaw) (fun _ => id) (fun h h' => h' ∘ h) Act.memoryLaw

theorem Acts.tableLaw (h : Acts S s t) : s.TableLaw → t.TableLaw :=
  h.lift (P := fun s t => s.TableLaw → t.TableLaw) (fun _ => id) (fun h h' => h' ∘ h) Act.tableLaw

theorem Acts.rangeLaw (h : Acts S s t) : s.RangeLaw → t.RangeLaw :=
  h.lift (P := fun s t => s.RangeLaw → t.RangeLaw) (fun _ => id) (fun h h' => h' ∘ h) Act.rangeLaw

/-- A law that acts keep beside another is kept beside it by a chain. -/
theorem Acts.keeps_beside {P Q : State → Prop} (hP : ∀ {s t}, Act S s t → P s → P t)
    (hQ : ∀ {s t}, Act S s t → P s → Q s → Q t) (h : Acts S s t) (hp : P s) (hq : Q s) : Q t :=
  (h.lift (P := fun s t => P s ∧ Q s → P t ∧ Q t) (fun _ => id) (fun h h' => h' ∘ h)
    (fun ha ⟨hp, hq⟩ => ⟨hP ha hp, hQ ha hp hq⟩) ⟨hp, hq⟩).2

theorem Acts.demandLaw (h : Acts S s t) (ht : s.TableLaw) (hs : s.DemandLaw) : t.DemandLaw :=
  h.keeps_beside Act.tableLaw Act.demandLaw ht hs

theorem Acts.streamIdLaw (hS : ¬ S .repeated) (h : Acts S s t) (ht : s.TableLaw) (hs : s.StreamIdLaw) : t.StreamIdLaw :=
  h.keeps_beside Act.tableLaw (Act.streamIdLaw hS) ht hs

theorem Acts.readWindowLaw (h : Acts S s t) : s.ReadWindowLaw → t.ReadWindowLaw :=
  h.lift (P := fun s t => s.ReadWindowLaw → t.ReadWindowLaw) (fun _ => id) (fun h h' => h' ∘ h) Act.readWindowLaw

theorem Acts.windowLaw (h : Acts S s t) (ht : s.TableLaw) (hs : s.WindowLaw) : t.WindowLaw :=
  (windowLaw_iff_read (h.tableLaw ht)).mpr (h.readWindowLaw (readWindowLaw_of_windowLaw hs))

theorem Acts.offerLaw (h : Acts S s t) (hw : s.ReadWindowLaw) (hs : s.OfferLaw) : t.OfferLaw :=
  h.keeps_beside Act.readWindowLaw Act.offerLaw hw hs

end

end Sys2Proof.Machine


/-! SUPPORT. The operations of the commands as chains of acts. -/

namespace Sys2Proof.Machine

section
variable {S : Special → Prop} {s t u : State}

/-! ### The block updates as acts -/

theorem Acts.moves (h : Moves true t u) (ht : Acts S s t) : Acts S s u := ht.tail (.inner h)

theorem Acts.bus {f : BusPort → BusPort} (h : BusAct t.bus (f t.bus)) (ht : Acts S s t) : Acts S s (t.onBus f) :=
  ht.tail (.bus f t h)

theorem busAct_quiet {b d : BusPort} (ho : d.offers = b.offers) (hc : d.counts = b.counts)
    (h1 : d.state = b.state) (h2 : d.startBit = b.startBit) (h3 : d.watch = b.watch) :
    BusAct b d := ⟨ho ▸ List.Sublist.refl _, hc ▸ countsRise_refl _, h1, h2, h3⟩

theorem Acts.countBus {f : BusCounts → BusCounts} (h : ∀ k, CountsRise k.list (f k).list) (ht : Acts S s t) :
    Acts S s (t.countBus f) := ht.bus ⟨List.Sublist.refl _, h _, rfl, rfl, rfl⟩

theorem Acts.dir {f : Directory → Directory} (ht : Acts S s t) (hl : (f t.dir).load = t.dir.load)
    (hq : t.dir.storeQueue.length ≤ Config.storeRoom → (f t.dir).storeQueue.length ≤ Config.storeRoom)
    (hc : CountsRise t.dir.counts.list (f t.dir).counts.list) :
    Acts S s (t.onDir f) := ht.tail (.dir f t hl hq hc)

theorem Acts.countDir {f : DirectoryCounts → DirectoryCounts} (h : ∀ k, CountsRise k.list (f k).list)
    (ht : Acts S s t) : Acts S s (t.countDir f) := ht.dir rfl id (h _)

theorem Acts.countCue {f : CueCounts → CueCounts} (h : ∀ k, CountsRise k.list (f k).list) (ht : Acts S s t) :
    Acts S s (t.countCue f) := ht.tail (.cue _ t rfl (h _) (countsRise_refl _))

theorem Acts.countClamp {f : ClampCounts → ClampCounts} (h : ∀ k, CountsRise k.list (f k).list) (ht : Acts S s t) :
    Acts S s (t.countClamp f) := ht.tail (.cue _ t rfl (countsRise_refl _) (h _))

theorem Acts.countStreams {f : StreamCounts → StreamCounts} (h : ∀ k, CountsRise k.list (f k).list) (ht : Acts S s t) :
    Acts S s (t.countStreams f) := ht.moves (Moves.countStreams h .refl)

theorem Acts.countClock {f : ClockCounts → ClockCounts} (h : ∀ k, CountsRise k.list (f k).list) (ht : Acts S s t) :
    Acts S s (t.countClock f) := ht.tail (.clock _ t id (h _) rfl rfl id)

theorem Acts.countDelivery {f : DeliveryCounts → DeliveryCounts} (h : ∀ k, CountsRise k.list (f k).list)
    (ht : Acts S s t) : Acts S s (t.countDelivery f) := ht.tail (.delivery _ t (h _))

theorem Acts.views {f : Delivery → Delivery} (h : (f t.delivery).counts = t.delivery.counts)
    (ht : Acts S s t) : Acts S s (t.onDelivery f) := ht.tail (.delivery f t (h ▸ countsRise_refl _))

theorem Acts.updChan {c : ChannelNo} {f : Channel → Channel} (h : ∀ ch, ChannelAct ch (f ch)) (ht : Acts S s t) :
    Acts S s (t.updChan c f) := by
  refine ht.tail (.fetch _ t fun d => ?_)
  show ChannelAct (t.chan d) ((t.updChan c f).chan d)
  rw [chan_updChan]
  split
  · exact h _
  · exact ⟨id, countsRise_refl _⟩

theorem channelAct_quiet {c d : Channel} (h1 : d.timeouts = c.timeouts) (h2 : d.counts = c.counts) :
    ChannelAct c d := ⟨fun h => h1 ▸ h, h2 ▸ countsRise_refl _⟩

theorem Acts.countChan {c : ChannelNo} {f : ChannelCounts → ChannelCounts} (h : ∀ k, CountsRise k.list (f k).list)
    (ht : Acts S s t) : Acts S s (t.countChan c f) := ht.updChan fun _ => ⟨id, h _⟩

theorem Acts.issue {c : ChannelNo} {k : OperationKind} (ht : Acts S s t) : Acts S s (t.issue c k) :=
  ht.updChan fun _ => channelAct_quiet rfl rfl

theorem Acts.endOp {c : ChannelNo} (ht : Acts S s t) : Acts S s (t.endOp c) := ht.updChan fun _ => channelAct_quiet rfl rfl

theorem Acts.line {state : BusState} (hS : S .line) (ht : Acts S s t) : Acts S s (t.enterBus state) :=
  ht.tail (.line state t hS)

theorem Acts.boundary (hS : S .watch) (ht : Acts S s t) : Acts S s t.boundary :=
  ht.tail (.watch (fun w => match w with | .idle => .idle | _ => .running t.now) t hS fun h => by rw [h])

theorem Acts.received {frame : List Byte} (ht : Acts S s t) : Acts S s (t.received frame) := ht.bus (busAct_quiet rfl rfl rfl rfl rfl)

theorem Acts.discardFrame (ht : Acts S s t) : Acts S s t.discardFrame := ht.bus (busAct_quiet rfl rfl rfl rfl rfl)

/-! ### The directory load -/

theorem Acts.nextRecordPage {header : DirectoryHeader} {page : Nat} {accepted : List ZoneRecord}
    (h : t.dir.load ≠ none) (ht : Acts S s t) : Acts S s (t.nextRecordPage header page accepted) := by
  unfold State.nextRecordPage
  split
  · exact ht.tail (.loadNext _ t h)
  · exact ht.tail (.loadDone _ _ t h)

theorem countRecord_rises (v : RecordVerdict) (k : DirectoryCounts) : CountsRise k.list (k.countRecord v).list := by
  cases v with
  | accepted r dropped => by_cases h : r.short <;> cases dropped <;>
      simp [DirectoryCounts.countRecord, DirectoryCounts.list, le_inc, h]
  | badLength => simp [DirectoryCounts.countRecord, DirectoryCounts.list, le_inc]
  | badFormat => simp [DirectoryCounts.countRecord, DirectoryCounts.list, le_inc]
  | outOfOrder => simp [DirectoryCounts.countRecord, DirectoryCounts.list, le_inc]
  | noMatch => simp [DirectoryCounts.countRecord, DirectoryCounts.list, le_inc]

theorem checkRecords_rise {config : ConfigImage} {extent blocks : Nat} (rs : List RawRecord)
    (acc : List ZoneRecord × DirectoryCounts) :
    CountsRise acc.2.list (rs.foldl (checkRecord config extent blocks) acc).2.list := by
  induction rs generalizing acc with
  | nil => exact countsRise_refl _
  | cons r rest ih =>
    refine countsRise_trans ?_ (ih _)
    have : (checkRecord config extent blocks acc r).2 =
        acc.2.countRecord (judgeRecord config extent blocks acc.1.getLast? r) := by
      unfold checkRecord
      dsimp only
      split <;> rfl
    rw [this]
    exact countRecord_rises _ _

theorem Acts.directoryPageDone {data : Option (List Byte)} (ht : Acts S s t) : Acts S s (t.directoryPageDone data) := by
  unfold State.directoryPageDone
  split
  · exact ht
  · rename_i hl
    split
    · exact ht.tail (.loadDone _ _ t (by simp [hl]))
    · exact ht.nextRecordPage (by simp [hl])
  · rename_i header page accepted hl
    dsimp only
    split
    · refine Acts.nextRecordPage (t := t.onDir _) (by simp [hl]) (ht.dir rfl id ?_)
      exact checkRecords_rise _ (accepted, t.dir.counts)
    · exact Acts.nextRecordPage (t := t.countDir _) (by simp [hl])
        (ht.countDir fun k => by simp [DirectoryCounts.list, le_addCount])

theorem Acts.issueDirectory {fuel : Nat} (ht : Acts S s t) : Acts S s (t.issueDirectory fuel) := by
  induction fuel generalizing t with
  | zero => exact ht
  | succ fuel ih =>
    simp only [State.issueDirectory]
    split
    · exact ht
    · split
      · exact ih ht.directoryPageDone
      · split
        · split
          · exact ht.issue
          · exact ih (Acts.directoryPageDone (ht.countChan fun k => by simp [ChannelCounts.list, le_inc]))
        · exact ht

theorem Acts.takeWaitingPage {c : ChannelNo} (ht : Acts S s t) : Acts S s (t.takeWaitingPage c) := by
  unfold State.takeWaitingPage
  split
  · exact ht.issueDirectory
  · exact ht

/-! ### The channels -/

theorem Acts.runProgram {p : Program} {stage : ProgramStage} (ht : Acts S s t) : Acts S s (t.runProgram p stage) :=
  Acts.issue (ht.dir rfl id same)

theorem Acts.chooseFetches {c : ChannelNo} (ht : Acts S s t) : Acts S s (t.chooseFetches c) :=
  ht.moves (Moves.chooseFetch .refl)

theorem Acts.choose {c : ChannelNo} (ht : Acts S s t) : Acts S s (t.choose c) := by
  unfold State.choose
  split
  · exact ht.runProgram
  · dsimp only
    split
    · exact ht.takeWaitingPage
    · exact ht.takeWaitingPage.chooseFetches

theorem Acts.beginProbe {c : ChannelNo} (ht : Acts S s t) : Acts S s (t.beginProbe c) :=
  Acts.issue (ht.updChan fun _ => ⟨fun _ => Nat.zero_le _, countsRise_refl _⟩)

theorem Acts.afterOperation {c : ChannelNo} (ht : Acts S s t) : Acts S s (t.afterOperation c) := by
  unfold State.afterOperation
  split
  · exact ht
  · split
    · exact ht.beginProbe
    · split
      · exact ht.takeWaitingPage
      · exact ht.choose

theorem Acts.fold {α : Type} {f : State → α → State} {l : List α}
    (h : ∀ {v : State} (a : α), Acts S s v → Acts S s (f v a)) (ht : Acts S s t) : Acts S s (l.foldl f t) := by
  induction l generalizing t with
  | nil => exact ht
  | cons a rest ih => exact ih (h a ht)

theorem Acts.probeAll (ht : Acts S s t) : Acts S s t.probeAll := by
  refine Acts.fold (fun c hv => ?_) ht
  have hu := hv.updChan (c := c) (f := fun ch => { ch with probePending := true }) fun _ => channelAct_quiet rfl rfl
  dsimp only
  split
  · exact hu.beginProbe
  · exact hu

theorem Acts.goOffline {c : ChannelNo} (ht : Acts S s t) : Acts S s (t.goOffline c) := ht.moves (Moves.goOffline .refl)

theorem Acts.fetchPageDone {c : ChannelNo} {n : SlotNo} {data : Option (List Byte)} (ht : Acts S s t) :
    Acts S s (t.fetchPageDone c n data) := by
  unfold State.fetchPageDone
  split
  · split
    · exact ht.moves (Moves.removeFetch .refl)
    · exact ht.moves (Moves.completePage .refl)
  · exact ht

theorem countAnswer_act (out : PageOutcome) (ch : Channel) : ChannelAct ch (ch.countAnswer out) := by
  cases out with
  | good _ => exact ⟨fun _ => Nat.zero_le _, by simp [Channel.countAnswer, ChannelCounts.list, le_inc]⟩
  | corrected _ => exact ⟨fun _ => Nat.zero_le _, by simp [Channel.countAnswer, ChannelCounts.list, le_inc]⟩
  | uncorrectable => exact ⟨id, by simp [Channel.countAnswer, ChannelCounts.list, le_inc]⟩

theorem countTimeout_act (ch : Channel) : ChannelAct ch ch.countTimeout :=
  ⟨fun _ => Nat.min_le_left _ _, by simp [Channel.countTimeout, ChannelCounts.list, le_inc]⟩

/-- A read completed in time brings no FAULT up to date within the command. -/
theorem Acts.answered {c : ChannelNo} {kind : OperationKind} {out : PageOutcome} (ht : Acts S s t) :
    Acts S s (t.answered c kind out) := by
  have hu : Acts S s ((t.updChan c (Channel.countAnswer out)).endOp c) := (ht.updChan (countAnswer_act out)).endOp
  cases kind with
  | fetchPage n => exact hu.fetchPageDone.afterOperation
  | directoryPage => exact hu.directoryPageDone.afterOperation.issueDirectory
  | discardedFetchPage => exact hu.afterOperation
  | discardedDirectoryPage => exact hu.afterOperation
  | program w => exact ht
  | probe n => exact ht
  | discardedProbe => exact ht

end

end Sys2Proof.Machine


/-! SUPPORT. The operations on contexts and on the bus as chains of acts. -/

namespace Sys2Proof.Machine

section
variable {S : Special → Prop} {s t u : State}

/-! ### Contexts -/

/-- A change of context i that keeps its figures, its window law and its standing in the offer queue. -/
theorem Acts.updCtx {i : Nat} {f : Context → Context} (h : ∀ c, t.ctx? i = some c → ContextAct c (f c))
    (ho : ∀ c, t.ctx? i = some c → i ∈ t.bus.offers → c.Offered → (f c).Offered) (ht : Acts S s t) :
    Acts S s (t.updCtx i f) := ht.tail (.context i f t h ho)

/-- A silent free up to the removal itself: the entries withdrawn. -/
theorem silentFree_moves (t : State) (i : Nat) (c : Context) :
    Moves false t ((t.updCtx i fun x => { x with window := [] }).withdraw c.window) :=
  Moves.withdraw (Moves.updCtx (fun _ _ => ⟨rfl, rfl, rfl, rfl, rfl, .inl ⟨rfl, rfl⟩, .inl ⟨by simp, rfl⟩⟩) .refl)

theorem Acts.silentFree {i : Nat} (ht : Acts S s t) : Acts S s (t.silentFree i) := by
  unfold State.silentFree
  split
  · exact ht
  · rename_i c hc
    have hm := silentFree_moves t i c
    obtain ⟨d, hd, hstep⟩ := quiet_context hm hc
    dsimp only
    refine ((ht.moves (hm.grows true)).bus (f := fun b =>
      { b with offers := b.offers.filter (· != i), notices := dropEnd i b.notices })
      ⟨List.filter_sublist, countsRise_refl _, rfl, rfl, rfl⟩).tail (.free i c d _ hd hstep.demand.symm.symm (.inl ?_))
    simp

/-- A silent free leaves the status unit, the clock, the directory, the lane views and the waiting commands alone. -/
theorem silentFree_frame (t : State) (i : Nat) : (t.silentFree i).status = t.status ∧ (t.silentFree i).clock = t.clock
    ∧ (t.silentFree i).dir = t.dir ∧ (t.silentFree i).delivery = t.delivery ∧ (t.silentFree i).pending = t.pending
    ∧ (t.silentFree i).bus.clear = t.bus.clear := by
  unfold State.silentFree
  split
  · exact ⟨rfl, rfl, rfl, rfl, rfl, rfl⟩
  · rename_i c _
    obtain ⟨h1, h2, h3, -, h5, h6, -, l, h8⟩ := (silentFree_moves t i c).frame
    exact ⟨h1, h2, h3, h5, h6, by simp [State.freeCtx, h8]⟩

/-- Entry to SPENT, also from a CONTENDING context whose offer the queue no longer holds. -/
theorem Acts.enterSpent {i : Nat} {reason : EndReason}
    (h : ∀ c, t.ctx? i = some c → i ∈ t.bus.offers → ¬ c.Offered) (ht : Acts S s t) :
    Acts S s (t.enterSpent i reason) := by
  unfold State.enterSpent
  split
  · exact ht
  · refine Acts.moves (Moves.notice (Moves.countStreams (countEnd_rises reason) (Moves.withdraw .refl)))
      (ht.updCtx (fun c _ => ⟨rfl, rfl, fun ⟨_, h2, h16, _, _, _⟩ => ?_⟩) fun c hc hi ho => absurd ho (h c hc hi))
    exact ⟨fun _ => rfl, h2, h16, Nat.zero_le _, List.Pairwise.nil, fun _ h => absurd h List.not_mem_nil⟩

theorem Acts.serveNow {i : Nat} {fresh : Bool} (ht : Acts S s t) : Acts S s (t.serveNow i fresh) :=
  ht.moves (Moves.serve .refl)

theorem Acts.staleTest {i : Nat} (ht : Acts S s t) : Acts S s (t.staleTest i) := ht.moves (Moves.staleTest .refl)

theorem Acts.staleTestAll (ht : Acts S s t) : Acts S s t.staleTestAll := ht.moves (Moves.staleTestAll .refl)

theorem Acts.withdraw {entries : List Entry} (ht : Acts S s t) : Acts S s (t.withdraw entries) :=
  ht.moves (Moves.withdraw .refl)

theorem Acts.releaseEntry {e : Entry} (ht : Acts S s t) : Acts S s (t.releaseEntry e) :=
  ht.moves (Moves.releaseEntry .refl)

/-- A context whose window loses entries keeps the window law. -/
theorem Context.WindowLaw.sublist {c d : Context} (h : c.WindowLaw) (hst : d.state = .contending → c.state = .contending)
    (hd : d.depth = c.depth) (hg : d.gen.pos = c.gen.pos) (hw : (d.window.map Entry.pos).Sublist (c.window.map Entry.pos)) :
    d.WindowLaw := by
  obtain ⟨hcont, h2, h16, hlen, hrise, hpos⟩ := h
  have hle := hw.length_le
  simp only [List.length_map] at hle
  refine ⟨fun hs => ?_, hd ▸ h2, hd ▸ h16, by omega, hrise.sublist hw, fun e he => ?_⟩
  · rw [hcont (hst hs)] at hle
    exact List.length_eq_zero_iff.mp (by simpa using hle)
  · rw [hg]
    obtain ⟨x, hx, hxe⟩ := List.mem_map.mp (hw.subset (List.mem_map_of_mem he))
    exact hxe ▸ hpos x hx

/-- A context changed in neither its figures, its state, its generator's position nor its entries' positions. -/
theorem contextAct_quiet {c d : Context} (hid : d.id = c.id) (hdm : d.demand = c.demand)
    (hst : d.state = c.state) (hd : d.depth = c.depth) (hg : d.gen.pos = c.gen.pos)
    (hw : (d.window.map Entry.pos).Sublist (c.window.map Entry.pos)) : ContextAct c d :=
  ⟨hid, hdm, fun h => h.sublist (fun hs => hst ▸ hs) hd hg hw⟩

theorem setHeadPhase_pos (p : BusPhase) (c : Context) : ((c.setHeadPhase p).window.map Entry.pos) = c.window.map Entry.pos := by
  unfold Context.setHeadPhase
  cases c.window <;> rfl

theorem Acts.setHeadPhase {i : Nat} {p : BusPhase} (ht : Acts S s t) : Acts S s (t.updCtx i (Context.setHeadPhase p)) :=
  ht.updCtx (fun c _ => contextAct_quiet rfl rfl rfl rfl rfl (by rw [setHeadPhase_pos])) fun _ _ _ h => h

theorem Acts.setOfferPhase {i : Nat} {p : OfferPhase} (hp : p = .sent → i ∉ t.bus.offers) (ht : Acts S s t) :
    Acts S s (t.setOfferPhase i p) := by
  refine ht.updCtx (fun c _ => contextAct_quiet rfl rfl rfl rfl rfl (.refl _)) fun c _ hi ⟨hst, o, ho, _⟩ => ?_
  refine ⟨hst, _, by rw [ho]; rfl, ?_⟩
  rintro rfl
  exact hp rfl hi

theorem toCoda_pos (c : Context) (l : Loop) (g : Generator) : (c.toCoda l g).pos = g.pos := by
  unfold Context.toCoda; split <;> rfl

theorem exitGenerator_pos (c : Context) (l : Loop) (m : Nat) : (c.exitGenerator l m).pos = c.gen.pos := by
  unfold Context.exitGenerator
  dsimp only
  split
  · rfl
  · rw [toCoda_pos]

theorem filter_pos_sublist (w : List Entry) (p : Entry → Bool) : ((w.filter p).map Entry.pos).Sublist (w.map Entry.pos) :=
  List.filter_sublist.map _

theorem Acts.playoutLooping {i : Nat} {c : Context} {l : Loop} {dr : Distance} (hc : t.ctx? i = some c)
    (hst : c.state = .looping) (ht : Acts S s t) : Acts S s (t.playoutLooping i c l dr) := by
  unfold State.playoutLooping
  refine Acts.serveNow (Acts.withdraw (ht.updCtx (fun d hd => ?_) fun d hd _ ho => ?_))
  · rw [hc] at hd; cases hd
    exact ⟨rfl, rfl, fun h => h.sublist (fun h => by cases h) rfl (exitGenerator_pos _ _ _) (filter_pos_sublist _ _)⟩
  · rw [hc] at hd; cases hd
    exact absurd ho.1 (by rw [hst]; decide)

theorem Acts.cutStream {i : Nat} {c : Context} {dr : Distance} (hc : t.ctx? i = some c) (hst : c.state ≠ .contending)
    (ht : Acts S s t) : Acts S s (t.cutStream i c dr) := by
  unfold State.cutStream
  refine Acts.serveNow (Acts.withdraw (ht.updCtx (fun d hd => ?_) fun d hd _ ho => ?_))
  · rw [hc] at hd; cases hd
    refine ⟨rfl, rfl, fun h => h.sublist (fun h => by cases h) rfl ?_ (filter_pos_sublist _ _)⟩
    dsimp only
    split <;> rfl
  · rw [hc] at hd; cases hd
    exact absurd ho.1 hst

theorem Acts.takeStream {i : Nat} {c : Context} (hc : t.ctx? i = some c) (hs : c.offerSent = true) (ht : Acts S s t) :
    Acts S s (t.takeStream i c) := by
  have hnot : ∀ d, t.ctx? i = some d → ¬ d.Offered := fun d hd ⟨_, o, ho, hp⟩ => by
    rw [hc] at hd; cases hd
    simp [Context.offerSent, ho, hp] at hs
  unfold State.takeStream
  split
  · exact ht.enterSpent fun d hd _ => hnot d hd
  · refine Acts.serveNow (ht.updCtx (fun d hd => ⟨rfl, rfl, fun ⟨hw, h2, h16, _, _, _⟩ => ?_⟩)
      fun d hd _ ho => absurd ho (hnot d hd))
    rw [hc] at hd; cases hd
    have hst : c.state = .contending := by
      unfold Context.offerSent at hs
      split at hs
      · simp only [Bool.and_eq_true, beq_iff_eq] at hs
        exact hs.1
      · cases hs
    have hnil := hw hst
    refine ⟨fun h => ?_, h2, h16, by rw [hnil]; exact Nat.zero_le _, by rw [hnil]; exact List.Pairwise.nil, fun e he => ?_⟩
    · exact hnil
    · dsimp only at he; rw [hnil] at he; cases he

/-! ### CUE, RELEASE, STOP-ALL and offers -/

theorem findStream_none {id : StreamId} (h : t.findStream id = none) : ∀ p ∈ t.streams.contexts, p.2.id ≠ id := by
  simpa [State.findStream] using h

theorem findStream_some {id : StreamId} {i : Nat} (h : t.findStream id = some i) :
    ∃ c, (i, c) ∈ t.streams.contexts ∧ c.id = id := by
  obtain ⟨p, hp, rfl⟩ := Option.map_eq_some_iff.mp h
  exact ⟨p.2, List.mem_of_find?_eq_some hp, by simpa using List.find?_some hp⟩

theorem silentFree_contexts {i : Nat} {c : Context} (hc : t.ctx? i = some c) (ht : t.TableLaw) :
    ((t.silentFree i).streams.contexts.map fun p => p.2.id) = ((Sparse.erase t.streams.contexts i).map fun p => p.2.id) := by
  have hm := silentFree_moves t i c
  have keys : ∀ {b : Bool} {u v : State}, Moves b u v →
      v.streams.contexts.map Prod.fst = u.streams.contexts.map Prod.fst := fun h => by
    induction h with
    | refl => rfl
    | tail _ hm ih =>
      rw [← ih]
      cases hm with
      | context i f _ _ => exact Sparse.modify_keys _ _ _
      | count f _ _ => rfl
      | cache f _ _ => rfl
      | page n j d _ => rfl
      | channel c f _ _ => rfl
      | notice n _ => rfl
  have hids := hm.map_context (g := Context.id) (fun h => h.id) ht
  have hkeys := keys hm
  have herase : ∀ {a b : List (Nat × Context)}, a.map Prod.fst = b.map Prod.fst →
      (a.map fun p => p.2.id) = (b.map fun p => p.2.id) →
      ((Sparse.erase a i).map fun p => p.2.id) = ((Sparse.erase b i).map fun p => p.2.id) := by
    intro a
    induction a with
    | nil => intro b hk _; cases b with
      | nil => rfl
      | cons _ _ => cases hk
    | cons p rest ih =>
      intro b hk hi
      cases b with
      | nil => cases hk
      | cons q more =>
        simp only [List.map_cons, List.cons.injEq] at hk hi
        have := ih hk.2 hi.2
        simp only [Sparse.erase] at this
        by_cases hp : q.1 = i <;> simp [Sparse.erase, hk.1, hp, this, hi.1]
  unfold State.silentFree
  rw [hc]
  exact herase hkeys hids

/-- In a state that keeps the laws no context holds the id once the one that held it has been superseded. -/
theorem supersede_fresh {id : StreamId} (ht : t.TableLaw) (hs : t.StreamIdLaw) :
    ∀ p ∈ (t.supersede id).streams.contexts, p.2.id ≠ id := by
  unfold State.supersede
  split
  · rename_i i hi
    obtain ⟨c, hmem, hid⟩ := findStream_some hi
    have hc : t.ctx? i = some c := (Sparse.get_eq_some_iff ht.1).mpr hmem
    intro p hp he
    have hp' : p.2.id ∈ (Sparse.erase t.streams.contexts i).map fun p => p.2.id := by
      rw [← silentFree_contexts hc ht]; exact List.mem_map_of_mem (f := fun p : Nat × Context => p.2.id) hp
    obtain ⟨q, hq, hqe⟩ := List.mem_map.mp hp'
    obtain ⟨hqm, hqi⟩ := List.mem_filter.mp hq
    have : q = (i, c) := List.inj_on_of_nodup_map hs hqm hmem (by rw [hqe, he, hid])
    rw [this] at hqi
    simp at hqi
  · rename_i h
    exact findStream_none h

theorem Acts.supersede {id : StreamId} (ht : Acts S s t) : Acts S s (t.supersede id) := by
  unfold State.supersede
  split
  · exact ht.silentFree.countCue fun k => by simp [CueCounts.list, le_inc]
  · exact ht

theorem supersede_status (id : StreamId) : (t.supersede id).status = t.status := by
  unfold State.supersede
  split
  · exact (silentFree_frame t _).1
  · rfl

theorem admittedContext_law (f : CueFields) (record : ZoneRecord) (origin expiry : Time) :
    (admittedContext f record origin expiry).WindowLaw := by
  refine ⟨fun _ => rfl, ?_, ?_, Nat.zero_le _, List.Pairwise.nil, fun _ h => absurd h List.not_mem_nil⟩
  · show 2 ≤ clampDepth f.depth; unfold clampDepth; omega
  · show clampDepth f.depth ≤ 16; unfold clampDepth; omega

theorem Acts.weighCue {f : CueFields} {record : ZoneRecord}
    (hid : S .repeated ∨ ∀ p ∈ t.streams.contexts, p.2.id ≠ f.id) (hp : t.status.phase ≠ .configLoad)
    (ht : Acts S s t) : Acts S s (t.weighCue f record) := by
  unfold State.weighCue
  dsimp only
  split
  · exact ht.countCue fun k => by simp [CueCounts.list, le_inc]
  · rename_i i hi
    obtain ⟨hlt, hfree, -⟩ := Sparse.lowestFree_spec hi
    split
    · exact ht.countCue fun k => by simp [CueCounts.list, le_inc]
    · rename_i hcap
      have hcount := ht.countCue (f := fun k => { k with taken := inc k.taken }) fun k => by simp [CueCounts.list, le_inc]
      exact hcount.tail (.admission i _ _ hlt hfree hid (Nat.le_of_not_lt hcap) (admittedContext_law _ _ _ _)
        ⟨rfl, _, rfl, fun h => by cases h⟩ hp)

theorem Acts.countClamps {f : CueFields} (ht : Acts S s t) : Acts S s (t.countClamps f) := by
  refine ht.countClamp fun k => .cons ?_ (.cons ?_ (.cons ?_ .nil))
  · dsimp only; split <;> simp [le_inc]
  · dsimp only; split <;> simp [le_inc]
  · dsimp only; split <;> simp [le_inc]

theorem Acts.takeCue {src : Station} {f : CueFields} (hS : S .repeated ∨ (t.TableLaw ∧ t.StreamIdLaw))
    (ht : Acts S s t) : Acts S s (t.takeCue src f) := by
  unfold State.takeCue
  split
  · exact ht.countCue fun k => by simp [CueCounts.list, le_inc]
  · rename_i hphase
    split
    · exact ht.countCue fun k => by simp [CueCounts.list, le_inc]
    · have hp : (t.supersede f.id).status.phase ≠ .configLoad := by
        rw [supersede_status]
        intro h
        exact hphase (.inl (by rw [h]; decide))
      have hid : S .repeated ∨ ∀ p ∈ (t.supersede f.id).streams.contexts, p.2.id ≠ f.id :=
        hS.imp_right fun h => supersede_fresh h.1 h.2
      unfold State.cueStages
      split
      · split
        · exact Acts.weighCue hid hp ht.supersede.countClamps
        · exact ht.supersede.countCue fun k => by simp [CueCounts.list, le_inc]
      · exact ht.supersede.countCue fun k => by simp [CueCounts.list, le_inc]

theorem Acts.ignoreRelease (ht : Acts S s t) : Acts S s t.ignoreRelease :=
  ht.countStreams fun k => by simp [StreamCounts.list, le_inc]

theorem Acts.actCut {i : Nat} {c : Context} {time : Time} (hc : t.ctx? i = some c) (hst : c.state ≠ .contending)
    (ht : Acts S s t) : Acts S s (t.actCut i c time) :=
  Acts.cutStream (t := t.countStreams _) hc hst (ht.countStreams fun k => by simp [StreamCounts.list, le_inc])

theorem Acts.actPlayout {i : Nat} {c : Context} {time : Time} (hc : t.ctx? i = some c) (hst : c.state = .looping)
    (ht : Acts S s t) : Acts S s (t.actPlayout i c time) := by
  have hcount : Acts S s (t.countStreams fun k => { k with playout := inc k.playout }) :=
    ht.countStreams fun k => by simp [StreamCounts.list, le_inc]
  unfold State.actPlayout
  dsimp only
  split
  · exact Acts.playoutLooping (t := t.countStreams _) hc hst hcount
  · exact hcount

theorem Acts.notePlayout {i : Nat} (ht : Acts S s t) : Acts S s (t.notePlayout i) :=
  (ht.countStreams fun k => by simp [StreamCounts.list, le_inc]).updCtx (fun _ _ => contextAct_quiet rfl rfl rfl rfl rfl (.refl _)) fun _ _ _ h => h

theorem Acts.releaseContext {i : Nat} {c : Context} {f : ReleaseFields} (hc : t.ctx? i = some c) (ht : Acts S s t) :
    Acts S s (t.releaseContext i c f) := by
  unfold State.releaseContext
  split
  · exact ht.silentFree.countCue fun k => by simp [CueCounts.list, le_inc]
  · exact ht.actPlayout hc ‹c.state = .looping›
  · exact ht.actCut hc (by rw [‹c.state = .looping›]; decide)
  · exact ht.notePlayout
  · exact ht.ignoreRelease
  · exact ht.ignoreRelease
  · exact ht.actCut hc (by rw [‹c.state = .running›]; decide)
  · exact ht.ignoreRelease

theorem Acts.takeRelease {f : ReleaseFields} (ht : Acts S s t) : Acts S s (t.takeRelease f) := by
  unfold State.takeRelease
  split
  · exact ht.countStreams fun k => by simp [StreamCounts.list, le_inc]
  · split
    · rename_i c hc; exact ht.releaseContext hc
    · exact ht

theorem Acts.takeStopAll {src : Station} (ht : Acts S s t) : Acts S s (t.takeStopAll src) :=
  Acts.fold (fun _ hv => hv.silentFree.countCue fun k => by simp [CueCounts.list, le_inc]) ht

theorem Acts.takeOverBy {id : StreamId} (ht : Acts S s t) : Acts S s (t.takeOverBy id) := by
  unfold State.takeOverBy
  split
  · exact ht
  · split
    · exact ht
    · rename_i c _
      refine ht.silentFree.countCue fun k => ?_
      by_cases h : c.state = .contending <;> simp [h, CueCounts.list, le_inc]

theorem Acts.expireOffer {i : Nat} (ht : Acts S s t) : Acts S s (t.expireOffer i) :=
  ht.silentFree.countCue fun k => by simp [CueCounts.list, le_inc]

theorem Acts.offerExpires {i : Nat} {o : OfferRecord} (ht : Acts S s t) : Acts S s (t.offerExpires i o) := by
  unfold State.offerExpires
  split
  · exact ht.expireOffer
  · refine ht.updCtx (fun _ _ => contextAct_quiet rfl rfl rfl rfl rfl (.refl _)) fun c _ _ ⟨hst, r, hr, hp⟩ =>
      ⟨hst, { r with lapsed := true }, by simp [hr], hp⟩
  · exact ht

end

end Sys2Proof.Machine


/-! SUPPORT. The commands as chains of acts: what every command but POWER_ON does is such a chain after its elapsed time, and
then the standing conditions. -/

namespace Sys2Proof.Machine

section
variable {S : Special → Prop} {s t u : State}

/-! ### Marks and TRANSPORT -/

theorem Acts.mark {f : Clock → Clock} (hS : S .mark) (h : t.clock.InRange → (f t.clock).InRange)
    (hc : CountsRise t.clock.counts.list (f t.clock).counts.list)
    (hl : (f t.clock).localTime = t.clock.localTime) (ht : Acts S s t) : Acts S s (t.onClock f) :=
  ht.tail (.mark f t hS h hc hl)

theorem Acts.clock {f : Clock → Clock} (h : t.clock.InRange → (f t.clock).InRange)
    (hc : (f t.clock).counts = t.clock.counts) (hl : (f t.clock).localTime = t.clock.localTime)
    (hf : (f t.clock).sfc = t.clock.sfc) (hu : t.clock.state = .unset → (f t.clock).state = .unset)
    (ht : Acts S s t) : Acts S s (t.onClock f) := ht.tail (.clock f t h (hc ▸ countsRise_refl _) hl hf hu)

theorem Acts.handCount {value : Time} (hS : S .mark) (ht : Acts S s t) : Acts S s (t.handCount value) :=
  (Acts.mark hS id same rfl ht).staleTestAll

theorem countStep_rises (plain value : Time) (k : ClockCounts) : CountsRise k.list (countStep plain value k).list := by
  unfold countStep
  split
  · exact countsRise_refl _
  · simp [ClockCounts.list, le_inc]

theorem Acts.moveCount (hS : S .mark) (ht : Acts S s t) : Acts S s t.moveCount := by
  unfold State.moveCount
  dsimp only
  split
  · exact Acts.handCount hS (Acts.mark hS id same rfl (ht.countClock (countStep_rises _ _)))
  · exact ht.handCount hS

/-- A clock at the start of a run of real marks. -/
theorem inRange_started {c : Clock} (h : c.InRange) (state : ClockState) (load : Option PendingLoad) :
    ({ c with state := state, load := load, synthRun := 0 } : Clock).InRange := ⟨Nat.zero_le _, fun _ => rfl, h.2.2⟩

theorem Acts.realMark (hS : S .mark) (ht : Acts S s t) : Acts S s t.realMark := by
  unfold State.realMark
  split
  · split
    · exact Acts.handCount hS (Acts.mark hS (fun h => inRange_started h _ _) same rfl
        (ht.countClock fun k => by simp [ClockCounts.list, le_inc]))
    · exact ht
  · exact ht.moveCount hS
  · split
    · split
      · exact Acts.handCount hS (Acts.mark hS (fun h => inRange_started h _ _) same rfl
          (ht.countClock (countStep_rises _ _)))
      · exact ht
    · exact ht
  · exact Acts.moveCount hS (Acts.mark hS (fun h => inRange_started h _ _) same rfl ht)
  · exact Acts.moveCount hS (Acts.mark hS (fun h => inRange_started h _ _) same rfl ht)

theorem measure_range {c : Clock} (h : c.InRange) (e : Time) :
    ∀ i, c.measure e = some i → Config.minInterval ≤ i ∧ i ≤ Config.maxInterval := by
  intro i hi
  unfold Clock.measure at hi
  split at hi
  · split at hi
    · rename_i hb
      cases hi
      omega
    · exact h.2.2 i hi
  · exact h.2.2 i hi

theorem Acts.syntheticMark (hS : S .mark) (hr : t.clock.synthRun < Config.flywheelRun ∨ t.clock.state = .running)
    (ht : Acts S s t) : Acts S s t.syntheticMark := by
  unfold State.syntheticMark
  refine Acts.moveCount hS (Acts.mark hS ?_ same rfl (ht.countClock fun k => by simp [ClockCounts.list, le_inc]))
  rintro ⟨_, h2, h3⟩
  refine ⟨?_, fun h => (by cases h), h3⟩
  rcases hr with hr | hr
  · exact hr
  · show t.clock.synthRun + 1 ≤ _
    rw [show t.clock.synthRun = 0 from h2 hr]
    decide

theorem Acts.watchExpires (hS : S .mark) (ht : Acts S s t) : Acts S s t.watchExpires := by
  have hclose : Acts S s (t.onClock fun c => { c with pairingOpen := false, watch := none }) := Acts.clock id rfl rfl rfl id (ht)
  unfold State.watchExpires
  dsimp only
  split
  · rename_i h; exact hclose.syntheticMark hS (.inr h)
  · split
    · rename_i h; exact hclose.syntheticMark hS (.inl h)
    · refine Acts.mark hS ?_ same rfl (hclose.countClock fun k => by simp [ClockCounts.list, le_inc])
      exact fun h => ⟨h.1, fun h => (by cases h), h.2.2⟩
  · exact hclose
  · exact hclose
  · exact hclose

theorem Acts.arm {kind : LoadKind} {value : Time} (ht : Acts S s t) : Acts S s (t.arm kind value) :=
  Acts.clock id rfl rfl rfl id (ht)

theorem Acts.takeTiming {value : Time} (ht : Acts S s t) : Acts S s (t.takeTiming value) := by
  unfold State.takeTiming
  split
  · exact ht.arm
  · exact ht.countClock fun k => by simp [ClockCounts.list, le_inc]
  · exact ht.arm
  · exact ht.arm
  · exact ht.arm

theorem Acts.takePause (ht : Acts S s t) : Acts S s t.takePause := by
  have hdrop : Acts S s (t.onClock fun c => { c with load := none }) := Acts.clock id rfl rfl rfl id (ht)
  have hpause : t.clock.state ≠ .unset → Acts S s ((t.onClock fun c => { c with load := none }).onClock fun c =>
      { c with state := .paused, synthRun := 0 }) := fun hne =>
    Acts.clock (fun h => ⟨Nat.zero_le _, fun h => (by cases h), h.2.2⟩) rfl rfl rfl (fun h => absurd h hne) hdrop
  unfold State.takePause
  dsimp only
  split
  · exact hdrop
  · exact hdrop
  · rename_i h; exact hpause (by rw [h]; decide)
  · rename_i h; exact hpause (by rw [h]; decide)
  · rename_i h; exact hpause (by rw [h]; decide)

theorem Acts.transport {src : Station} {taken : State → State} (h : Acts S s t → Acts S s (taken t)) (ht : Acts S s t) :
    Acts S s (t.transport src taken) := by
  unfold State.transport
  split
  · split
    · exact h ht
    · exact ht.countClock fun k => by simp [ClockCounts.list, le_inc]
  · exact ht

/-! ### Frames -/

theorem Acts.broadcastFrame {frame : List Byte} {src : Station} {owner : State → State} (hl : S .line) (hw : S .watch)
    (h : Acts S s (((t.received frame).enterBus .gap).boundary) → Acts S s (owner (((t.received frame).enterBus .gap).boundary)))
    (ht : Acts S s t) : Acts S s (t.broadcastFrame frame src owner) := by
  have hu := (ht.received (frame := frame)).line (state := .gap) hl |>.boundary hw
  unfold State.broadcastFrame
  dsimp only
  split
  · split
    · exact hu
    · split
      · exact h hu
      · exact hu.countBus fun k => by simp [BusCounts.list, le_inc]
  · exact ht

theorem Acts.judge {owner : State → State × Bool} (h : Acts S s t → Acts S s (owner t).1) (ht : Acts S s t) :
    Acts S s (t.judge owner).1 := by
  unfold State.judge
  split
  · exact ht
  · split
    · dsimp only
      exact ht.countBus fun k => by simp [BusCounts.list, le_inc]
    · exact h ht

theorem Acts.addressedFrame {frame : List Byte} {owner : State → State × Bool} (hl : S .line) (hw : S .watch)
    (h : ∀ v, Acts S s v → Acts S s (owner v).1) (ht : Acts S s t) : Acts S s (t.addressedFrame frame owner) := by
  have hu := (ht.received (frame := frame)).boundary hw
  unfold State.addressedFrame
  dsimp only
  split
  · split
    · exact (hu.judge (h _)).line hl
    · exact hu.line hl
  · exact ht

theorem Acts.refuseKind (ht : Acts S s t) : Acts S s t.refuseKind.1 := by
  unfold State.refuseKind
  dsimp only
  exact ht.countBus fun k => by simp [BusCounts.list, le_inc]

theorem Acts.observedFrame {frame : List Byte} {owner : State → State} (hl : S .line) (hw : S .watch)
    (h : ∀ v, Acts S s v → Acts S s (owner v)) (ht : Acts S s t) : Acts S s (t.observedFrame frame owner) := by
  have hu := (ht.received (frame := frame)).line (state := .gap) hl |>.boundary hw
  unfold State.observedFrame
  dsimp only
  split
  · split
    · exact hu.judge Acts.refuseKind
    · split
      · exact hu
      · exact h _ hu
  · exact ht

theorem Acts.endTenure (hl : S .line) (hw : S .watch) (ht : Acts S s t) : Acts S s t.endTenure :=
  ((ht.line hl).boundary hw).bus (busAct_quiet rfl rfl rfl rfl rfl)

theorem Acts.closeViews (ht : Acts S s t) : Acts S s t.closeViews := ht.views rfl

theorem Acts.wipeViews (ht : Acts S s t) : Acts S s t.wipeViews :=
  ht.closeViews.countDelivery fun k => by simp [DeliveryCounts.list, le_inc]

theorem Acts.takeReady {src : Station} {openSet : LaneSet} (ht : Acts S s t) : Acts S s (t.takeReady src openSet) := by
  unfold State.takeReady
  split
  · exact ht.countDelivery fun k => by simp [DeliveryCounts.list, le_inc]
  · exact Acts.countDelivery (fun k => by simp [DeliveryCounts.list, le_inc]) (ht.views rfl)

/-! ### Contests and the slots of the 7240's own frames -/

theorem Acts.present {p : OwnItem × WireFrame} (ht : Acts S s t) : Acts S s (t.present p) := by
  have hm : Acts S s (t.markPresented p.1) := by
    unfold State.markPresented
    split
    · exact ht.setOfferPhase fun h => by cases h
    · exact ht.setHeadPhase
    · exact ht
    · exact ht
    · exact ht
  exact hm.bus (busAct_quiet rfl rfl rfl rfl rfl)

theorem Acts.formWord (ht : Acts S s t) : Acts S s t.formWord := by
  unfold State.formWord
  dsimp only
  split
  · exact ht.staleTestAll.present
  · exact ht.staleTestAll

theorem countSent_rises (item : OwnItem) (k : BusCounts) : CountsRise k.list (k.countSent item).list := by
  cases item <;> simp [BusCounts.countSent, BusCounts.list, le_inc]

theorem Acts.leaveQueue {item : OwnItem} {frame : WireFrame} (ht : Acts S s t) : Acts S s (t.leaveQueue item frame) := by
  unfold State.leaveQueue
  split
  · exact Acts.setOfferPhase (fun _ => by simp) (ht.bus ⟨List.filter_sublist, countsRise_refl _, rfl, rfl, rfl⟩)
  · exact Acts.countDelivery (fun k => by simp [DeliveryCounts.list, le_inc]) ht.setHeadPhase
  · exact ht.bus (busAct_quiet rfl rfl rfl rfl rfl)
  · exact ht.bus (busAct_quiet rfl rfl rfl rfl rfl)
  · exact ht.bus (busAct_quiet rfl rfl rfl rfl rfl)

theorem Acts.winContest {w : Tenure} (ht : Acts S s t) : Acts S s (t.winContest w) := by
  have hwon : Acts S s (t.countBus fun k => { k with won := inc k.won }) :=
    ht.countBus fun k => by simp [BusCounts.list, le_inc]
  unfold State.winContest
  exact Acts.bus (busAct_quiet rfl rfl rfl rfl rfl) (hwon.leaveQueue.countBus (countSent_rises w.item))

theorem Acts.loseContest {w : Tenure} (ht : Acts S s t) : Acts S s (t.loseContest w) := by
  have hu : Acts S s ((t.countBus fun k => { k with lost := inc k.lost }).onBus fun b =>
      { b with contestWord := none, tenure := none }) :=
    Acts.bus (busAct_quiet rfl rfl rfl rfl rfl) (ht.countBus fun k => by simp [BusCounts.list, le_inc])
  unfold State.loseContest
  dsimp only
  split
  · unfold State.offerLost
    split
    · split
      · exact hu.expireOffer
      · exact hu.setOfferPhase fun h => by cases h
    · exact hu
  · exact hu.setHeadPhase.staleTest
  · exact hu
  · exact hu
  · exact hu

theorem Acts.offerAcked {i : Nat} (ht : Acts S s t) : Acts S s (t.offerAcked i) := by
  unfold State.offerAcked
  split
  · rename_i c hc
    split
    · rename_i hs
      exact Acts.takeStream (t := t.countCue _) hc hs (ht.countCue fun k => by simp [CueCounts.list, le_inc])
    · exact ht
  · exact ht

theorem Acts.offerNacked {i : Nat} (ht : Acts S s t) : Acts S s (t.offerNacked i) := by
  unfold State.offerNacked
  split
  · split
    · exact ht.silentFree.countCue fun k => by simp [CueCounts.list, le_inc]
    · exact ht
  · exact ht

theorem Acts.noticeRefused {reading : Reading} (ht : Acts S s t) : Acts S s (t.noticeRefused reading) := by
  unfold State.noticeRefused
  split
  · exact ht
  · exact ht.countBus fun k => by simp [BusCounts.list, le_inc]

theorem Acts.endGone {i : Nat} (ht : Acts S s t) : Acts S s (t.endGone i) := by
  unfold State.endGone
  split
  · rename_i c hc
    split
    · rename_i hs
      exact Acts.countStreams (fun k => by simp [StreamCounts.list, le_inc])
        (ht.tail (.free i c c t hc rfl (.inr (by rw [hs]; decide))))
    · exact ht
  · exact ht

theorem Acts.closeFrameLane {frame : WireFrame} (ht : Acts S s t) : Acts S s (t.closeFrameLane frame) := by
  unfold State.closeFrameLane
  split
  · exact ht.views rfl
  · exact ht

theorem le_ite_inc (p : Prop) [Decidable p] (k : Count) : k.toNat ≤ (if p then inc k else k).toNat := by
  split
  · exact le_inc k
  · exact le_rfl

theorem countDelivered_rises (frame : WireFrame) (k : DeliveryCounts) :
    CountsRise k.list (k.countDelivered frame).list := by
  unfold DeliveryCounts.countDelivered
  split
  · simp only [DeliveryCounts.list, CountsRise, List.forall₂_cons, le_refl, true_and, le_inc, le_ite_inc]
    exact .nil
  · exact countsRise_refl _

theorem Acts.deliverHead {i : Nat} {e : Entry} (ht : Acts S s t) : Acts S s (t.deliverHead i e) :=
  Acts.serveNow (Acts.countStreams (fun k => by simp [StreamCounts.list, le_inc]) (Acts.releaseEntry
    (ht.updCtx (fun c _ => contextAct_quiet rfl rfl rfl rfl rfl ((List.tail_sublist _).map _)) fun _ _ _ h => h)))

theorem Acts.blockAcked {i : Nat} {frame : WireFrame} (ht : Acts S s t) : Acts S s (t.blockAcked i frame) := by
  unfold State.blockAcked
  dsimp only
  split
  · exact ht.closeFrameLane
  · exact Acts.deliverHead (Acts.countDelivery (countDelivered_rises frame)
      (ht.closeFrameLane.updCtx (fun _ _ => contextAct_quiet rfl rfl rfl rfl rfl (.refl _)) fun _ _ _ h => h))

theorem sentHead_window {c : Context} {e : Entry} (h : c.sentHead = some e) : ∃ rest, c.window = e :: rest ∧ e.busPhase = .sent := by
  unfold Context.sentHead at h
  split at h
  · rename_i x rest hw
    split at h
    · cases h; exact ⟨rest, hw, ‹_›⟩
    · cases h
  · cases h

theorem Acts.blockNacked {i : Nat} {frame : WireFrame} (ht : Acts S s t) : Acts S s (t.blockNacked i frame) := by
  unfold State.blockNacked
  dsimp only
  split
  · exact ht.closeFrameLane
  · rename_i c hc
    split
    · exact ht.closeFrameLane
    · rename_i e he
      have hu : Acts S s (((t.closeFrameLane frame).updCtx i fun x =>
          { x.setHeadPhase .none with nacks := x.nacks + 1 }).countDelivery fun k =>
          { k with blocksRefused := inc k.blocksRefused }) :=
        Acts.countDelivery (fun k => by simp [DeliveryCounts.list, le_inc])
          (ht.closeFrameLane.updCtx
            (fun c _ => contextAct_quiet rfl rfl rfl rfl rfl (by show ((c.setHeadPhase _).window.map _).Sublist _; rw [setHeadPhase_pos]))
            fun _ _ _ h => h)
      split
      · exact hu.staleTest
      · refine hu.moves (Moves.enterSpent (fun d hd => .inr ?_) .refl)
        obtain ⟨rest, hw, -⟩ := sentHead_window he
        have hd : ((t.closeFrameLane frame).updCtx i fun x =>
          { x.setHeadPhase .none with nacks := x.nacks + 1 }).ctx? i = some d := hd
        rw [ctx?_updCtx, if_pos rfl, hc, Option.map_some, Option.some.injEq] at hd
        subst hd
        simp [Context.setHeadPhase, hw]

/-! ### SERVICE, STORE and programs -/

theorem Acts.takeQuery {src : Station} (ht : Acts S s t) : Acts S s (t.takeQuery src).1 := by
  unfold State.takeQuery
  dsimp only
  exact Acts.countBus (fun k => by simp [BusCounts.list, le_inc]) (ht.bus (busAct_quiet rfl rfl rfl rfl rfl))

theorem Acts.refuseService (ht : Acts S s t) : Acts S s t.refuseService.1 := by
  unfold State.refuseService
  dsimp only
  exact ht.countDir fun k => by simp [DirectoryCounts.list, le_inc]

theorem Acts.takeServiceEnter {src : Station} (hS : S .service) (ht : Acts S s t) :
    Acts S s (t.takeServiceEnter src).1 := by
  unfold State.takeServiceEnter
  split
  · rename_i h; exact ht.tail (.service src t hS h.1)
  · split
    · exact ht
    · exact ht.refuseService

theorem Acts.takeServiceExit {src : Station} (hS : S .left) (ht : Acts S s t) : Acts S s (t.takeServiceExit src).1 := by
  unfold State.takeServiceExit
  split
  · rename_i h; exact ht.tail (.left t hS h.1)
  · exact ht.refuseService

theorem Acts.takeStore {src : Station} {address : BitVec 32} {data : List Byte} (ht : Acts S s t) :
    Acts S s (t.takeStore src address data).1 := by
  unfold State.takeStore
  split
  · dsimp only
    exact ht.countBus fun k => by simp [BusCounts.list, le_inc]
  · split
    · rename_i h
      dsimp only
      refine ht.dir rfl (fun _ => ?_) same
      simp only [List.length_append, List.length_singleton]
      exact h.2.2
    · dsimp only
      exact ht.countDir fun k => by simp [DirectoryCounts.list, le_inc]

theorem Acts.takeAddressed {bytes : List Byte} (h1 : S .service) (h2 : S .left) (ht : Acts S s t) :
    Acts S s (t.takeAddressed bytes).1 := by
  unfold State.takeAddressed
  split
  · split
    · exact ht.takeQuery
    · exact ht.takeServiceEnter h1
    · exact ht.takeServiceExit h2
    · exact ht.takeStore
    · exact ht.refuseKind
    · exact ht.refuseKind
    · exact ht.refuseKind
    · exact ht.refuseKind
    · exact ht.refuseKind
    all_goals exact ht
  · exact ht

theorem Acts.receivedAtSlotEnd {frame : Option (List Byte)} (h1 : S .service) (h2 : S .left) (ht : Acts S s t) :
    Acts S s (t.receivedAtSlotEnd frame) := by
  unfold State.receivedAtSlotEnd
  split
  · dsimp only
    split
    · exact ht.received.judge (Acts.takeAddressed h1 h2)
    · exact ht.received
  · exact ht

theorem countOutcome_rises (o : StoreOutcome) (k : DirectoryCounts) : CountsRise k.list (k.countOutcome o).list := by
  cases o <;> simp [DirectoryCounts.countOutcome, DirectoryCounts.list, le_inc]

theorem Acts.answerStore {request : StoreRequest} {silent : Bool} {o : StoreOutcome} (ht : Acts S s t) :
    Acts S s (t.answerStore request silent o) := by
  unfold State.answerStore
  dsimp only
  split
  · exact ht.countDir (countOutcome_rises o)
  · exact (ht.countDir (countOutcome_rises o)).bus (busAct_quiet rfl rfl rfl rfl rfl)

theorem Acts.concludeProgram {p : Program} {o : StoreOutcome} (ht : Acts S s t) : Acts S s (t.concludeProgram p o) := by
  have hu : Acts S s ((t.onDir fun d => { d with program := none }).answerStore p.request p.silent o) :=
    Acts.answerStore (ht.dir rfl id same)
  unfold State.concludeProgram State.layoutFromStore
  split
  · exact hu.dir rfl id same
  · exact hu

theorem Acts.endProgram {p : Program} {o : StoreOutcome} (ht : Acts S s t) : Acts S s (t.endProgram p o) :=
  ht.endOp.concludeProgram.afterOperation

theorem Acts.takeRequest {request : StoreRequest} {rest : List StoreRequest} (hq : t.dir.storeQueue = request :: rest)
    (ht : Acts S s t) : Acts S s (t.takeRequest request rest) := by
  have hu : Acts S s (t.onDir fun d => { d with storeQueue := rest }) :=
    ht.dir rfl (fun h => by rw [hq] at h; exact Nat.le_of_succ_le h) same
  unfold State.takeRequest
  dsimp only
  split
  · exact hu.answerStore
  · exact hu.dir rfl id same

theorem Acts.nextOperation {p : Program} (ht : Acts S s t) : Acts S s (t.nextOperation p) := by
  unfold State.nextOperation
  split
  · exact ht.runProgram
  · exact ht.endProgram

end

end Sys2Proof.Machine


/-! SUPPORT. The reads and probes that time out, and every command as a chain of acts. -/

namespace Sys2Proof.Machine

section
variable {S : Special → Prop} {s t u : State}

/-! ### Reads that time out -/

theorem finishPatched_offline (c d : ChannelNo) (t : State) (f : Fetch) (h : ∀ v : State, ∀ n,
    ((v.fillComplete n).chan d).offline = (v.chan d).offline) :
    ((t.finishPatched c f).chan d).offline = (t.chan d).offline := by
  have hreport : ∀ (l : List Nat) (v : State),
      (l.foldl (fun t i => t.reportPage f.slot (f.pagesDone + i) none) v).fetch = v.fetch := by
    intro l
    induction l with
    | nil => exact fun _ => rfl
    | cons a rest ih => exact fun v => ih _
  unfold State.finishPatched
  rw [h]
  simp only [State.countChan, chan_updChan]
  split <;> simp [State.chan, hreport]

theorem removeFetch_offline (c d : ChannelNo) (n : SlotNo) (t : State) :
    ((t.removeFetch c n).chan d).offline = (t.chan d).offline := by
  show (((t.updChan c (Channel.dropFetch n)).countChan c fun k => { k with cancels := inc k.cancels }).chan d).offline = _
  simp only [State.countChan, chan_updChan]
  split <;> rfl

theorem cancelFetch_offline (d : ChannelNo) (n : SlotNo) (t : State) :
    ((t.cancelFetch n).chan d).offline = (t.chan d).offline := by
  unfold State.cancelFetch
  split
  · rfl
  · split
    · rfl
    · split
      · split
        · rw [chan_updChan]; split <;> rfl
        · rfl
      · exact removeFetch_offline _ d n t

theorem releaseRef_offline (d : ChannelNo) (n : SlotNo) (t : State) :
    ((t.releaseRef n).chan d).offline = (t.chan d).offline := by
  unfold State.releaseRef
  split
  · rfl
  · dsimp only
    split
    · split
      · rfl
      · rfl
      · exact cancelFetch_offline d n _
    · rfl

theorem withdraw_offline (d : ChannelNo) (entries : List Entry) (t : State) :
    ((t.withdraw entries).chan d).offline = (t.chan d).offline := by
  unfold State.withdraw
  induction entries generalizing t with
  | nil => rfl
  | cons e rest ih =>
    rw [List.foldl_cons, ih]
    show ((t.releaseEntry e).chan d).offline = _
    unfold State.releaseEntry
    split
    · exact releaseRef_offline d _ t
    · rfl

theorem enterSpent_offline (d : ChannelNo) (i : Nat) (reason : EndReason) (t : State) :
    ((t.enterSpent i reason).chan d).offline = (t.chan d).offline := by
  unfold State.enterSpent
  split
  · rfl
  · exact withdraw_offline d _ (t.updCtx i _)

theorem policyTest_offline (d : ChannelNo) (i : Nat) (t : State) :
    ((t.policyTest i).chan d).offline = (t.chan d).offline := by
  unfold State.policyTest
  split
  · rfl
  · split
    · rfl
    · split
      · dsimp only
        split
        · exact enterSpent_offline d i _ (t.updCtx i _)
        · rfl
      · rfl

theorem fillComplete_offline (d : ChannelNo) (n : SlotNo) (t : State) :
    ((t.fillComplete n).chan d).offline = (t.chan d).offline := by
  have hfill : ∀ (p : PageSet) (l : List Nat) (v : State),
      ((l.foldl (State.fillContext n p) v).chan d).offline = (v.chan d).offline := by
    intro p l
    induction l with
    | nil => exact fun _ => rfl
    | cons i rest ih =>
      intro v
      rw [List.foldl_cons, ih]
      unfold State.fillContext
      split
      · rfl
      · dsimp only
        split
        · rfl
        · split
          · exact policyTest_offline d i (v.updCtx i _)
          · rfl
  unfold State.fillComplete
  split
  · rfl
  · dsimp only
    have hfirst : ∀ b : Prop, [Decidable b] → ∀ (f g : Slot → Slot) (p q : CacheCounts → CacheCounts),
        ((if b then (t.updSlot n f).countCache p else (t.updSlot n g).countCache q).chan d).offline
          = (t.chan d).offline := by
      intro b _ f g p q
      split <;> rfl
    split
    · split
      · rfl
      · rfl
    · rw [hfill, hfirst]

/-- A channel gone OFFLINE is OFFLINE, whatever the completions of its queue set off. -/
theorem goOffline_offline (c : ChannelNo) (t : State) : ((t.goOffline c).chan c).offline = true := by
  have hfold : ∀ (l : List Fetch) (v : State),
      ((l.foldl (State.finishPatched c) v).chan c).offline = (v.chan c).offline := by
    intro l
    induction l with
    | nil => exact fun _ => rfl
    | cons f rest ih =>
      intro v
      rw [List.foldl_cons, ih, finishPatched_offline c c v f fun v n => fillComplete_offline c n v]
  unfold State.goOffline
  rw [hfold, chan_updChan_self]

theorem faultCauses_of_offline {c : ChannelNo} (h : (t.chan c).offline = true) : t.faultCauses.any id = true := by
  have : channels.any (fun c => (t.chan c).offline) = true :=
    List.any_eq_true.mpr ⟨c, (by decide : ∀ c : ChannelNo, c ∈ channels) c, h⟩
  simp [State.faultCauses, this]

/-- FAULT as a command may bring it up to date once within itself: not at all, or while a cause holds. -/
def FaultOnce (u v : State) : Prop := v = u ∨ (u.faultCauses.any id = true ∧ v = u.updateFault)

theorem Acts.faultOnce {v : State} (hS : S .fault) (h : FaultOnce t v) (ht : Acts S s t) : Acts S s v := by
  rcases h with rfl | ⟨-, rfl⟩
  · exact ht
  · exact ht.tail (.fault t hS)

/-- A read that times out: a chain of acts, FAULT brought up to date at most once among them. -/
theorem timedOut_trace (c : ChannelNo) (kind : OperationKind) (t : State) :
    ∃ u v, Acts S t u ∧ FaultOnce u v ∧ Acts S v (t.timedOut c kind) := by
  have hcount : Acts S t (t.updChan c Channel.countTimeout) := Acts.updChan countTimeout_act .refl
  have third : ∀ v, ∃ u, Acts S v u ∧ FaultOnce u (v.offlineAtThird c) := by
    intro v
    unfold State.offlineAtThird
    split
    · exact ⟨v.goOffline c, Acts.goOffline .refl, .inr ⟨faultCauses_of_offline (goOffline_offline c v), rfl⟩⟩
    · exact ⟨v, .refl, .inl rfl⟩
  cases kind with
  | fetchPage n =>
    obtain ⟨u, hu, hf⟩ := third ((t.updChan c Channel.countTimeout).fetchPageDone c n none)
    exact ⟨u, _, hcount.fetchPageDone.trans hu, hf, Acts.afterOperation .refl⟩
  | directoryPage =>
    obtain ⟨u, hu, hf⟩ := third (t.updChan c Channel.countTimeout)
    exact ⟨u, _, hcount.trans hu, hf, (Acts.directoryPageDone .refl).afterOperation.issueDirectory⟩
  | discardedFetchPage =>
    obtain ⟨u, hu, hf⟩ := third (t.updChan c Channel.countTimeout)
    exact ⟨u, _, hcount.trans hu, hf, Acts.afterOperation .refl⟩
  | discardedDirectoryPage =>
    obtain ⟨u, hu, hf⟩ := third (t.updChan c Channel.countTimeout)
    exact ⟨u, _, hcount.trans hu, hf, Acts.afterOperation .refl⟩
  | program w => exact ⟨t, t, .refl, .inl rfl, .refl⟩
  | probe n => exact ⟨t, t, .refl, .inl rfl, .refl⟩
  | discardedProbe => exact ⟨t, t, .refl, .inl rfl, .refl⟩

theorem Acts.timedOut {c : ChannelNo} {kind : OperationKind} (hS : S .fault) (ht : Acts S s t) :
    Acts S s (t.timedOut c kind) := by
  obtain ⟨u, v, hu, hf, hv⟩ := timedOut_trace (S := S) c kind t
  exact (Acts.faultOnce hS hf (ht.trans hu)).trans hv

theorem Acts.takeAnswer {c : ChannelNo} {op : Operation} {out : PageOutcome} (hS : S .fault) (ht : Acts S s t) :
    Acts S s (t.takeAnswer c op out) := by
  unfold State.takeAnswer
  split
  · exact ht.timedOut hS
  · exact ht.answered

/-! ### Probes -/

theorem Acts.probeFinished (hS : S .probed) (ht : Acts S s t) : Acts S s t.probeFinished := ht.tail (.probed t hS)

theorem Acts.probeFailed {c : ChannelNo} (hS : S .probed) (hF : S .fault) (ht : Acts S s t) :
    Acts S s (t.probeFailed c) := by
  refine Acts.probeFinished hS (Acts.takeWaitingPage ?_)
  have hu : Acts S s (t.updChan c fun k => { k with pageCount := none }) := ht.updChan fun _ => channelAct_quiet rfl rfl
  exact hu.goOffline.tail (.fault _ hF)

theorem Acts.attemptTimedOut {c : ChannelNo} {kind : OperationKind} (hS : S .probed) (hF : S .fault) (ht : Acts S s t) :
    Acts S s (t.attemptTimedOut c kind) := by
  have hu := ht.countChan (c := c) (f := fun k => { k with probeFailures := inc k.probeFailures })
    fun k => by simp [ChannelCounts.list, le_inc]
  unfold State.attemptTimedOut
  dsimp only
  split
  · split
    · exact hu.issue
    · exact hu.probeFailed hS hF
  · exact hu.endOp.afterOperation

theorem Acts.attemptAnswered {c : ChannelNo} {kind : OperationKind} {pages : Nat} (hS : S .probed) (ht : Acts S s t) :
    Acts S s (t.attemptAnswered c kind pages) := by
  unfold State.attemptAnswered
  split
  · exact ht.endOp.afterOperation
  · exact Acts.probeFinished hS (Acts.afterOperation (ht.endOp.updChan fun _ => channelAct_quiet rfl rfl))

/-! ### The CLEAR line -/

theorem Acts.releaseClear (ht : Acts S s t) : Acts S s t.releaseClear := by
  have hu : Acts S s (t.onBus fun b => { b with clear := .released }) := ht.bus (busAct_quiet rfl rfl rfl rfl rfl)
  have hc : Acts S s ((t.onBus fun b => { b with clear := .released }).onClock fun c => { c with pairingOpen := false }) :=
    Acts.clock id rfl rfl rfl id (hu)
  unfold State.releaseClear
  dsimp only
  split
  · exact hu
  · exact hc
  · exact hc.probeAll
  · exact hc.probeAll
  · exact hc.probeAll
  · exact hc.probeAll

end

end Sys2Proof.Machine

namespace Sys2Proof

open Machine

/-! ### Every command -/

/-- The special acts a command can have. -/
@[simp] def Instr.specials : Instr → List Special
  | .configImageRead _ _ => [.image, .unconfigured]
  | .configReadTimeout _ => [.unconfigured]
  | .geometryReadAnswer _ _ _ => [.probed, .fault]
  | .geometryReadTimeout _ _ => [.probed, .fault]
  | .directoryLoad _ => [.begun, .fault]
  | .directoryPageRead _ _ _ => [.fault]
  | .pageTimeout _ _ => [.fault]
  | .fetchPageRead _ _ _ => [.fault]
  | .markEdge _ => [.mark]
  | .watchExpiry _ => [.mark]
  | .run _ _ _ => [.line, .watch]
  | .timing _ _ _ => [.line, .watch]
  | .pause _ _ => [.line, .watch]
  | .stopAll _ _ => [.line, .watch]
  | .cue _ _ _ => [.line, .watch]
  | .release _ _ _ => [.line, .watch]
  | .ready _ _ _ => [.line, .watch]
  | .offerObserved _ _ _ => [.line, .watch]
  | .blockObserved _ _ _ _ => [.line, .watch]
  | .queryStatus _ _ => [.line, .watch]
  | .serviceEnter _ _ => [.line, .watch, .service]
  | .serviceExit _ _ => [.line, .watch, .left]
  | .store _ _ _ _ => [.line, .watch]
  | .unexpectedKind _ _ => [.line, .watch]
  | .malformed _ _ => [.line, .watch]
  | .checkFailure _ _ => [.line, .watch]
  | .brokenFrame _ _ => [.line, .watch]
  | .ackSlotEnd _ => [.line, .watch, .service, .left]
  | .contestStart _ => [.line, .watch]
  | .emptyContest _ => [.line]
  | .ownOfferAck _ => [.line, .watch]
  | .ownOfferNack _ => [.line, .watch]
  | .ownBlockAck _ => [.line, .watch]
  | .ownBlockNack _ => [.line, .watch]
  | .endSent _ _ => [.line, .watch]
  | .storedSent _ _ => [.line, .watch]
  | .stateSent _ _ => [.line, .watch]
  | .gapEnd _ => [.line, .startBit]
  | .busSync _ _ => [.line, .watch]
  | .busStuck _ => [.watch]
  | .clearCounts _ => [.clear]
  | .lineGoesRecessive _ => [.line]
  | _ => []

/-- The special acts a command can have in a state: its own, and, where the stream ids may not be distinct, an admission
of a repeated one. -/
def Instr.May (c : Instr) (s : State) (x : Special) : Prop :=
  x ∈ c.specials ∨ (x = .repeated ∧ ¬ (s.TableLaw ∧ s.StreamIdLaw))

end Sys2Proof


/-! SUPPORT. Every command but POWER_ON is a chain of acts after its elapsed time, and then the standing conditions. -/

namespace Sys2Proof

open Machine

/-- A command's own special acts are found by looking at its list. -/
theorem Instr.May.own {c : Instr} {s : State} {x : Special} (h : c.specials.contains x = true) :
    c.May s x := .inl (List.contains_iff_mem.mp h)

/-- The result of a command is what a chain of its acts makes after its elapsed time, and then the standing conditions. -/
def Instr.Does (c : Instr) (s : State) (r : Result) : Prop :=
  ∀ t, r = .next t → ∃ u, Acts (c.May s) (s.elapse c.elapsed) u ∧ t = u.finish

end Sys2Proof

namespace Sys2Proof.Machine

theorem command_does {c : Instr} {dt : Micros} {body : State → State} {s : State} (hdt : c.elapsed = dt)
    (hb : Acts (c.May s) (s.elapse dt) (body (s.elapse dt))) : c.Does s (s.command dt body) := by
  subst hdt
  intro t h
  exact ⟨_, hb, by cases h; rfl⟩

theorem phase_of_loadReady {s : State} (h : s.loadReady = true) : s.status.phase = .directoryLoad := by
  simp only [State.loadReady, Bool.and_eq_true, beq_iff_eq] at h
  exact h.1.1.1.1.1

theorem Acts.brokenBoundary {S : Special → Prop} {s t : State} (hS : S .watch) (ht : Acts S s t) :
    Acts S s t.brokenBoundary :=
  ht.tail (.watch (fun w => match w with | .running _ => .running t.now | w => w) t hS fun h => by rw [h])

/-! ### Command by command -/

theorem execConfigImageRead_does (dt image s) : (Instr.configImageRead dt image).Does s (execConfigImageRead dt image s) := by
  refine command_does rfl ?_
  split
  · rename_i hp
    split
    · exact Acts.probeAll (Relation.ReflTransGen.refl.tail (.image image _ (.own rfl) hp))
    · exact Relation.ReflTransGen.refl.tail (.unconfigured _ (.own rfl) hp)
  · exact .refl

theorem execConfigReadTimeout_does (dt s) : (Instr.configReadTimeout dt).Does s (execConfigReadTimeout dt s) := by
  refine command_does rfl ?_
  split
  · rename_i hp
    exact Relation.ReflTransGen.refl.tail (.unconfigured _ (.own rfl) hp.1)
  · exact .refl

theorem execGeometryReadAnswer_does (dt ch pages s) : (Instr.geometryReadAnswer dt ch pages).Does s (execGeometryReadAnswer dt ch pages s) := by
  refine command_does rfl ?_
  split
  · exact .refl
  · split
    · exact Acts.attemptTimedOut (.own rfl) (.own rfl) .refl
    · exact Acts.attemptAnswered (.own rfl) .refl

theorem execGeometryReadTimeout_does (dt ch s) : (Instr.geometryReadTimeout dt ch).Does s (execGeometryReadTimeout dt ch s) := by
  refine command_does rfl ?_
  split
  · exact .refl
  · split
    · exact Acts.attemptTimedOut (.own rfl) (.own rfl) .refl
    · exact .refl

theorem execDirectoryLoad_does (dt s) : (Instr.directoryLoad dt).Does s (execDirectoryLoad dt s) := by
  refine command_does rfl ?_
  split
  · rename_i hr
    have hp := phase_of_loadReady hr
    exact Acts.issueDirectory ((Relation.ReflTransGen.refl.tail (.begun _ (.own rfl) hp)).tail (.fault _ (.own rfl)))
  · exact .refl

theorem execDirectoryPageRead_does (dt ch out s) : (Instr.directoryPageRead dt ch out).Does s (execDirectoryPageRead dt ch out s) := by
  refine command_does rfl ?_
  split
  · split
    · exact Acts.takeAnswer (.own rfl) .refl
    · exact .refl
  · exact .refl

theorem execFetchPageRead_does (dt ch out s) : (Instr.fetchPageRead dt ch out).Does s (execFetchPageRead dt ch out s) := by
  refine command_does rfl ?_
  split
  · split
    · exact Acts.takeAnswer (.own rfl) .refl
    · exact .refl
  · exact .refl

theorem execPageTimeout_does (dt ch s) : (Instr.pageTimeout dt ch).Does s (execPageTimeout dt ch s) := by
  refine command_does rfl ?_
  split
  · split
    · exact Acts.timedOut (.own rfl) .refl
    · exact .refl
  · exact .refl

theorem execStoreTaken_does (dt s) : (Instr.storeTaken dt).Does s (execStoreTaken dt s) := by
  refine command_does rfl ?_
  split
  · rename_i hq
    split
    · exact Acts.takeRequest hq .refl
    · exact .refl
  · exact .refl

theorem execProgramBegin_does (dt s) : (Instr.programBegin dt).Does s (execProgramBegin dt s) := by
  refine command_does rfl ?_
  split
  · split
    · dsimp only
      split
      · exact Acts.concludeProgram .refl
      · split
        · exact Acts.runProgram .refl
        · exact .refl
    · exact .refl
  · exact .refl

theorem execProgramOperationComplete_does (dt success s) : (Instr.programOperationComplete dt success).Does s (execProgramOperationComplete dt success s) := by
  refine command_does rfl ?_
  split
  · split
    · exact Acts.nextOperation .refl
    · exact Acts.endProgram .refl
  · exact .refl

theorem execProgramTimeout_does (dt s) : (Instr.programTimeout dt).Does s (execProgramTimeout dt s) := by
  refine command_does rfl ?_
  split
  · split
    · exact Acts.endProgram .refl
    · exact .refl
  · exact .refl

theorem execMarkEdge_does (dt s) : (Instr.markEdge dt).Does s (execMarkEdge dt s) := by
  refine command_does rfl ?_
  split
  · split
    · exact Acts.countClock (fun k => by simp [ClockCounts.list, le_inc]) .refl
    · refine Acts.realMark (.own rfl) (Acts.clock ?_ rfl rfl rfl id .refl)
      exact fun h => ⟨h.1, h.2.1, measure_range h _⟩
  · exact .refl

theorem execWatchExpiry_does (dt s) : (Instr.watchExpiry dt).Does s (execWatchExpiry dt s) := by
  refine command_does rfl ?_
  split
  · split
    · exact Acts.watchExpires (.own rfl) .refl
    · exact .refl
  · exact .refl

theorem execRun_does (heard src value s) : (Instr.run heard src value).Does s (execRun heard src value s) := by
  refine command_does rfl ?_
  exact Acts.broadcastFrame (.own rfl) (.own rfl) (fun h => h.transport Acts.arm) .refl

theorem execTiming_does (heard src value s) : (Instr.timing heard src value).Does s (execTiming heard src value s) := by
  refine command_does rfl ?_
  exact Acts.broadcastFrame (.own rfl) (.own rfl) (fun h => h.transport Acts.takeTiming) .refl

theorem execPause_does (heard src s) : (Instr.pause heard src).Does s (execPause heard src s) := by
  refine command_does rfl ?_
  exact Acts.broadcastFrame (.own rfl) (.own rfl) (fun h => h.transport Acts.takePause) .refl

theorem execStopAll_does (heard src s) : (Instr.stopAll heard src).Does s (execStopAll heard src s) := by
  refine command_does rfl ?_
  exact Acts.broadcastFrame (.own rfl) (.own rfl) (Acts.takeStopAll) .refl

theorem execRelease_does (heard src fields s) : (Instr.release heard src fields).Does s (execRelease heard src fields s) := by
  refine command_does rfl ?_
  exact Acts.broadcastFrame (.own rfl) (.own rfl) (Acts.takeRelease) .refl

theorem execReady_does (heard src openSet s) : (Instr.ready heard src openSet).Does s (execReady heard src openSet s) := by
  refine command_does rfl ?_
  exact Acts.broadcastFrame (.own rfl) (.own rfl) (Acts.takeReady) .refl

theorem execCue_does (heard src fields s) : (Instr.cue heard src fields).Does s (execCue heard src fields s) := by
  refine command_does rfl ?_
  refine Acts.broadcastFrame (.own rfl) (.own rfl) (Acts.takeCue ?_) .refl
  by_cases hlaw : s.TableLaw ∧ s.StreamIdLaw
  · exact .inr hlaw
  · exact .inl (.inr ⟨rfl, hlaw⟩)

theorem execOfferObserved_does (heard id reading s) : (Instr.offerObserved heard id reading).Does s (execOfferObserved heard id reading s) := by
  refine command_does rfl ?_
  refine Acts.observedFrame (.own rfl) (.own rfl) (fun v hv => ?_) .refl
  cases reading
  · exact hv.takeOverBy
  · exact hv

theorem execBlockObserved_does (heard dest lane reading s) : (Instr.blockObserved heard dest lane reading).Does s (execBlockObserved heard dest lane reading s) := by
  refine command_does rfl ?_
  refine Acts.observedFrame (.own rfl) (.own rfl) (fun v hv => ?_) .refl
  cases reading
  · dsimp only
    split
    · exact hv
    · exact Acts.countDelivery (fun k => by simp [DeliveryCounts.list, le_inc]) (hv.views rfl)
  · exact hv

theorem execQueryStatus_does (heard src s) : (Instr.queryStatus heard src).Does s (execQueryStatus heard src s) := by
  refine command_does rfl ?_
  exact Acts.addressedFrame (.own rfl) (.own rfl) (fun _ => Acts.takeQuery) .refl

theorem execServiceEnter_does (heard src s) : (Instr.serviceEnter heard src).Does s (execServiceEnter heard src s) := by
  refine command_does rfl ?_
  exact Acts.addressedFrame (.own rfl) (.own rfl) (fun _ => Acts.takeServiceEnter (.own rfl)) .refl

theorem execServiceExit_does (heard src s) : (Instr.serviceExit heard src).Does s (execServiceExit heard src s) := by
  refine command_does rfl ?_
  exact Acts.addressedFrame (.own rfl) (.own rfl) (fun _ => Acts.takeServiceExit (.own rfl)) .refl

theorem execStore_does (heard src address data s) : (Instr.store heard src address data).Does s (execStore heard src address data s) := by
  refine command_does rfl ?_
  exact Acts.addressedFrame (.own rfl) (.own rfl) (fun _ => Acts.takeStore) .refl

theorem execUnexpectedKind_does (heard kind s) : (Instr.unexpectedKind heard kind).Does s (execUnexpectedKind heard kind s) := by
  refine command_does rfl ?_
  exact Acts.addressedFrame (.own rfl) (.own rfl) (fun _ => Acts.refuseKind) .refl

theorem execMalformed_does (dt form s) : (Instr.malformed dt form).Does s (execMalformed dt form s) := by
  refine command_does rfl ?_
  split
  · exact Acts.boundary (.own rfl) (Acts.line (.own rfl) (Acts.discardFrame (Acts.countBus (fun k => by simp [BusCounts.list, le_inc]) .refl)))
  · exact .refl

theorem execCheckFailure_does (dt form s) : (Instr.checkFailure dt form).Does s (execCheckFailure dt form s) := by
  refine command_does rfl ?_
  split
  · exact Acts.boundary (.own rfl) (Acts.line (.own rfl) (Acts.discardFrame (Acts.wipeViews
      (Acts.countBus (fun k => by simp [BusCounts.list, le_inc]) .refl))))
  · exact .refl

theorem execBrokenFrame_does (dt dominant s) : (Instr.brokenFrame dt dominant).Does s (execBrokenFrame dt dominant s) := by
  refine command_does rfl ?_
  split
  · exact Acts.brokenBoundary (.own rfl) (Acts.line (.own rfl) (Acts.discardFrame (Acts.wipeViews
      (Acts.countBus (fun k => by simp [BusCounts.list, le_inc]) .refl))))
  · exact .refl

theorem execAckSlotEnd_does (ended s) : (Instr.ackSlotEnd ended).Does s (execAckSlotEnd ended s) := by
  refine command_does rfl ?_
  split
  · exact Acts.boundary (.own rfl) (Acts.line (.own rfl) (Acts.receivedAtSlotEnd (.own rfl) (.own rfl) .refl))
  · exact .refl

theorem execContestStart_does (dt s) : (Instr.contestStart dt).Does s (execContestStart dt s) := by
  refine command_does rfl ?_
  split
  · have hu := Acts.discardFrame (Acts.boundary (S := Instr.May (.contestStart dt) s) (.own rfl)
      (Acts.line (state := .busy) (.own rfl) (.refl (a := s.elapse dt))))
    dsimp only
    split
    · exact hu.formWord
    · exact hu
  · exact .refl

theorem execContestWon_does (dt s) : (Instr.contestWon dt).Does s (execContestWon dt s) := by
  refine command_does rfl ?_
  split
  · split
    · exact .refl
    · exact Acts.winContest .refl
  · exact .refl

theorem execContestLost_does (dt s) : (Instr.contestLost dt).Does s (execContestLost dt s) := by
  refine command_does rfl ?_
  split
  · split
    · exact .refl
    · exact Acts.loseContest .refl
  · exact .refl

theorem execEmptyContest_does (dt s) : (Instr.emptyContest dt).Does s (execEmptyContest dt s) := by
  refine command_does rfl ?_
  split
  · exact Acts.line (.own rfl) (Acts.countBus (fun k => by simp [BusCounts.list, le_inc]) .refl)
  · exact .refl

theorem execOwnOfferAck_does (dt s) : (Instr.ownOfferAck dt).Does s (execOwnOfferAck dt s) := by
  refine command_does rfl ?_
  split
  · exact Acts.offerAcked (Acts.endTenure (.own rfl) (.own rfl) .refl)
  · exact .refl

theorem execOwnOfferNack_does (dt s) : (Instr.ownOfferNack dt).Does s (execOwnOfferNack dt s) := by
  refine command_does rfl ?_
  split
  · exact Acts.offerNacked (Acts.countBus (fun k => by simp [BusCounts.list, le_inc])
      (Acts.endTenure (.own rfl) (.own rfl) .refl))
  · exact .refl

theorem execOwnBlockAck_does (dt s) : (Instr.ownBlockAck dt).Does s (execOwnBlockAck dt s) := by
  refine command_does rfl ?_
  split
  · exact Acts.blockAcked (Acts.endTenure (.own rfl) (.own rfl) .refl)
  · exact .refl

theorem execOwnBlockNack_does (dt s) : (Instr.ownBlockNack dt).Does s (execOwnBlockNack dt s) := by
  refine command_does rfl ?_
  split
  · exact Acts.blockNacked (Acts.countBus (fun k => by simp [BusCounts.list, le_inc])
      (Acts.endTenure (.own rfl) (.own rfl) .refl))
  · exact .refl

theorem execEndSent_does (dt reading s) : (Instr.endSent dt reading).Does s (execEndSent dt reading s) := by
  refine command_does rfl ?_
  split
  · exact Acts.endGone (Acts.noticeRefused (Acts.endTenure (.own rfl) (.own rfl) .refl))
  · exact .refl

theorem execStoredSent_does (dt reading s) : (Instr.storedSent dt reading).Does s (execStoredSent dt reading s) := by
  refine command_does rfl ?_
  split
  · exact Acts.noticeRefused (Acts.endTenure (.own rfl) (.own rfl) .refl)
  · exact .refl

theorem execStateSent_does (dt reading s) : (Instr.stateSent dt reading).Does s (execStateSent dt reading s) := by
  refine command_does rfl ?_
  split
  · cases reading
    · exact Acts.endTenure (.own rfl) (.own rfl) .refl
    · exact Acts.countBus (fun k => by simp [BusCounts.list, le_inc]) (Acts.endTenure (.own rfl) (.own rfl) .refl)
  · exact .refl

theorem execGapEnd_does (dt s) : (Instr.gapEnd dt).Does s (execGapEnd dt s) := by
  refine command_does rfl ?_
  split
  · split
    · exact Relation.ReflTransGen.refl.tail (.startBit _ (.own rfl))
    · exact Acts.line (.own rfl) .refl
  · exact .refl

theorem execBusSync_does (dt cause s) : (Instr.busSync dt cause).Does s (execBusSync dt cause s) := by
  refine command_does rfl ?_
  split
  · cases cause
    · exact Acts.boundary (.own rfl) (Acts.line (.own rfl) .refl)
    · exact Acts.line (.own rfl) .refl
  · exact .refl

theorem execBusStuck_does (dt s) : (Instr.busStuck dt).Does s (execBusStuck dt s) := by
  refine command_does rfl ?_
  split
  · split
    · rename_i since hw _
      exact (Acts.countBus (fun k => by simp [BusCounts.list, le_inc]) .refl).tail
        (.watch (fun _ => .episode) _ (.own rfl) fun h => by rw [countBus_bus] at h; rw [hw] at h; cases h)
    · exact .refl
  · exact .refl
  · exact .refl

theorem execOfferExpiry_does (dt ctx s) : (Instr.offerExpiry dt ctx).Does s (execOfferExpiry dt ctx s) := by
  refine command_does rfl ?_
  split
  · split
    · exact Acts.offerExpires .refl
    · exact .refl
  · exact .refl

theorem execClearAsserted_does (dt s) : (Instr.clearAsserted dt).Does s (execClearAsserted dt s) := by
  refine command_does rfl ?_
  split
  · exact Acts.bus (busAct_quiet rfl rfl rfl rfl rfl) .refl
  · exact .refl
  · exact .refl

theorem execClearCounts_does (dt s) : (Instr.clearCounts dt).Does s (execClearCounts dt s) := by
  refine command_does rfl ?_
  split
  · split
    · exact Relation.ReflTransGen.refl.tail (.clear _ (.own rfl))
    · exact .refl
  · exact .refl
  · exact .refl

theorem execClearRelease_does (dt s) : (Instr.clearRelease dt).Does s (execClearRelease dt s) := by
  refine command_does rfl ?_
  split
  · exact Acts.releaseClear .refl
  · exact .refl
  · exact .refl

theorem execShortClear_does (dt s) : (Instr.shortClear dt).Does s (execShortClear dt s) := by
  refine command_does rfl ?_
  split
  · split
    · exact .refl
    · exact Acts.bus (busAct_quiet rfl rfl rfl rfl rfl) (Acts.countBus (fun k => by simp [BusCounts.list, le_inc]) .refl)
  · exact .refl
  · exact .refl

theorem execLineGoesRecessive_does (dt s) : (Instr.lineGoesRecessive dt).Does s (execLineGoesRecessive dt s) := by
  refine command_does rfl ?_
  split
  · exact Acts.line (.own rfl) .refl
  · exact .refl

/-- Every command but POWER_ON is a chain of its acts and then the standing conditions. -/
theorem exec_acts {c : Instr} {s t : State} (h : exec c s = .next t) (hc : ∀ straps, c ≠ .powerOn straps) :
    ∃ u, Acts (c.May s) (s.elapse c.elapsed) u ∧ t = u.finish := by
  cases c with
  | powerOn straps => exact absurd rfl (hc straps)
  | configImageRead dt image => exact execConfigImageRead_does dt image s _ h
  | configReadTimeout dt => exact execConfigReadTimeout_does dt s _ h
  | geometryReadAnswer dt ch pages => exact execGeometryReadAnswer_does dt ch pages s _ h
  | geometryReadTimeout dt ch => exact execGeometryReadTimeout_does dt ch s _ h
  | directoryLoad dt => exact execDirectoryLoad_does dt s _ h
  | directoryPageRead dt ch out => exact execDirectoryPageRead_does dt ch out s _ h
  | fetchPageRead dt ch out => exact execFetchPageRead_does dt ch out s _ h
  | pageTimeout dt ch => exact execPageTimeout_does dt ch s _ h
  | storeTaken dt => exact execStoreTaken_does dt s _ h
  | programBegin dt => exact execProgramBegin_does dt s _ h
  | programOperationComplete dt success => exact execProgramOperationComplete_does dt success s _ h
  | programTimeout dt => exact execProgramTimeout_does dt s _ h
  | markEdge dt => exact execMarkEdge_does dt s _ h
  | watchExpiry dt => exact execWatchExpiry_does dt s _ h
  | run heard src value => exact execRun_does heard src value s _ h
  | timing heard src value => exact execTiming_does heard src value s _ h
  | pause heard src => exact execPause_does heard src s _ h
  | stopAll heard src => exact execStopAll_does heard src s _ h
  | release heard src fields => exact execRelease_does heard src fields s _ h
  | ready heard src openSet => exact execReady_does heard src openSet s _ h
  | cue heard src fields => exact execCue_does heard src fields s _ h
  | offerObserved heard id reading => exact execOfferObserved_does heard id reading s _ h
  | blockObserved heard dest lane reading => exact execBlockObserved_does heard dest lane reading s _ h
  | queryStatus heard src => exact execQueryStatus_does heard src s _ h
  | serviceEnter heard src => exact execServiceEnter_does heard src s _ h
  | serviceExit heard src => exact execServiceExit_does heard src s _ h
  | store heard src address data => exact execStore_does heard src address data s _ h
  | unexpectedKind heard kind => exact execUnexpectedKind_does heard kind s _ h
  | malformed dt form => exact execMalformed_does dt form s _ h
  | checkFailure dt form => exact execCheckFailure_does dt form s _ h
  | brokenFrame dt dominant => exact execBrokenFrame_does dt dominant s _ h
  | ackSlotEnd ended => exact execAckSlotEnd_does ended s _ h
  | contestStart dt => exact execContestStart_does dt s _ h
  | contestWon dt => exact execContestWon_does dt s _ h
  | contestLost dt => exact execContestLost_does dt s _ h
  | emptyContest dt => exact execEmptyContest_does dt s _ h
  | ownOfferAck dt => exact execOwnOfferAck_does dt s _ h
  | ownOfferNack dt => exact execOwnOfferNack_does dt s _ h
  | ownBlockAck dt => exact execOwnBlockAck_does dt s _ h
  | ownBlockNack dt => exact execOwnBlockNack_does dt s _ h
  | endSent dt reading => exact execEndSent_does dt reading s _ h
  | storedSent dt reading => exact execStoredSent_does dt reading s _ h
  | stateSent dt reading => exact execStateSent_does dt reading s _ h
  | gapEnd dt => exact execGapEnd_does dt s _ h
  | busSync dt cause => exact execBusSync_does dt cause s _ h
  | busStuck dt => exact execBusStuck_does dt s _ h
  | offerExpiry dt ctx => exact execOfferExpiry_does dt ctx s _ h
  | clearAsserted dt => exact execClearAsserted_does dt s _ h
  | clearCounts dt => exact execClearCounts_does dt s _ h
  | clearRelease dt => exact execClearRelease_does dt s _ h
  | shortClear dt => exact execShortClear_does dt s _ h
  | lineGoesRecessive dt => exact execLineGoesRecessive_does dt s _ h

end Sys2Proof.Machine


/-! SUPPORT. The laws of every state right after power-on and after every step (R16, R21, R26, R37, R53, R54, R58, R61, R62,
R72, R74, R96, R115, R174). -/

namespace Sys2Proof.Machine

/-! ### Right after power-on -/

section
variable (straps : Station) (q : List Instr)

theorem chan_powerOn (c : ChannelNo) : (State.powerOn straps q).chan c = Channel.powerOn := by
  simp [State.powerOn, State.chan, FetchEngine.powerOn]

theorem powerOn_memoryLaw : (State.powerOn straps q).MemoryLaw := reset_memoryLaw

theorem powerOn_tableLaw : (State.powerOn straps q).TableLaw := by
  simp [State.TableLaw, State.powerOn, StreamEngine.powerOn, Cache.powerOn, Sparse.wf]

theorem powerOn_demandLaw : (State.powerOn straps q).DemandLaw := by
  simp [State.DemandLaw, State.powerOn, StreamEngine.powerOn, CueUnit.powerOn]

theorem powerOn_streamIdLaw : (State.powerOn straps q).StreamIdLaw := by
  simp [State.StreamIdLaw, State.powerOn, StreamEngine.powerOn]

theorem powerOn_windowLaw : (State.powerOn straps q).WindowLaw := by
  simp [State.WindowLaw, State.powerOn, StreamEngine.powerOn]

theorem powerOn_offerLaw : (State.powerOn straps q).OfferLaw := by
  simp [State.OfferLaw, State.powerOn, BusPort.powerOn]

theorem powerOn_rangeLaw : (State.powerOn straps q).RangeLaw := by
  refine ⟨Nat.zero_le _, fun _ => rfl, fun i h => ?_, Nat.zero_le _, fun c => ?_⟩
  · simp [State.powerOn, Clock.powerOn] at h
  · rw [chan_powerOn]
    exact Nat.zero_le 3

theorem powerOn_cacheLaw : (State.powerOn straps q).CacheLaw := by
  refine ⟨List.nodup_nil, fun p hp => absurd hp List.not_mem_nil, fun p hp => absurd hp List.not_mem_nil, Nat.zero_le _,
    List.nodup_nil, fun n hn => absurd hn List.not_mem_nil, fun n => ?_, List.nodup_nil, fun n => ?_,
    fun p hp => absurd hp List.not_mem_nil, fun p hp => absurd hp List.not_mem_nil⟩
  · exact ⟨fun _ => .inr (Nat.zero_le _), fun _ => rfl⟩
  · exact ⟨fun h => absurd h List.not_mem_nil, fun ⟨_, h, _⟩ => by cases h⟩

theorem powerOn_fetchLaw : (State.powerOn straps q).FetchLaw := by
  have hslot : ∀ n, (State.powerOn straps q).slot? n = none := fun _ => rfl
  simp [State.FetchLaw, hslot, chan_powerOn, Channel.powerOn, Channel.partials, Channel.beginning]

end

/-- Settles O4: every law is a fact about the empty tables and queues of the state right after power-on. -/
theorem resetMeetsEveryLaw : Obligations.ResetMeetsEveryLaw :=
  ⟨reset_memoryLaw, powerOn_tableLaw 0 [], powerOn_demandLaw 0 [], powerOn_streamIdLaw 0 [], powerOn_windowLaw 0 [],
    powerOn_offerLaw 0 [], powerOn_rangeLaw 0 [], fun h => absurd rfl h, powerOn_cacheLaw 0 [], powerOn_fetchLaw 0 []⟩

/-! ### What every step keeps -/

/-- Settles O1: it is the definition of a step. -/
theorem stepRunsFrontCommand : Obligations.StepRunsFrontCommand := by
  intro c rest s h
  simp [step, h, State.withPending]

/-- A step lets one microsecond pass, sets the part to its power-on state, or is a chain of the front command's acts and
then the standing conditions. -/
theorem step_cases {s t : State} (h : step s = .next t) :
    t = s.elapse 1 ∨ (∃ straps q, t = State.powerOn straps q)
    ∨ ∃ (c : Instr) (q : List Instr) (u : State),
        Acts (c.May (s.withPending q)) ((s.withPending q).elapse c.elapsed) u ∧ t = u.finish := by
  unfold step at h
  split at h
  · cases h; exact .inl rfl
  · rename_i c rest _
    by_cases hc : ∃ straps, c = .powerOn straps
    · obtain ⟨straps, rfl⟩ := hc
      cases h
      exact .inr (.inl ⟨straps, rest, rfl⟩)
    · obtain ⟨u, hu⟩ := exec_acts h fun straps hs => hc ⟨straps, hs⟩
      exact .inr (.inr ⟨c, rest, u, hu⟩)

/-- A property of the state right after power-on that a command's acts keep, and that depends neither on local time, nor on
the waiting commands, nor on the standing conditions, is kept by every step. -/
theorem step_keeps {P : State → Prop} (hpower : ∀ straps q, P (State.powerOn straps q))
    (helapse : ∀ dt s, P s → P (s.elapse dt)) (hpending : ∀ q s, P s → P (s.withPending q))
    (hacts : ∀ (c : Instr) (s t u : State), P s → P u → Acts (c.May s) u t → P t)
    (hfinish : ∀ s, P s → P s.finish) {s t : State} (hs : P s) (h : step s = .next t) : P t := by
  rcases step_cases h with rfl | ⟨straps, q, rfl⟩ | ⟨c, q, u, hu, rfl⟩
  · exact helapse 1 s hs
  · exact hpower straps q
  · exact hfinish u (hacts c _ _ _ (hpending q s hs) (helapse _ _ (hpending q s hs)) hu)

theorem tableLaw_of_tables {s t : State} (hs : s.TableLaw) (h : t.streams.contexts = s.streams.contexts)
    (hc : t.cache = s.cache) : t.TableLaw := by
  unfold State.TableLaw at *
  rwa [h, hc]

theorem step_tableLaw {s t : State} (hs : s.TableLaw) (h : step s = .next t) : t.TableLaw :=
  step_keeps powerOn_tableLaw (fun _ _ hs => tableLaw_of_tables hs rfl rfl) (fun _ _ hs => tableLaw_of_tables hs rfl rfl)
    (fun _ _ _ _ _ hs h => h.tableLaw hs)
    (fun s hs => tableLaw_of_tables hs (by rw [finish_streams]) (finish_cache s)) hs h

/-- Settles O9: the inner work and every other act keep both forms. -/
theorem memoryAndTablesStayCanonical : Obligations.MemoryAndTablesStayCanonical := by
  refine ⟨fun s t hs h => ?_, fun s t => step_tableLaw⟩
  refine step_keeps powerOn_memoryLaw (fun _ _ hs => hs) (fun _ _ hs => hs) (fun _ _ _ _ _ hs h => h.memoryLaw hs)
    (fun s hs => ?_) hs h
  unfold State.MemoryLaw at *
  rwa [finish_cache]

/-- Settles O10: an admission adds the demand of the context it takes, within the capacity, and a free takes it away. -/
theorem demandSumLaw : Obligations.DemandSumLaw := by
  intro s t ht hs h
  refine (step_keeps (P := fun s => s.TableLaw ∧ s.DemandLaw) (fun straps q => ⟨powerOn_tableLaw _ _, powerOn_demandLaw _ _⟩)
    (fun _ _ h => h) (fun _ _ h => h) (fun _ _ _ _ _ hu h => ⟨h.tableLaw hu.1, h.demandLaw hu.1 hu.2⟩)
    (fun s hs => ⟨tableLaw_of_tables hs.1 (by rw [finish_streams]) (finish_cache s), ?_⟩) ⟨ht, hs⟩ h).2
  obtain ⟨-, h1, h2, h3⟩ := hs
  exact ⟨by rw [finish_cue, finish_streams]; exact h1, by simpa [State.capacity] using h2, by simpa using h3⟩

/-- Settles O11: only an admission brings a stream id, and the context that held it was freed before. -/
theorem streamIdsStayDistinct : Obligations.StreamIdsStayDistinct := by
  intro s t ht hs h
  refine (step_keeps (P := fun s => s.TableLaw ∧ s.StreamIdLaw)
    (fun straps q => ⟨powerOn_tableLaw _ _, powerOn_streamIdLaw _ _⟩) (fun _ _ h => h) (fun _ _ h => h)
    (fun c s t u hs hu h => ⟨h.tableLaw hu.1, h.streamIdLaw (fun hS => ?_) hu.1 hu.2⟩)
    (fun s hs => ⟨tableLaw_of_tables hs.1 (by rw [finish_streams]) (finish_cache s), ?_⟩) ⟨ht, hs⟩ h).2
  · rcases hS with hS | ⟨-, hS⟩
    · cases c <;> simp [Instr.specials] at hS
    · exact hS hs
  · unfold State.StreamIdLaw
    rw [finish_streams]
    exact hs.2

theorem step_windowLaw {s t : State} (ht : s.TableLaw) (hs : s.WindowLaw) (h : step s = .next t) : t.WindowLaw := by
  refine (step_keeps (P := fun s => s.TableLaw ∧ s.WindowLaw) (fun straps q => ⟨powerOn_tableLaw _ _, powerOn_windowLaw _ _⟩)
    (fun _ _ h => h) (fun _ _ h => h) (fun _ _ _ _ _ hu h => ⟨h.tableLaw hu.1, h.windowLaw hu.1 hu.2⟩)
    (fun s hs => ⟨tableLaw_of_tables hs.1 (by rw [finish_streams]) (finish_cache s), ?_⟩) ⟨ht, hs⟩ h).2
  unfold State.WindowLaw
  rw [finish_streams]
  exact hs.2

/-- Settles O12: a window grows by one entry at the generator's position while it is below its depth, and otherwise loses
entries. -/
theorem windowsStayWithinDepth : Obligations.WindowsStayWithinDepth := fun _ _ => step_windowLaw

/-- Settles O13: an admission refers to the context it takes, and a context leaves CONTENDING, or is freed, when its
offer has left the queue. -/
theorem offerQueueHoldsContenders : Obligations.OfferQueueHoldsContenders := by
  intro s t hw hs h
  refine (step_keeps (P := fun s => s.ReadWindowLaw ∧ s.OfferLaw)
    (fun straps q => ⟨readWindowLaw_of_windowLaw (powerOn_windowLaw _ _), powerOn_offerLaw _ _⟩) (fun _ _ h => h)
    (fun _ _ h => h) (fun _ _ _ _ _ hu h => ⟨h.readWindowLaw hu.1, h.offerLaw hu.1 hu.2⟩) (fun s hs => ?_)
    ⟨readWindowLaw_of_windowLaw hw, hs⟩ h).2
  have hctx : ∀ i, s.finish.ctx? i = s.ctx? i := fun i => by unfold State.ctx?; rw [finish_streams]
  simpa [State.ReadWindowLaw, State.OfferLaw, hctx] using hs

/-- Settles O14: marks, captures, requests and timeouts keep their registers in range, and nothing else moves them. -/
theorem registersStayInRange : Obligations.RegistersStayInRange := by
  intro s t hs h
  refine step_keeps powerOn_rangeLaw (fun _ _ h => h) (fun _ _ h => h) (fun _ _ _ _ _ hs h => h.rangeLaw hs)
    (fun s hs => ?_) hs h
  simpa [State.RangeLaw, State.chan] using hs

/-! ### Counts -/

theorem finish_counts (s : State) : CountsRise s.counts s.finish.counts := by
  have h : ∀ s : State, CountsRise s.counts s.startInFree.runWatch.counts := fun s => by
    refine counts_rise ?_ ?_ ?_ ?_ ?_ ?_ ?_ ?_ ?_ ?_ <;> simp [State.runWatch, State.chan]
    rcases startInFree_cases s with h | ⟨-, -, -, h⟩ <;> simp [h]
  exact countsRise_trans (h s) (updateFault_rises _)

/-- Settles O7: every act of every command leaves each count at least where it was. -/
theorem countsNeverFall : Obligations.CountsNeverFall := by
  intro c s t h hc
  obtain ⟨u, hu, rfl⟩ := exec_acts h hc
  exact countsRise_trans hu.counts (finish_counts u)

end Sys2Proof.Machine


/-! SUPPORT. What the commands leave unchanged, and what moves the Studio Frame Count (R19, R23, R24, R168, R169, R174). -/

namespace Sys2Proof.Machine

/-- Settles O2: each block's power-on record is written out in its definition. -/
theorem powerOnSetsEveryBlock : Obligations.PowerOnSetsEveryBlock := by
  intro straps s
  refine ⟨_, exec_powerOn straps s, ?_⟩
  simp only [State.counts, chan_powerOn]
  simp [State.powerOn, BusPort.powerOn, Clock.powerOn, Directory.powerOn, CueUnit.powerOn, StreamEngine.powerOn,
    FetchEngine.powerOn, Delivery.powerOn, Channel.powerOn, Cache.powerOn, ChannelCounts.list, DirectoryCounts.list, ClockCounts.list,
    ClampCounts.list, CueCounts.list, StreamCounts.list, CacheCounts.list, DeliveryCounts.list, BusCounts.list]
  exact fun k hk => hk.elim And.right id

/-! ### What no command but POWER_ON changes -/

/-- What every act leaves unchanged, a good image being for good once CONFIG-LOAD is over. -/
structure Kept (s t : State) : Prop where
  pending : t.pending = s.pending
  station : t.status.station = s.status.station
  localTime : t.clock.localTime = s.clock.localTime
  config : s.status.phase ≠ .configLoad → t.status.phase ≠ .configLoad ∧ t.status.config = s.status.config

theorem Kept.refl (s : State) : Kept s s := ⟨rfl, rfl, rfl, fun h => ⟨h, rfl⟩⟩

theorem Kept.trans {s t u : State} (h : Kept s t) (h' : Kept t u) : Kept s u where
  pending := h'.pending.trans h.pending
  station := h'.station.trans h.station
  localTime := h'.localTime.trans h.localTime
  config hp :=
    have ⟨hp', hc⟩ := h.config hp
    ⟨(h'.config hp').1, (h'.config hp').2.trans hc⟩

theorem Kept.of_eq {s t : State} (hq : t.pending = s.pending) (hs : t.status = s.status)
    (hc : t.clock.localTime = s.clock.localTime) : Kept s t :=
  ⟨hq, by rw [hs], hc, fun h => by rw [hs]; exact ⟨h, rfl⟩⟩

theorem clearCounts_ne_configLoad {p : Phase} (h : p ≠ .configLoad) : p.clearCounts ≠ .configLoad := by
  cases p <;> simp [Phase.clearCounts] at h ⊢

theorem Act.kept {S : Special → Prop} {s t : State} (h : Act S s t) : Kept s t := by
  cases h with
  | inner h =>
    obtain ⟨hst, hk, -, -, -, hq, -⟩ := h.frame
    exact .of_eq hq hst (by rw [hk])
  | clock f _ _ _ ht _ _ => exact .of_eq rfl rfl ht
  | mark f _ _ _ _ ht => exact .of_eq rfl rfl ht
  | loadDone x y _ _ => exact ⟨rfl, rfl, rfl, fun _ => ⟨by simp [State.completeLoad], rfl⟩⟩
  | probed =>
    rcases probeFinished_cases s with h | ⟨p, h⟩ <;> rw [h]
    · exact .refl s
    · refine ⟨rfl, rfl, rfl, fun hp => ⟨?_, rfl⟩⟩
      dsimp only [onStatus_status]
      split
      · simp
      · exact hp
  | image x _ _ hp => exact ⟨rfl, rfl, rfl, fun h => absurd hp h⟩
  | unconfigured _ _ hp => exact ⟨rfl, rfl, rfl, fun h => absurd hp h⟩
  | service src _ _ _ => exact ⟨rfl, rfl, rfl, fun _ => ⟨by simp [State.enterService], rfl⟩⟩
  | left _ _ _ => exact ⟨rfl, rfl, rfl, fun _ => ⟨by simp, rfl⟩⟩
  | clear =>
    rcases clearAll_cases s with ⟨-, h⟩ | ⟨-, h⟩ <;> rw [h]
    · exact .of_eq rfl rfl rfl
    · exact ⟨rfl, rfl, rfl, fun hp => ⟨clearCounts_ne_configLoad hp, rfl⟩⟩
  | fault => exact ⟨rfl, rfl, rfl, fun h => ⟨h, rfl⟩⟩
  | _ => exact .of_eq rfl rfl rfl

theorem Acts.kept {S : Special → Prop} {s t : State} (h : Acts S s t) : Kept s t :=
  h.lift Kept.refl (fun h h' => h.trans h') Act.kept

/-! ### What moves the Studio Frame Count -/

/-- The count and UNSET stand where neither a mark nor a counted CLEAR comes. -/
theorem Act.count {S : Special → Prop} (hm : ¬ S .mark) (hc : ¬ S .clear) {s t : State} (h : Act S s t) :
    t.clock.sfc = s.clock.sfc ∧ (s.clock.state = .unset → t.clock.state = .unset) := by
  cases h with
  | inner h => obtain ⟨-, hk, -⟩ := h.frame; rw [hk]; exact ⟨rfl, id⟩
  | clock f _ _ _ _ hf hu => exact ⟨hf, hu⟩
  | mark _ _ hS => exact absurd hS hm
  | clear _ hS => exact absurd hS hc
  | probed => rcases probeFinished_cases s with h | ⟨p, h⟩ <;> rw [h] <;> exact ⟨rfl, id⟩
  | _ => exact ⟨rfl, id⟩

theorem Acts.count {S : Special → Prop} (hm : ¬ S .mark) (hc : ¬ S .clear) {s t : State} (h : Acts S s t) :
    t.clock.sfc = s.clock.sfc ∧ (s.clock.state = .unset → t.clock.state = .unset) :=
  h.lift (P := fun s t => t.clock.sfc = s.clock.sfc ∧ (s.clock.state = .unset → t.clock.state = .unset))
    (fun _ => ⟨rfl, id⟩) (fun h h' => ⟨h'.1.trans h.1, h'.2 ∘ h.2⟩) (Act.count hm hc)

/-- A changed count is the new value; the stream engine leaves the clock alone. -/
theorem handCount_clock (value : Time) (s : State) : (s.handCount value).clock = { s.clock with sfc := value } :=
  (Moves.staleTestAll .refl).frame.2.1

/-- The clocks a mark may leave: the clock as it was, or one in RUNNING or FLYWHEEL with the count moved on. -/
def Clock.Marked (c d : Clock) : Prop :=
  (d.sfc = c.sfc ∧ (c.state = .unset → d.state = .unset))
  ∨ ((d.state = .running ∨ d.state = .flywheel) ∧ (d.sfc = c.sfc + 64 ∨ ∃ l, c.load = some l ∧ d.sfc = l.value))

theorem moveCount_marked {s : State} (h : s.clock.state = .running ∨ s.clock.state = .flywheel) :
    (s.moveCount.clock.state = .running ∨ s.moveCount.clock.state = .flywheel)
    ∧ (s.moveCount.clock.sfc = s.clock.sfc + 64 ∨ ∃ l, s.clock.load = some l ∧ s.moveCount.clock.sfc = l.value) := by
  unfold State.moveCount
  split <;> rename_i hl
  · exact ⟨by simpa [handCount_clock] using h, .inr ⟨_, hl, by simp [handCount_clock]⟩⟩
  · exact ⟨by simpa [handCount_clock] using h, .inl (by simp [handCount_clock])⟩

theorem realMark_marked (s : State) : s.clock.Marked s.realMark.clock := by
  unfold State.realMark
  split
  · split
    · rename_i hl; exact .inr ⟨.inl (by simp [handCount_clock]), .inr ⟨_, hl, by simp [handCount_clock]⟩⟩
    · exact .inl ⟨rfl, id⟩
  · rename_i h; exact .inr (moveCount_marked (.inl h))
  · split
    · rename_i hl
      split
      · exact .inr ⟨.inl (by simp [handCount_clock]), .inr ⟨_, hl, by simp [handCount_clock]⟩⟩
      · exact .inl ⟨rfl, id⟩
    · exact .inl ⟨rfl, id⟩
  · exact .inr (moveCount_marked (s := s.onClock _) (.inl rfl))
  · exact .inr (moveCount_marked (s := s.onClock _) (.inl rfl))

theorem syntheticMark_marked (s : State) : s.clock.Marked s.syntheticMark.clock :=
  .inr (moveCount_marked (s := State.onClock _ _) (.inr rfl))

theorem watchExpires_marked (s : State) : s.clock.Marked s.watchExpires.clock
    ∧ (s.clock.state = .unset → s.watchExpires.clock.state = .unset) := by
  unfold State.watchExpires
  dsimp only
  split <;> rename_i hst
  · exact ⟨syntheticMark_marked (s.onClock _), fun h => by rw [h] at hst; cases hst⟩
  · split
    · exact ⟨syntheticMark_marked (s.onClock _), fun h => by rw [h] at hst; cases hst⟩
    · exact ⟨.inl ⟨rfl, fun h => by rw [h] at hst; cases hst⟩, fun h => by rw [h] at hst; cases hst⟩
  · exact ⟨.inl ⟨rfl, id⟩, id⟩
  · exact ⟨.inl ⟨rfl, id⟩, id⟩
  · exact ⟨.inl ⟨rfl, id⟩, id⟩

/-- A counted CLEAR sets the count to 0, in UNCONFIGURED apart, and never leaves UNSET. -/
theorem clearAll_count (s : State) : (s.clearAll.clock.sfc = s.clock.sfc ∨ s.clearAll.clock.sfc = 0)
    ∧ (s.clock.state = .unset → s.clearAll.clock.state = .unset) := by
  rcases clearAll_cases s with ⟨-, h⟩ | ⟨-, h⟩ <;> rw [h]
  · exact ⟨.inl rfl, id⟩
  · exact ⟨.inr rfl, fun _ => rfl⟩

theorem markEdge_marked {dt : Micros} {s t : State} (h : exec (.markEdge dt) s = .next t) : s.clock.Marked t.clock := by
  cases h
  dsimp only
  rw [finish_clock]
  split
  · split
    · exact .inl ⟨rfl, id⟩
    · exact realMark_marked _
  · exact .inl ⟨rfl, id⟩

theorem watchExpiry_marked {dt : Micros} {s t : State} (h : exec (.watchExpiry dt) s = .next t) :
    s.clock.Marked t.clock ∧ (s.clock.state = .unset → t.clock.state = .unset) := by
  cases h
  dsimp only
  rw [finish_clock]
  split
  · split
    · exact watchExpires_marked _
    · exact ⟨.inl ⟨rfl, id⟩, id⟩
  · exact ⟨.inl ⟨rfl, id⟩, id⟩

theorem clearCounts_count {dt : Micros} {s t : State} (h : exec (.clearCounts dt) s = .next t) :
    (t.clock.sfc = s.clock.sfc ∨ t.clock.sfc = 0) ∧ (s.clock.state = .unset → t.clock.state = .unset) := by
  cases h
  dsimp only
  rw [finish_clock]
  split
  · split
    · exact clearAll_count _
    · exact ⟨.inl rfl, id⟩
  · exact ⟨.inl rfl, id⟩
  · exact ⟨.inl rfl, id⟩

/-- The commands that may move the count. -/
theorem Instr.may_mark {c : Instr} {s : State} (h : c.May s .mark) :
    (∃ dt, c = .markEdge dt) ∨ ∃ dt, c = .watchExpiry dt := by
  rcases h with h | ⟨h, -⟩
  · cases c <;> simp at h ⊢
  · cases h

theorem Instr.may_clear {c : Instr} {s : State} (h : c.May s .clear) : ∃ dt, c = .clearCounts dt := by
  rcases h with h | ⟨h, -⟩
  · cases c <;> simp at h ⊢
  · cases h

/-- Settles O6: the acts keep all of it, and the marks and the counted CLEAR are taken one by one. -/
theorem whatCommandsMayMove : Obligations.WhatCommandsMayMove := by
  refine ⟨fun c s t h hc => ?_, fun c s t h => ?_⟩
  · obtain ⟨u, hu, rfl⟩ := exec_acts h hc
    obtain ⟨hq, hst, ht, hcfg⟩ := hu.kept
    refine ⟨by simpa using hq, by simpa using hst, fun hp => ?_, by simpa using ht⟩
    simpa using (hcfg hp).2
  · by_cases hm : (∃ dt, c = .markEdge dt) ∨ ∃ dt, c = .watchExpiry dt
    · have hmarked : s.clock.Marked t.clock := by
        rcases hm with ⟨dt, rfl⟩ | ⟨dt, rfl⟩
        · exact markEdge_marked h
        · exact (watchExpiry_marked h).1
      refine ⟨hmarked.imp And.left fun h => .inl ⟨hm, h⟩, fun hu hne => ?_⟩
      rcases hm with hm | ⟨dt, rfl⟩
      · exact hm
      · exact absurd ((watchExpiry_marked h).2 hu) hne
    by_cases hp : ∃ straps, c = .powerOn straps
    · obtain ⟨straps, rfl⟩ := hp
      cases h
      exact ⟨.inr (.inr ⟨.inl ⟨_, rfl⟩, rfl⟩), fun _ h => absurd rfl h⟩
    by_cases hcl : ∃ dt, c = .clearCounts dt
    · obtain ⟨dt, rfl⟩ := hcl
      have hcount := clearCounts_count h
      exact ⟨hcount.1.imp id fun h => .inr ⟨.inr ⟨_, rfl⟩, h⟩, fun hu hne => absurd (hcount.2 hu) hne⟩
    · obtain ⟨u, hu, rfl⟩ := exec_acts h fun straps hs => hp ⟨straps, hs⟩
      have hcount := hu.count (fun hS => hm (Instr.may_mark hS)) fun hS => hcl (Instr.may_clear hS)
      rw [finish_clock]
      exact ⟨.inl hcount.1, fun hs hne => absurd (hcount.2 hs) hne⟩

end Sys2Proof.Machine


/-! SUPPORT. How the phase moves, and where a directory load stands (R4, R10, R14, R15, R128, R169, R170). -/

namespace Sys2Proof.Machine

/-- The moves of the phase outside the configuration, SERVICE and CLEAR: to SERVING at the end of a load, and, where probes
end, from PROBE to DIRECTORY-LOAD, without a load then. -/
def PhaseMove (S : Special → Prop) (s t : State) : Prop :=
  s.LoadLaw → t.LoadLaw ∧ (s.dir.load = none → S .begun ∨ t.dir.load = none)
    ∧ (t.status.phase = s.status.phase
      ∨ (s.status.phase = .directoryLoad ∧ t.status.phase = .serving ∧ (S .begun ∨ s.dir.load ≠ none))
      ∨ (S .probed ∧ s.status.phase = .probe ∧ t.status.phase = .directoryLoad))

/-- The phase and the load stand where they stood. -/
def PhaseSame (s t : State) : Prop := t.status.phase = s.status.phase ∧ t.dir.load = s.dir.load

theorem PhaseSame.loadLaw {s t : State} (h : PhaseSame s t) (hs : s.LoadLaw) : t.LoadLaw := by
  unfold State.LoadLaw
  rwa [h.1, h.2]

theorem PhaseSame.move {S : Special → Prop} {s t : State} (h : PhaseSame s t) : PhaseMove S s t :=
  fun hs => ⟨h.loadLaw hs, fun hl => .inr (h.2.trans hl), .inl h.1⟩

theorem PhaseMove.trans {S : Special → Prop} (hS : ¬ (S .probed ∧ S .begun)) {s t u : State} (h : PhaseMove S s t)
    (h' : PhaseMove S t u) : PhaseMove S s u := by
  intro hs
  obtain ⟨ht, hl, hp⟩ := h hs
  obtain ⟨hu, hl', hp'⟩ := h' ht
  have load : s.dir.load = none → S .begun ∨ u.dir.load = none := fun hn => (hl hn).elim .inl hl'
  refine ⟨hu, load, ?_⟩
  rcases hp with hp | ⟨hp1, hp2, hp3⟩ | ⟨hS', hp1, hp2⟩ <;> rcases hp' with hq | ⟨hq1, hq2, hq3⟩ | ⟨hS'', hq1, hq2⟩
  · exact .inl (hq.trans hp)
  · refine .inr (.inl ⟨hp ▸ hq1, hq2, ?_⟩)
    by_cases hn : s.dir.load = none
    · rcases hl hn with hb | hn'
      · exact .inl hb
      · exact .inl (hq3.resolve_right fun h => h hn')
    · exact .inr hn
  · exact .inr (.inr ⟨hS'', hp ▸ hq1, hq2⟩)
  · exact .inr (.inl ⟨hp1, hq.trans hp2, hp3⟩)
  · rw [hp2] at hq1; cases hq1
  · rw [hp2] at hq1; cases hq1
  · exact .inr (.inr ⟨hS', hp1, hq.trans hp2⟩)
  · have hn : s.dir.load = none := by
      by_contra hn
      rw [hs hn] at hp1; cases hp1
    rcases hl hn with hb | hn'
    · exact absurd ⟨hS', hb⟩ hS
    · exact absurd ⟨hS', hq3.resolve_right fun h => h hn'⟩ hS
  · rw [hp2] at hq1; cases hq1

/-- The special acts that move the phase in other ways. -/
def Special.MovesPhase (x : Special) : Prop := x = .image ∨ x = .unconfigured ∨ x = .service ∨ x = .left ∨ x = .clear

theorem Act.phase {S : Special → Prop} (hS : ∀ x, S x → ¬ x.MovesPhase) {s t : State} (h : Act S s t) : PhaseMove S s t := by
  cases h with
  | inner h => obtain ⟨h1, -, h3, -⟩ := h.frame; exact PhaseSame.move ⟨by rw [h1], by rw [h3]⟩
  | dir f _ hl _ _ => exact PhaseSame.move ⟨rfl, hl⟩
  | loadNext l _ h => exact fun hs => ⟨fun _ => hs h, fun hn => absurd hn h, .inl rfl⟩
  | loadDone x y _ h =>
    exact fun hs => ⟨fun hl => absurd rfl hl, fun _ => .inr rfl, .inr (.inl ⟨hs h, rfl, .inr h⟩)⟩
  | begun _ hb hp => exact fun _ => ⟨fun _ => hp, fun _ => .inl hb, .inl rfl⟩
  | probed _ hb =>
    rcases probeFinished_cases s with h | ⟨p, h⟩ <;> rw [h]
    · exact PhaseSame.move ⟨rfl, rfl⟩
    · by_cases hp : s.status.phase = .probe
      · refine fun hs => ⟨fun _ => by simp [hp], fun hn => .inr hn, .inr (.inr ⟨hb, hp, by simp [hp]⟩)⟩
      · exact PhaseSame.move ⟨by simp [hp], rfl⟩
  | image _ _ h => exact absurd (.inl rfl) (hS _ h)
  | unconfigured _ h => exact absurd (.inr (.inl rfl)) (hS _ h)
  | service _ _ h => exact absurd (.inr (.inr (.inl rfl))) (hS _ h)
  | left _ h => exact absurd (.inr (.inr (.inr (.inl rfl)))) (hS _ h)
  | clear _ h => exact absurd (.inr (.inr (.inr (.inr rfl)))) (hS _ h)
  | _ => exact PhaseSame.move ⟨rfl, rfl⟩

theorem Acts.phase {S : Special → Prop} (hS : ∀ x, S x → ¬ x.MovesPhase) (hb : ¬ (S .probed ∧ S .begun)) {s t : State}
    (h : Acts S s t) : PhaseMove S s t :=
  h.lift (fun _ => PhaseSame.move ⟨rfl, rfl⟩) (fun h h' => h.trans hb h') (Act.phase hS)

/-! ### Addressed frames -/

/-- An addressed frame leaves the phase and the load alone but for what its owner does with it. -/
theorem addressedFrame_phase (frame : List Byte) (owner : State → State × Bool) (s : State) :
    PhaseSame s (s.addressedFrame frame owner)
    ∨ ∃ u, PhaseSame s u ∧ PhaseSame (owner u).1 (s.addressedFrame frame owner) := by
  unfold State.addressedFrame
  split
  · dsimp only
    split
    · unfold State.judge
      split
      · exact .inl ⟨rfl, rfl⟩
      · split
        · exact .inl ⟨rfl, rfl⟩
        · exact .inr ⟨(s.received frame).boundary, ⟨rfl, rfl⟩, rfl, rfl⟩
    · exact .inl ⟨rfl, rfl⟩
  · exact .inl ⟨rfl, rfl⟩

theorem takeServiceEnter_phase (src : Station) (s : State) : PhaseSame s (s.takeServiceEnter src).1
    ∨ (s.status.phase = .serving ∧ (s.takeServiceEnter src).1.status.phase = .service
      ∧ (s.takeServiceEnter src).1.dir.load = s.dir.load) := by
  unfold State.takeServiceEnter
  split
  · rename_i h; exact .inr ⟨h.1, rfl, rfl⟩
  · split
    · exact .inl ⟨rfl, rfl⟩
    · exact .inl ⟨rfl, rfl⟩

theorem takeServiceExit_phase (src : Station) (s : State) : PhaseSame s (s.takeServiceExit src).1
    ∨ (s.status.phase = .service ∧ (s.takeServiceExit src).1.status.phase = .directoryLoad
      ∧ (s.takeServiceExit src).1.dir.load = s.dir.load) := by
  unfold State.takeServiceExit
  split
  · rename_i h; exact .inr ⟨h.1, rfl, rfl⟩
  · exact .inl ⟨rfl, rfl⟩

theorem takeStore_phase (src : Station) (a : BitVec 32) (d : List Byte) (s : State) :
    PhaseSame s (s.takeStore src a d).1 := by
  unfold State.takeStore
  split
  · exact ⟨rfl, rfl⟩
  · split
    · exact ⟨rfl, rfl⟩
    · exact ⟨rfl, rfl⟩

theorem takeQuery_phase (src : Station) (s : State) : PhaseSame s (s.takeQuery src).1 := ⟨rfl, rfl⟩

/-- What a frame addressed here does to the phase where it comes as the frame of ACK_SLOT_END: what its bytes amount to. -/
theorem takeAddressed_phase (bytes : List Byte) (s : State) : PhaseSame s (s.takeAddressed bytes).1
    ∨ ∃ f, judgeFrame bytes .addressed = .wellFormed f ∧ (s.takeAddressed bytes).1.dir.load = s.dir.load
      ∧ ((f.body = .serviceEnter ∧ s.status.phase = .serving ∧ (s.takeAddressed bytes).1.status.phase = .service)
        ∨ (f.body = .serviceExit ∧ s.status.phase = .service
          ∧ (s.takeAddressed bytes).1.status.phase = .directoryLoad)) := by
  unfold State.takeAddressed
  split
  · rename_i f hf
    split
    case h_1 => exact .inl (takeQuery_phase _ _)
    case h_2 hb =>
      exact (takeServiceEnter_phase f.source s).imp id fun ⟨h1, h2, h3⟩ => ⟨f, hf, h3, .inl ⟨hb, h1, h2⟩⟩
    case h_3 hb =>
      exact (takeServiceExit_phase f.source s).imp id fun ⟨h1, h2, h3⟩ => ⟨f, hf, h3, .inr ⟨hb, h1, h2⟩⟩
    case h_4 => exact .inl (takeStore_phase _ _ _ _)
    all_goals exact .inl ⟨rfl, rfl⟩
  · exact .inl ⟨rfl, rfl⟩

/-- What ACK_SLOT_END does to the phase. -/
theorem receivedAtSlotEnd_phase (frame : Option (List Byte)) (s : State) : PhaseSame s (s.receivedAtSlotEnd frame)
    ∨ ∃ bytes u, frame = some bytes ∧ s.isAddressed bytes ∧ PhaseSame s u
      ∧ (s.receivedAtSlotEnd frame) = (u.takeAddressed bytes).1 := by
  unfold State.receivedAtSlotEnd
  split
  · rename_i bytes _
    dsimp only
    split
    · rename_i ha
      unfold State.judge
      split
      · exact .inl ⟨rfl, rfl⟩
      · split
        · exact .inl ⟨rfl, rfl⟩
        · exact .inr ⟨bytes, s.received bytes, rfl, (isAddressee_iff (s := s)).mp ha, ⟨rfl, rfl⟩, rfl⟩
    · exact .inl ⟨rfl, rfl⟩
  · exact .inl ⟨rfl, rfl⟩

/-! ### A counted CLEAR -/

theorem clearAll_phase (s : State) (hs : s.LoadLaw) : s.clearAll.LoadLaw
    ∧ (s.clearAll.status.phase = s.status.phase
      ∨ (s.status.phase = .service ∧ s.clearAll.status.phase = .directoryLoad)) := by
  rcases clearAll_cases s with ⟨-, h⟩ | ⟨-, h⟩ <;> rw [h]
  · exact ⟨hs, .inl rfl⟩
  · have hl := hs
    unfold State.LoadLaw at hl ⊢
    dsimp only [onStatus_status]
    cases hp : s.status.phase <;> simp [hp, Phase.clearCounts, Directory.clearCounts, Directory.clearInServing] at hl ⊢
    all_goals exact hl

/-! ### The commands -/

/-- A move of the phase that the table of 11.2 gives, for a command and the state it comes in. -/
def TableMove (c : Instr) (s t : State) : Prop :=
  let slotOf := fun (body : FrameBody) => ∃ dt bytes f, c = .ackSlotEnd ⟨dt, some bytes⟩ ∧ s.isAddressed bytes
    ∧ judgeFrame bytes .addressed = .wellFormed f ∧ f.body = body
  t.status.phase = s.status.phase
    ∨ ((∃ straps, c = .powerOn straps) ∧ t.status.phase = .configLoad)
    ∨ (s.status.phase = .configLoad ∧ t.status.phase = .probe
        ∧ ∃ dt image, c = .configImageRead dt image ∧ imageGood image = true)
    ∨ (s.status.phase = .configLoad ∧ t.status.phase = .unconfigured
        ∧ ((∃ dt image, c = .configImageRead dt image) ∨ ∃ dt, c = .configReadTimeout dt))
    ∨ (s.status.phase = .probe ∧ t.status.phase = .directoryLoad
        ∧ ((∃ dt ch pages, c = .geometryReadAnswer dt ch pages) ∨ ∃ dt ch, c = .geometryReadTimeout dt ch))
    ∨ (s.status.phase = .directoryLoad ∧ t.status.phase = .serving)
    ∨ (s.status.phase = .serving ∧ t.status.phase = .service
        ∧ ((∃ heard src, c = .serviceEnter heard src) ∨ slotOf .serviceEnter))
    ∨ (s.status.phase = .service ∧ t.status.phase = .directoryLoad
        ∧ ((∃ heard src, c = .serviceExit heard src) ∨ slotOf .serviceExit ∨ ∃ dt, c = .clearCounts dt))

theorem PhaseSame.tableMove {c : Instr} {s t : State} (h : PhaseSame s t) (hs : s.LoadLaw) : t.LoadLaw ∧ TableMove c s t :=
  ⟨h.loadLaw hs, .inl h.1⟩

/-- A load is never in progress outside DIRECTORY-LOAD, so a move from another phase keeps the law. -/
theorem loadLaw_of_load {s t : State} (hs : s.LoadLaw) (hp : s.status.phase ≠ .directoryLoad)
    (h : t.dir.load = s.dir.load) : t.LoadLaw := fun hl => absurd (hs (h ▸ hl)) hp

theorem finish_phaseSame (s : State) : PhaseSame s s.finish := ⟨finish_phase s, by rw [finish_dir]⟩

theorem PhaseSame.trans {s t u : State} (h : PhaseSame s t) (h' : PhaseSame t u) : PhaseSame s u :=
  ⟨h'.1.trans h.1, h'.2.trans h.2⟩

theorem takeImage_eq (image : List Byte) (s : State) : s.takeImage image = (s.imageTaken image).probeAll := rfl

/-- A good image leads to PROBE: the probes it begins leave the phase alone. -/
theorem takeImage_phase (image : List Byte) (s : State) (hl : s.dir.load = none) :
    (s.takeImage image).LoadLaw ∧ (s.takeImage image).status.phase = .probe := by
  rw [takeImage_eq]
  obtain ⟨hlaw, -, hp⟩ := Acts.phase (S := fun _ => False) (fun _ h => h.elim) (fun h => h.1)
    (Acts.probeAll (.refl (a := s.imageTaken image))) (fun h => absurd hl h)
  refine ⟨hlaw, ?_⟩
  rcases hp with h | ⟨h, -⟩ | ⟨h, -⟩
  · exact h
  · cases h
  · exact h.elim

theorem configImageRead_phase {dt : Micros} {image : List Byte} {s t : State} (hs : s.LoadLaw)
    (h : exec (.configImageRead dt image) s = .next t) : t.LoadLaw ∧ TableMove (.configImageRead dt image) s t := by
  cases h
  dsimp only
  split
  · rename_i hp
    have hp : s.status.phase = .configLoad := hp
    have hl : s.dir.load = none := by
      by_contra hl
      rw [hs hl] at hp; cases hp
    split
    · rename_i hg
      obtain ⟨hlaw, hphase⟩ := takeImage_phase image (s.elapse dt) hl
      refine ⟨(finish_phaseSame _).loadLaw hlaw, .inr (.inr (.inl ⟨hp, by rw [finish_phase, hphase], dt, image, rfl, ?_⟩))⟩
      exact (Bool.and_eq_true_iff.mp hg).1
    · refine ⟨(finish_phaseSame _).loadLaw (loadLaw_of_load hs (by simp [hp]) rfl), ?_⟩
      exact .inr (.inr (.inr (.inl ⟨hp, by rw [finish_phase]; rfl, .inl ⟨dt, image, rfl⟩⟩)))
  · exact PhaseSame.tableMove (PhaseSame.trans ⟨rfl, rfl⟩ (finish_phaseSame _)) hs

theorem configReadTimeout_phase {dt : Micros} {s t : State} (hs : s.LoadLaw)
    (h : exec (.configReadTimeout dt) s = .next t) : t.LoadLaw ∧ TableMove (.configReadTimeout dt) s t := by
  cases h
  dsimp only
  split
  · rename_i hp
    have hp : s.status.phase = .configLoad := hp.1
    refine ⟨(finish_phaseSame _).loadLaw (loadLaw_of_load hs (by simp [hp]) rfl), ?_⟩
    exact .inr (.inr (.inr (.inl ⟨hp, by rw [finish_phase]; rfl, .inr ⟨dt, rfl⟩⟩)))
  · exact PhaseSame.tableMove (PhaseSame.trans ⟨rfl, rfl⟩ (finish_phaseSame _)) hs

theorem serviceEnter_phase {heard : Heard} {src : Station} {s t : State} (hs : s.LoadLaw)
    (h : exec (.serviceEnter heard src) s = .next t) : t.LoadLaw ∧ TableMove (.serviceEnter heard src) s t := by
  cases h
  rcases addressedFrame_phase heard.frame (State.takeServiceEnter src) (s.elapse heard.dt) with h | ⟨u, hu, h⟩
  · exact (PhaseSame.trans h (finish_phaseSame _)).tableMove hs
  · have hfin := PhaseSame.trans h (finish_phaseSame _)
    rcases takeServiceEnter_phase src u with h' | ⟨h1, h2, h3⟩
    · exact (PhaseSame.trans hu (PhaseSame.trans h' hfin)).tableMove hs
    · have hp : s.status.phase = .serving := hu.1.symm.trans h1
      exact ⟨loadLaw_of_load hs (by simp [hp]) (hfin.2.trans (h3.trans hu.2)),
        .inr (.inr (.inr (.inr (.inr (.inr (.inl ⟨hp, hfin.1.trans h2, .inl ⟨_, _, rfl⟩⟩))))))⟩

theorem serviceExit_phase {heard : Heard} {src : Station} {s t : State} (hs : s.LoadLaw)
    (h : exec (.serviceExit heard src) s = .next t) : t.LoadLaw ∧ TableMove (.serviceExit heard src) s t := by
  cases h
  rcases addressedFrame_phase heard.frame (State.takeServiceExit src) (s.elapse heard.dt) with h | ⟨u, hu, h⟩
  · exact (PhaseSame.trans h (finish_phaseSame _)).tableMove hs
  · have hfin := PhaseSame.trans h (finish_phaseSame _)
    rcases takeServiceExit_phase src u with h' | ⟨h1, h2, h3⟩
    · exact (PhaseSame.trans hu (PhaseSame.trans h' hfin)).tableMove hs
    · have hp : s.status.phase = .service := hu.1.symm.trans h1
      exact ⟨fun _ => hfin.1.trans h2,
        .inr (.inr (.inr (.inr (.inr (.inr (.inr ⟨hp, hfin.1.trans h2, .inl ⟨_, _, rfl⟩⟩))))))⟩

theorem ackSlotEnd_phase {ended : SlotEnd} {s t : State} (hs : s.LoadLaw)
    (h : exec (.ackSlotEnd ended) s = .next t) : t.LoadLaw ∧ TableMove (.ackSlotEnd ended) s t := by
  cases h
  dsimp only
  split
  · have hfin : PhaseSame ((s.elapse ended.dt).receivedAtSlotEnd ended.frame) _ := PhaseSame.trans
      (t := ((((s.elapse ended.dt).receivedAtSlotEnd ended.frame).enterBus .gap).boundary)) ⟨rfl, rfl⟩ (finish_phaseSame _)
    rcases receivedAtSlotEnd_phase ended.frame (s.elapse ended.dt) with h | ⟨bytes, u, hb, ha, hu, hr⟩
    · exact (PhaseSame.trans h hfin).tableMove hs
    · rw [hr] at hfin ⊢
      obtain ⟨dt, frame⟩ := ended
      subst hb
      rcases takeAddressed_phase bytes u with h' | ⟨f, hf, h3, ⟨hbody, h1, h2⟩ | ⟨hbody, h1, h2⟩⟩
      · exact (PhaseSame.trans hu (PhaseSame.trans h' hfin)).tableMove hs
      · have hp : s.status.phase = .serving := hu.1.symm.trans h1
        exact ⟨loadLaw_of_load hs (by simp [hp]) (hfin.2.trans (h3.trans hu.2)),
          .inr (.inr (.inr (.inr (.inr (.inr (.inl ⟨hp, hfin.1.trans h2, .inr ⟨_, _, f, rfl, ha, hf, hbody⟩⟩))))))⟩
      · have hp : s.status.phase = .service := hu.1.symm.trans h1
        exact ⟨fun _ => hfin.1.trans h2,
          .inr (.inr (.inr (.inr (.inr (.inr (.inr ⟨hp, hfin.1.trans h2, .inr (.inl ⟨_, _, f, rfl, ha, hf, hbody⟩)⟩))))))⟩
  · exact PhaseSame.tableMove (PhaseSame.trans ⟨rfl, rfl⟩ (finish_phaseSame _)) hs

theorem clearCounts_phase {dt : Micros} {s t : State} (hs : s.LoadLaw)
    (h : exec (.clearCounts dt) s = .next t) : t.LoadLaw ∧ TableMove (.clearCounts dt) s t := by
  cases h
  dsimp only
  have same : PhaseSame s (s.elapse dt).finish := PhaseSame.trans ⟨rfl, rfl⟩ (finish_phaseSame _)
  split
  · split
    · obtain ⟨hl, hp⟩ := clearAll_phase (s.elapse dt) hs
      refine ⟨(finish_phaseSame _).loadLaw hl, ?_⟩
      rcases hp with hp | ⟨hp, hq⟩
      · exact .inl ((finish_phase _).trans hp)
      · exact .inr (.inr (.inr (.inr (.inr (.inr (.inr
          ⟨hp, (finish_phase _).trans hq, .inr (.inr ⟨dt, rfl⟩)⟩))))))
    · exact same.tableMove hs
  · exact same.tableMove hs
  · exact same.tableMove hs

/-- The commands that may end a probe. -/
theorem Instr.may_probed {c : Instr} {s : State} (h : c.May s .probed) :
    (∃ dt ch pages, c = .geometryReadAnswer dt ch pages) ∨ ∃ dt ch, c = .geometryReadTimeout dt ch := by
  rcases h with h | ⟨h, -⟩
  · cases c <;> simp at h ⊢
  · cases h

theorem Instr.not_may_begun {c : Instr} {s : State}
    (h : (∃ dt ch pages, c = .geometryReadAnswer dt ch pages) ∨ ∃ dt ch, c = .geometryReadTimeout dt ch) :
    ¬ c.May s .begun := by
  rintro (hb | ⟨hb, -⟩)
  · rcases h with ⟨dt, ch, pages, rfl⟩ | ⟨dt, ch, rfl⟩ <;> simp at hb
  · cases hb

/-- Settles O8: the six commands that move the phase by themselves one by one, all others by their acts. -/
theorem phaseMovesByTheTable : Obligations.PhaseMovesByTheTable := by
  intro c s t hs h
  by_cases hc : ∃ x, x ∈ c.specials ∧ x.MovesPhase
  · cases c with
    | configImageRead dt image => exact configImageRead_phase hs h
    | configReadTimeout dt => exact configReadTimeout_phase hs h
    | serviceEnter heard src => exact serviceEnter_phase hs h
    | serviceExit heard src => exact serviceExit_phase hs h
    | ackSlotEnd ended => exact ackSlotEnd_phase hs h
    | clearCounts dt => exact clearCounts_phase hs h
    | _ => simp [Special.MovesPhase] at hc
  by_cases hp : ∃ straps, c = .powerOn straps
  · obtain ⟨straps, rfl⟩ := hp
    cases h
    exact ⟨fun hl => absurd rfl hl, .inr (.inl ⟨⟨straps, rfl⟩, rfl⟩)⟩
  · obtain ⟨u, hu, rfl⟩ := exec_acts h fun straps hs => hp ⟨straps, hs⟩
    have hmoves : ∀ x, c.May s x → ¬ x.MovesPhase := by
      rintro x (hx | ⟨rfl, -⟩) hm
      · exact hc ⟨x, hx, hm⟩
      · simp [Special.MovesPhase] at hm
    obtain ⟨hlaw, -, hphase⟩ := hu.phase hmoves (fun h => Instr.not_may_begun (Instr.may_probed h.1) h.2) hs
    refine ⟨(finish_phaseSame u).loadLaw hlaw, ?_⟩
    rw [finish_phase]
    rcases hphase with h | ⟨h1, h2, -⟩ | ⟨hS, h1, h2⟩
    · exact .inl h
    · exact .inr (.inr (.inr (.inr (.inr (.inl ⟨h1, h2⟩)))))
    · exact .inr (.inr (.inr (.inr (.inl ⟨h1, h2, Instr.may_probed hS⟩))))

end Sys2Proof.Machine


/-! SUPPORT. FAULT and its onset count, the start bit in FREE and the bus-stuck watch after every command (R148, R159,
R175). -/

namespace Sys2Proof.Machine

/-! ### What keeps a channel OFFLINE -/

theorem directoryPageDone_fetch (data : Option (List Byte)) (s : State) : (s.directoryPageDone data).fetch = s.fetch := by
  have next : ∀ h p a (u : State), (u.nextRecordPage h p a).fetch = u.fetch := fun h p a u => by
    unfold State.nextRecordPage
    split <;> rfl
  unfold State.directoryPageDone
  split
  · rfl
  · split
    · rfl
    · exact next _ _ _ s
  · dsimp only
    split
    · exact next _ _ _ (s.onDir _)
    · exact next _ _ _ (s.countDir _)

theorem issueDirectory_offline (d : ChannelNo) (fuel : Nat) (s : State) :
    ((s.issueDirectory fuel).chan d).offline = (s.chan d).offline := by
  have done : ∀ u : State, ((u.directoryPageDone none).chan d).offline = (u.chan d).offline := fun u => by
    simp only [State.chan, directoryPageDone_fetch]
  induction fuel generalizing s with
  | zero => rfl
  | succ fuel ih =>
    unfold State.issueDirectory
    split
    · rfl
    · dsimp only
      split
      · rw [ih, done]
      · split
        · split
          · rw [State.issue, chan_updChan]
            split <;> rfl
          · rw [ih, done, State.countChan, chan_updChan]
            split <;> rfl
        · rfl

theorem takeWaitingPage_offline (c d : ChannelNo) (s : State) :
    ((s.takeWaitingPage c).chan d).offline = (s.chan d).offline := by
  unfold State.takeWaitingPage
  split
  · exact issueDirectory_offline d _ s
  · rfl

theorem probeFinished_offline (d : ChannelNo) (s : State) : (s.probeFinished.chan d).offline = (s.chan d).offline := by
  rcases probeFinished_cases s with h | ⟨p, h⟩
  · rw [h]
  · rw [h]; rfl

/-! ### FAULT within a command -/

/-- FAULT and its onset count stand as they stood. -/
def FaultSame (s t : State) : Prop :=
  t.status.faultDriven = s.status.faultDriven ∧ t.status.faultOnset = s.status.faultOnset

/-- FAULT has been brought up to date within the command, while a cause held. -/
def FaultRisen (s t : State) : Prop :=
  t.status.faultDriven = true
    ∧ t.status.faultOnset = if s.status.faultDriven then s.status.faultOnset else inc s.status.faultOnset

theorem FaultSame.trans {s t u : State} (h : FaultSame s t) (h' : FaultSame t u) : FaultSame s u :=
  ⟨h'.1.trans h.1, h'.2.trans h.2⟩

theorem FaultRisen.after {s t u v : State} (h : FaultSame s t) (h' : FaultRisen t u) (h'' : FaultSame u v) : FaultRisen s v :=
  ⟨h''.1.trans h'.1, by rw [h''.2, h'.2, h.1, h.2]⟩

theorem Act.faultSame {S : Special → Prop} (hS : ¬ S .fault) {s t : State} (h : Act S s t) : FaultSame s t := by
  cases h with
  | inner h => obtain ⟨hst, -⟩ := h.frame; exact ⟨by rw [hst], by rw [hst]⟩
  | fault _ h => exact absurd h hS
  | probed => rcases probeFinished_cases s with h | ⟨p, h⟩ <;> rw [h] <;> exact ⟨rfl, rfl⟩
  | clear => rcases clearAll_cases s with ⟨-, h⟩ | ⟨-, h⟩ <;> rw [h] <;> exact ⟨rfl, rfl⟩
  | _ => exact ⟨rfl, rfl⟩

theorem Acts.faultSame {S : Special → Prop} (hS : ¬ S .fault) {s t : State} (h : Acts S s t) : FaultSame s t :=
  h.lift (P := FaultSame) (fun _ => ⟨rfl, rfl⟩) FaultSame.trans (Act.faultSame hS)

theorem updateFault_risen {s : State} (h : s.faultCauses.any id = true) : FaultRisen s s.updateFault := by
  refine ⟨h, ?_⟩
  show (if s.faultCauses.any id && !s.status.faultDriven then _ else _) = _
  cases hd : s.status.faultDriven <;> simp [h]

/-! ### FAULT after a command -/

theorem finish_faultCauses (s : State) : s.finish.faultCauses = s.faultCauses := by simp [State.faultCauses, State.chan]

theorem finish_faultOnset (s : State) : s.finish.status.faultOnset =
    if s.finish.status.faultDriven = true ∧ s.status.faultDriven = false then inc s.status.faultOnset
    else s.status.faultOnset := by
  rw [finish_fault, finish_faultCauses]
  show (if s.startInFree.runWatch.faultCauses.any id && !s.startInFree.runWatch.status.faultDriven then _ else _) = _
  have hc : s.startInFree.runWatch.faultCauses = s.faultCauses := by simp [State.faultCauses, State.runWatch, State.chan]
  have hd : s.startInFree.runWatch.status = s.status := by simp [State.runWatch]
  rw [hc, hd]
  cases s.status.faultDriven <;> simp

theorem faultCauses_any (s : State) : s.faultCauses.any id = true ↔ s.status.phase = .unconfigured ∨ s.dir.headerFault = true
    ∨ (∃ ch : ChannelNo, (s.chan ch).offline = true) ∨ s.clock.state = .lost := by
  have hch : channels.any (fun c => (s.chan c).offline) = true ↔ ∃ ch : ChannelNo, (s.chan ch).offline = true := by
    rw [List.any_eq_true]
    exact ⟨fun ⟨c, _, h⟩ => ⟨c, h⟩, fun ⟨c, h⟩ => ⟨c, (by decide : ∀ c : ChannelNo, c ∈ channels) c, h⟩⟩
  simp [State.faultCauses, ← hch]

/-- The onset after a command whose body leaves FAULT alone. -/
theorem FaultSame.onset {s u : State} (h : FaultSame s u) : u.finish.status.faultOnset =
    if u.finish.status.faultDriven = true ∧ s.status.faultDriven = false then inc s.status.faultOnset
    else s.status.faultOnset := by rw [finish_faultOnset, h.1, h.2]

/-- The onset after a command that brings FAULT up to date within its body. -/
theorem FaultRisen.onset {s u : State} (h : FaultRisen s u) : u.finish.status.faultOnset =
    if s.status.faultDriven then s.status.faultOnset else inc s.status.faultOnset := by
  rw [finish_faultOnset, h.1, h.2]
  simp

/-! ### The commands that may bring FAULT up to date within their bodies -/

theorem probeFailed_risen (c : ChannelNo) (s : State) : FaultRisen s (s.probeFailed c) ∧ (s.probeFailed c).faultCauses.any id = true := by
  let t := (s.updChan c fun k => { k with pageCount := none }).goOffline c
  have hst : t.status = s.status :=
    (Moves.goOffline (g := true) (.refl (a := s.updChan c fun k => { k with pageCount := none }))).frame.1
  have ht : FaultSame s t := ⟨by rw [hst], by rw [hst]⟩
  have hoff : (t.chan c).offline = true := goOffline_offline c _
  have hrest : FaultSame t.updateFault (t.updateFault.takeWaitingPage c).probeFinished :=
    Acts.faultSame (S := (· = .probed)) (by simp) (Acts.probeFinished rfl (Acts.takeWaitingPage .refl))
  refine ⟨FaultRisen.after ht (updateFault_risen (faultCauses_of_offline hoff)) hrest, faultCauses_of_offline (c := c) ?_⟩
  show (((t.updateFault.takeWaitingPage c).probeFinished).chan c).offline = true
  rw [probeFinished_offline, takeWaitingPage_offline]
  exact hoff

/-- A probe's attempt that times out leaves FAULT alone, or takes the channel OFFLINE and leaves it there. -/
theorem attemptTimedOut_fault (c : ChannelNo) (kind : OperationKind) (s : State) :
    FaultSame s (s.attemptTimedOut c kind)
    ∨ (FaultRisen s (s.attemptTimedOut c kind) ∧ (s.attemptTimedOut c kind).faultCauses.any id = true) := by
  have quiet : ∀ u, Acts (fun _ => False) s u → FaultSame s u := fun u h => h.faultSame (fun h => h)
  have hcount : Acts (fun _ => False) s (s.countChan c fun k => { k with probeFailures := inc k.probeFailures }) :=
    Acts.countChan (fun k => by simp [ChannelCounts.list, le_inc]) .refl
  unfold State.attemptTimedOut
  dsimp only
  split
  · split
    · exact .inl (quiet _ (Acts.issue hcount))
    · exact .inr (probeFailed_risen c (s.countChan c _))
  · exact .inl (quiet _ (Acts.afterOperation (Acts.endOp hcount)))

theorem geometry_onset {u s : State} (h : FaultSame s u ∨ (FaultRisen s u ∧ u.faultCauses.any id = true)) :
    u.finish.status.faultOnset =
      if u.finish.status.faultDriven = true ∧ s.status.faultDriven = false then inc s.status.faultOnset
      else s.status.faultOnset := by
  rcases h with h | ⟨h, hc⟩
  · exact h.onset
  · rw [h.onset, finish_fault, finish_faultCauses, hc]
    cases s.status.faultDriven <;> simp

theorem attemptAnswered_fault (c : ChannelNo) (kind : OperationKind) (pages : Nat) (s : State) :
    FaultSame s (s.attemptAnswered c kind pages) :=
  Acts.faultSame (S := (· = .probed)) (by simp) (Acts.attemptAnswered rfl .refl)

theorem geometryReadTimeout_onset {dt : Micros} {ch : ChannelNo} {s t : State}
    (h : exec (.geometryReadTimeout dt ch) s = .next t) : t.status.faultOnset =
      if t.status.faultDriven = true ∧ s.status.faultDriven = false then inc s.status.faultOnset
      else s.status.faultOnset := by
  cases h
  dsimp only
  refine geometry_onset (s := s) ?_
  split
  · exact .inl ⟨rfl, rfl⟩
  · split
    · exact attemptTimedOut_fault ch _ (s.elapse dt)
    · exact .inl ⟨rfl, rfl⟩

theorem geometryReadAnswer_onset {dt : Micros} {ch : ChannelNo} {pages : Nat} {s t : State}
    (h : exec (.geometryReadAnswer dt ch pages) s = .next t) : t.status.faultOnset =
      if t.status.faultDriven = true ∧ s.status.faultDriven = false then inc s.status.faultOnset
      else s.status.faultOnset := by
  cases h
  dsimp only
  refine geometry_onset (s := s) ?_
  split
  · exact .inl ⟨rfl, rfl⟩
  · split
    · exact attemptTimedOut_fault ch _ (s.elapse dt)
    · exact .inl (attemptAnswered_fault ch _ pages (s.elapse dt))

theorem timedOut_fault (c : ChannelNo) (kind : OperationKind) (s : State) :
    FaultSame s (s.timedOut c kind) ∨ FaultRisen s (s.timedOut c kind) := by
  obtain ⟨u, v, hu, hf, hv⟩ := timedOut_trace (S := fun _ => False) c kind s
  have hu := hu.faultSame (fun h => h)
  have hv := hv.faultSame (fun h => h)
  rcases hf with rfl | ⟨hc, rfl⟩
  · exact .inl (hu.trans hv)
  · exact .inr (FaultRisen.after hu (updateFault_risen hc) hv)

theorem answered_fault (c : ChannelNo) (kind : OperationKind) (out : PageOutcome) (s : State) :
    FaultSame s (s.answered c kind out) := Acts.faultSame (S := fun _ => False) (fun h => h) (Acts.answered .refl)

/-- A read's answer leaves FAULT alone, or comes too late. -/
theorem takeAnswer_fault (c : ChannelNo) (op : Operation) (out : PageOutcome) (s : State) :
    FaultSame s (s.takeAnswer c op out) ∨ (2000 < signedDiff s.now op.issued ∧ FaultRisen s (s.takeAnswer c op out)) := by
  unfold State.takeAnswer
  split
  · rename_i hl
    exact (timedOut_fault c op.kind s).imp id fun h => ⟨(answerLate_iff s op).mp hl, h⟩
  · exact .inl (answered_fault c op.kind out s)

/-- The commands at page reads leave FAULT alone, or bring it up to date within a read that times out. -/
theorem read_fault {c : Instr} {s t : State} (h : exec c s = .next t)
    (hc : (∃ dt ch, c = .pageTimeout dt ch) ∨ ∃ dt ch out, c = .fetchPageRead dt ch out ∨ c = .directoryPageRead dt ch out) :
    ∃ u, t = u.finish ∧ (FaultSame s u ∨ (s.TimesOut c ∧ FaultRisen s u)) := by
  rcases hc with ⟨dt, ch, rfl⟩ | ⟨dt, ch, out, rfl | rfl⟩ <;> cases h <;> refine ⟨_, rfl, ?_⟩ <;> dsimp only
  · split
    · split
      · exact (timedOut_fault ch _ (s.elapse dt)).imp id fun h => ⟨.inl ⟨dt, ch, rfl⟩, h⟩
      · exact .inl ⟨rfl, rfl⟩
    · exact .inl ⟨rfl, rfl⟩
  · split
    · rename_i op hop
      split
      · exact (takeAnswer_fault ch op out (s.elapse dt)).imp id
          fun h => ⟨.inr ⟨dt, ch, out, op, .inl rfl, hop, h.1⟩, h.2⟩
      · exact .inl ⟨rfl, rfl⟩
    · exact .inl ⟨rfl, rfl⟩
  · split
    · rename_i op hop
      split
      · exact (takeAnswer_fault ch op out (s.elapse dt)).imp id
          fun h => ⟨.inr ⟨dt, ch, out, op, .inr rfl, hop, h.1⟩, h.2⟩
      · exact .inl ⟨rfl, rfl⟩
    · exact .inl ⟨rfl, rfl⟩

/-- The first half of the law, for a command with the acts it has. -/
theorem fault_after {c : Instr} {s t : State} (h : exec c s = .next t) (hc : ∀ straps, c ≠ .powerOn straps) :
    (t.status.faultDriven = true ↔ t.faultCauses.any id = true)
    ∧ ((∀ dt, c ≠ .directoryLoad dt) →
      (t.status.faultOnset = if t.status.faultDriven = true ∧ s.status.faultDriven = false then inc s.status.faultOnset
        else s.status.faultOnset)
      ∨ (s.TimesOut c ∧ t.status.faultOnset = if s.status.faultDriven then s.status.faultOnset else inc s.status.faultOnset)) := by
  obtain ⟨u, hu, rfl⟩ := exec_acts h hc
  refine ⟨by rw [finish_fault], fun hd => ?_⟩
  by_cases hread : (∃ dt ch, c = .pageTimeout dt ch)
      ∨ ∃ dt ch out, c = .fetchPageRead dt ch out ∨ c = .directoryPageRead dt ch out
  · obtain ⟨v, hv, hfault⟩ := read_fault h hread
    rw [hv]
    exact hfault.imp FaultSame.onset (And.imp_right FaultRisen.onset)
  by_cases hS : c.May s .fault
  · have hcases : (∃ dt ch pages, c = .geometryReadAnswer dt ch pages) ∨ ∃ dt ch, c = .geometryReadTimeout dt ch := by
      rcases hS with h | ⟨h, -⟩
      · cases c <;> simp at h hd hread ⊢
      · cases h
    rcases hcases with ⟨dt, ch, pages, rfl⟩ | ⟨dt, ch, rfl⟩
    · exact .inl (geometryReadAnswer_onset h)
    · exact .inl (geometryReadTimeout_onset h)
  · exact .inl (FaultSame.onset (s := s) (hu.faultSame hS))

/-! ### The start bit and the watch -/

/-- What an act can do to the line and its start bit. -/
theorem Act.line_cases {S : Special → Prop} {s t : State} (h : Act S s t) :
    (t.bus.state = s.bus.state ∧ t.bus.startBit = s.bus.startBit) ∨ (S .line ∧ t.bus.startBit = false) ∨ S .startBit := by
  cases h with
  | inner h => obtain ⟨-, -, -, -, -, -, -, l, hbus⟩ := h.frame; rw [hbus]; exact .inl ⟨rfl, rfl⟩
  | bus f _ h => exact .inl ⟨h.state, h.startBit⟩
  | line _ _ h => exact .inr (.inl ⟨h, rfl⟩)
  | startBit _ h => exact .inr (.inr h)
  | probed => rcases probeFinished_cases s with h | ⟨p, h⟩ <;> rw [h] <;> exact .inl ⟨rfl, rfl⟩
  | clear => rcases clearAll_cases s with ⟨-, h⟩ | ⟨-, h⟩ <;> rw [h] <;> exact .inl ⟨rfl, rfl⟩
  | _ => exact .inl ⟨rfl, rfl⟩

/-- The line and its start bit stand where neither moves. -/
theorem Acts.lineSame {S : Special → Prop} (hl : ¬ S .line) (hb : ¬ S .startBit) {s t : State} (h : Acts S s t) :
    t.bus.state = s.bus.state ∧ t.bus.startBit = s.bus.startBit :=
  h.lift (P := fun s t => t.bus.state = s.bus.state ∧ t.bus.startBit = s.bus.startBit) (fun _ => ⟨rfl, rfl⟩)
    (fun h h' => ⟨h'.1.trans h.1, h'.2.trans h.2⟩)
    (fun h => h.line_cases.resolve_right fun h => h.elim (fun h => hl h.1) hb)

/-- A start bit stands only where one stood, unless one is sent. -/
theorem Acts.startBit_of {S : Special → Prop} (hb : ¬ S .startBit) {s t : State} (h : Acts S s t) :
    t.bus.startBit = true → s.bus.startBit = true := by
  refine h.lift (P := fun s t => t.bus.startBit = true → s.bus.startBit = true) (fun _ => id) (fun h h' => h ∘ h') ?_
  intro s t ha ht
  rcases ha.line_cases with ⟨-, h⟩ | ⟨-, h⟩ | h
  · exact h ▸ ht
  · rw [h] at ht; cases ht
  · exact absurd h hb

/-- What there is to send, in the statement's words. -/
theorem somethingToSend_iff (t : State) : t.somethingToSend = true ↔
    t.bus.offers ≠ [] ∨ t.bus.notices ≠ [] ∨ t.bus.requests ≠ 0
      ∨ ∃ p ∈ t.streams.contexts, ∃ e rest, p.2.window = e :: rest ∧ t.contends p.2 e = true := by
  have hblock : t.blockWaiting = true ↔
      ∃ p ∈ t.streams.contexts, ∃ e rest, p.2.window = e :: rest ∧ t.contends p.2 e = true := by
    unfold State.blockWaiting
    rw [List.any_eq_true]
    refine exists_congr fun p => and_congr_right fun _ => ?_
    cases p.2.window <;> simp
  simp only [State.somethingToSend, Bool.or_eq_true, hblock]
  simp [or_assoc]

theorem mayContend_iff (t : State) : t.mayContend = true ↔ t.cleared = false ∧ t.status.phase ≠ .configLoad := by
  simp [State.mayContend]

theorem finish_cleared (u : State) : u.finish.cleared = u.cleared := by simp [State.cleared]

theorem finish_mayContend (u : State) : u.finish.mayContend = u.mayContend := by simp [State.mayContend, finish_cleared]

theorem finish_somethingToSend (u : State) : u.finish.somethingToSend = u.somethingToSend := by
  have hblock : u.finish.blockWaiting = u.blockWaiting := by
    simp [State.blockWaiting, State.contends, State.laneOpen]
  simp [State.somethingToSend, hblock]

theorem startInFree_somethingToSend (u : State) : u.startInFree.somethingToSend = u.somethingToSend := by
  rcases startInFree_cases u with h | ⟨-, -, -, h⟩ <;> rw [h]
  rfl

theorem startInFree_cleared (u : State) : u.startInFree.cleared = u.cleared := by
  rcases startInFree_cases u with h | ⟨-, -, -, h⟩ <;> rw [h]
  rfl

/-- The watch after a command. -/
theorem finish_watch (u : State) : u.finish.bus.watch ≠ .idle ↔ u.somethingToSend = true ∧ u.cleared = false := by
  show (if u.startInFree.somethingToSend && !u.startInFree.cleared then
    (match u.startInFree.bus.watch with | .idle => .running u.startInFree.now | w => w) else StuckWatch.idle) ≠ .idle ↔ _
  rw [startInFree_somethingToSend, startInFree_cleared]
  split
  · rename_i h
    have h' : u.somethingToSend = true ∧ u.cleared = false := by simpa using h
    refine ⟨fun _ => h', fun _ => ?_⟩
    split
    · simp
    · rename_i hw; exact hw
  · rename_i h
    exact ⟨fun h' => absurd rfl h', fun h' => absurd (by simp [h'] : _) h⟩

/-- The start bit after a command: sent in FREE where there is something to send that may contend. -/
theorem finish_line (u : State) : (u.bus.state = .free ∧ u.somethingToSend = true ∧ u.mayContend = true
      ∧ u.finish.bus.state = .busy ∧ u.finish.bus.startBit = true)
    ∨ (¬ (u.bus.state = .free ∧ u.somethingToSend = true ∧ u.mayContend = true)
      ∧ u.finish.bus.state = u.bus.state ∧ u.finish.bus.startBit = u.bus.startBit) := by
  have h := (finish_settles u).2.2.1
  split at h
  · rename_i hc; exact .inl ⟨hc.1, hc.2.1, hc.2.2, h⟩
  · rename_i hc; exact .inr ⟨hc, h⟩

/-- A command that brings no frame boundary leaves a bus in FREE as it is, until the standing conditions. -/
theorem free_stays {c : Instr} {s t : State} (h : exec c s = .next t) (hc : ∀ straps, c ≠ .powerOn straps)
    (hb : c.isBoundary = false) (hf : s.bus.state = .free) :
    ∃ u : State, t = u.finish ∧ u.bus.state = .free ∧ u.bus.startBit = s.bus.startBit := by
  by_cases hS : c.May s .line ∨ c.May s .startBit
  · have hmem : Special.line ∈ c.specials ∨ Special.startBit ∈ c.specials :=
      hS.imp (fun h => h.resolve_right fun h => by cases h.1) (fun h => h.resolve_right fun h => by cases h.1)
    cases c with
    | emptyContest dt => cases h; exact ⟨_, rfl, by simp [hf], by simp [hf]⟩
    | gapEnd dt => cases h; exact ⟨_, rfl, by simp [hf], by simp [hf]⟩
    | lineGoesRecessive dt => cases h; exact ⟨_, rfl, by simp [hf], by simp [hf]⟩
    | busSync dt cause => cases h; exact ⟨_, rfl, by simp [hf], by simp [hf]⟩
    | _ => simp [Instr.isBoundary] at hmem hb
  · obtain ⟨u, hu, rfl⟩ := exec_acts h hc
    obtain ⟨h1, h2⟩ := hu.lineSame (fun h => hS (.inl h)) fun h => hS (.inr h)
    exact ⟨u, rfl, h1.trans hf, h2⟩

/-- A start bit stands after the standing conditions where one stood, or where they send it. -/
theorem finish_startBit {u : State} (hb : u.finish.bus.startBit = true) :
    ((u.finish.somethingToSend = true ∧ u.finish.mayContend = true) ∧ u.finish.bus.state = .busy)
    ∨ (u.bus.startBit = true ∧ u.finish.bus.state = u.bus.state) := by
  rcases finish_line u with ⟨-, h1, h2, h3, -⟩ | ⟨-, h2, h3⟩
  · exact .inl ⟨⟨(finish_somethingToSend u).trans h1, (finish_mayContend u).trans h2⟩, h3⟩
  · exact .inr ⟨h3 ▸ hb, h2⟩

/-- GAP_END sends a start bit where there is something to send that may contend. -/
theorem gapEnd_startBit {dt : Micros} {s t : State} (h : exec (.gapEnd dt) s = .next t) : ∃ u : State, t = u.finish
    ∧ (u.bus.startBit = true → s.bus.startBit = true ∨ ((u.somethingToSend = true ∧ u.mayContend = true) ∧ u.bus.state = .busy)) := by
  cases h
  refine ⟨_, rfl, ?_⟩
  dsimp only
  split
  · split
    · rename_i hsend
      exact fun _ => .inr ⟨Bool.and_eq_true_iff.mp hsend, rfl⟩
    · exact fun h => by cases h
  · exact .inl

/-- A start bit stands after a command only where one stood before, or where GAP_END or the standing conditions send it. -/
theorem startBit_after {c : Instr} {s t : State} (h : exec c s = .next t) (hc : ∀ straps, c ≠ .powerOn straps)
    (hb : t.bus.startBit = true) : s.bus.startBit = true
      ∨ ((t.somethingToSend = true ∧ t.mayContend = true) ∧ t.bus.state = .busy) := by
  by_cases hS : c.May s .startBit
  · have hg : ∃ dt, c = .gapEnd dt := by
      rcases hS with h | ⟨h, -⟩
      · cases c <;> simp at h ⊢
      · cases h
    obtain ⟨dt, rfl⟩ := hg
    obtain ⟨u, rfl, hu⟩ := gapEnd_startBit h
    rcases finish_startBit hb with h | ⟨h, hstate⟩
    · exact .inr h
    · rw [finish_somethingToSend, finish_mayContend, hstate]
      exact hu h
  · obtain ⟨u, hu, rfl⟩ := exec_acts h hc
    exact (finish_startBit hb).symm.imp (fun h => hu.startBit_of hS h.1) id

/-- Settles O5: FAULT by the acts of the command and its reads that time out, the start bit and the watch by the acts and
the standing conditions. -/
theorem standingConditions : Obligations.StandingConditions := by
  refine ⟨fun c s t h hc => ?_, fun c s t h hc => ?_⟩
  · obtain ⟨hdriven, honset⟩ := fault_after h hc
    rw [faultCauses_any] at hdriven
    refine ⟨hdriven, fun hd hT => (honset hd).resolve_right fun h => hT h.1, fun hT => ?_⟩
    have hd : ∀ dt, c ≠ .directoryLoad dt := by
      rintro dt rfl
      rcases hT with ⟨_, _, h⟩ | ⟨_, _, _, _, h | h, -⟩ <;> cases h
    rcases honset hd with h | ⟨-, h⟩ <;> rw [h] <;> cases s.status.faultDriven <;> cases t.status.faultDriven <;> simp
  · dsimp only
    rw [← somethingToSend_iff, ← mayContend_iff]
    refine ⟨?_, fun hb hf => ?_, startBit_after h hc, ?_⟩
    · obtain ⟨u, -, rfl⟩ := exec_acts h hc
      rw [finish_somethingToSend, finish_mayContend]
      rcases finish_line u with ⟨-, -, -, h, -⟩ | ⟨hn, h, -⟩ <;> rw [h]
      · exact fun h => by cases h
      · exact fun hf hcon => hn ⟨hf, hcon⟩
    · obtain ⟨u, rfl, hfree, hbit⟩ := free_stays h hc hb hf
      rw [finish_somethingToSend, finish_mayContend, ← hbit, ← hfree]
      rcases finish_line u with ⟨hf, h1, h2, h3⟩ | ⟨hn, h3⟩
      · exact ⟨fun _ => h3, fun hcon => absurd ⟨h1, h2⟩ hcon⟩
      · exact ⟨fun hcon => absurd ⟨hfree, hcon⟩ hn, fun _ => h3⟩
    · obtain ⟨u, -, rfl⟩ := exec_acts h hc
      rw [finish_somethingToSend, finish_cleared]
      exact finish_watch u

end Sys2Proof.Machine


/-! SUPPORT. The record checks past R5 (R6 to R9, R167). -/

namespace Sys2Proof.Machine

section
variable {config : ConfigImage} {extent blocks : Nat} {r : RawRecord} {format : Format} {last : Option ZoneRecord}

theorem zonePasses_iff (z : Zone) : config.zonePasses z = true ↔ z &&& config.zoneMask = config.zoneMatch &&& config.zoneMask := by
  simp [ConfigImage.zonePasses]

theorem judgeRecord_outOfOrder (hlen : ¬ (r.length = 0 ∨ Config.maxLength < r.length))
    (hfmt : Format.ofCode r.format = some format) (h : ¬ ∀ p, last = some p → p.zone < r.zone) :
    judgeRecord config extent blocks last r = .outOfOrder := by
  unfold judgeRecord
  rw [if_neg hlen, hfmt]
  cases last with
  | none => exact absurd (fun _ h => by cases h) h
  | some p => exact if_pos (by simpa using h)

theorem judgeRecord_noMatch (hlen : ¬ (r.length = 0 ∨ Config.maxLength < r.length))
    (hfmt : Format.ofCode r.format = some format) (h : ∀ p, last = some p → p.zone < r.zone)
    (hm : ¬ config.zonePasses r.zone = true) : judgeRecord config extent blocks last r = .noMatch := by
  unfold judgeRecord
  rw [if_neg hlen, hfmt]
  refine (if_neg ?_).trans (if_pos (by simpa using hm))
  cases last with
  | none => simp
  | some p => simpa using h p rfl

/-- The loop is kept, or there is none (R8). -/
def RawRecord.keepsLoop (r : RawRecord) : Bool :=
  match r.loop with
  | some l => l.kept r.length
  | none => true

theorem keepsLoop_iff (r : RawRecord) : r.keepsLoop = true
    ↔ ∀ l, r.loop = some l → l.first < l.stop ∧ l.stop ≤ r.length ∧ 256 ≤ l.stop - l.first := by
  unfold RawRecord.keepsLoop
  cases r.loop with
  | none => simp
  | some l => simp [Loop.kept]

/-- The record the table takes. -/
def RawRecord.accepted (r : RawRecord) (extent blocks : Nat) (format : Format) : ZoneRecord :=
  let needed := ceilDiv r.length format.framesPerBlock
  let c := effectiveCount extent blocks needed r.base r.stored
  { zone := r.zone, format := format, length := r.length, base := r.base, stored := min r.stored needed
    loop := if r.keepsLoop then r.loop else none, effective := c, short := decide (c < needed) }

theorem judgeRecord_accepted (hlen : ¬ (r.length = 0 ∨ Config.maxLength < r.length))
    (hfmt : Format.ofCode r.format = some format) (h : ∀ p, last = some p → p.zone < r.zone)
    (hm : config.zonePasses r.zone = true) :
    judgeRecord config extent blocks last r = .accepted (r.accepted extent blocks format) (!r.keepsLoop) := by
  unfold judgeRecord
  rw [if_neg hlen, hfmt]
  refine (if_neg ?_).trans ((if_neg (by simp [hm])).trans ?_)
  · cases last with
    | none => simp
    | some p => simpa using h p rfl
  · unfold RawRecord.accepted RawRecord.keepsLoop
    cases r.loop <;> rfl

end

/-- Settles O22: the checks in their order, at their limits. -/
theorem recordJudged : Obligations.RecordJudged := by
  intro config extent blocks table counts r format h0 hmax hfmt inOrder passes needed c keep after record short
  have hlen : ¬ (r.length = 0 ∨ Config.maxLength < r.length) := fun h => h.elim h0 (Nat.not_lt.mpr hmax)
  have hc : effectiveCount extent blocks needed r.base r.stored = c := rfl
  have hneeded : ceilDiv r.length format.framesPerBlock = needed := rfl
  clear_value c needed
  refine ⟨fun ho => ?_, fun ho hp => ?_, fun ho hp hk => ?_, fun ho hp hk => ?_⟩ <;> simp only [after, checkRecord]
  · rw [judgeRecord_outOfOrder hlen hfmt ho]
    rfl
  · rw [judgeRecord_noMatch hlen hfmt ho fun h => hp (zonePasses_iff _ |>.mp h)]
    rfl
  · rw [judgeRecord_accepted hlen hfmt ho (zonePasses_iff _ |>.mpr hp)]
    simp [DirectoryCounts.countRecord, RawRecord.accepted, hneeded, (keepsLoop_iff r).mpr hk, record, short, hc]
  · rw [judgeRecord_accepted hlen hfmt ho (zonePasses_iff _ |>.mpr hp)]
    have hk' : r.keepsLoop = false := Bool.eq_false_iff.mpr fun h => hk ((keepsLoop_iff r).mp h)
    simp [DirectoryCounts.countRecord, RawRecord.accepted, hneeded, hk', record, short, hc]

end Sys2Proof.Machine


/-! SUPPORT. Byte lists: a number laid out most significant byte first is read back (R161). -/

namespace Sys2Proof.Bytes

@[simp] theorem be_length (n v : Nat) : (be n v).length = n := by
  induction n with
  | zero => rfl
  | succ n ih => simp [be, ih]

theorem foldl_value (l : List Byte) (a : Nat) :
    l.foldl (fun acc b => acc * 256 + b.toNat) a = a * 256 ^ l.length + value l := by
  unfold value
  induction l generalizing a with
  | nil => simp
  | cons b rest ih =>
    rw [List.foldl_cons, List.foldl_cons, ih, ih (0 * 256 + b.toNat), List.length_cons, pow_succ]
    ring

theorem value_cons (b : Byte) (l : List Byte) : value (b :: l) = b.toNat * 256 ^ l.length + value l := by
  rw [← foldl_value, value, List.foldl_cons, Nat.zero_mul, Nat.zero_add]

theorem value_be (n v : Nat) : value (be n v) = v % 256 ^ n := by
  induction n with
  | zero => simp [be, value, Nat.mod_one]
  | succ n ih =>
    rw [be, value_cons, ih, be_length, BitVec.toNat_ofNat, pow_succ 256 n, Nat.mod_mul (x := v) (a := 256 ^ n) (b := 256), Nat.add_comm,
      Nat.mul_comm]

/-- The first field of a layout. -/
theorem field_be_append (n v : Nat) (l : List Byte) : field (be n v ++ l) 0 n = v % 256 ^ n := by
  rw [field, slice, List.drop_zero, List.take_append_of_le_length (by simp), List.take_of_length_le (by simp), value_be]

theorem field_be (n v : Nat) : field (be n v) 0 n = v % 256 ^ n := by
  simpa using field_be_append n v []

/-- A field behind the first part of a layout. -/
theorem field_append_skip {l r : List Byte} {off : Nat} (h : l.length ≤ off) (n : Nat) :
    field (l ++ r) off n = field r (off - l.length) n := by
  simp only [field, slice, List.drop_append, List.drop_of_length_le h, List.nil_append]

theorem field_be_skip {m v off : Nat} {r : List Byte} (h : m ≤ off) (n : Nat) :
    field (be m v ++ r) off n = field r (off - m) n := by
  simpa using field_append_skip (l := be m v) (r := r) (by simpa using h) n

theorem drop_be_skip {m v off : Nat} {r : List Byte} (h : m ≤ off) : (be m v ++ r).drop off = r.drop (off - m) := by
  rw [List.drop_append, List.drop_of_length_le (by simpa using h), be_length, List.nil_append]

end Sys2Proof.Bytes

namespace Sys2Proof

open Bytes

/-! ### Frames -/

/-- A number of the width its bytes hold is read back. -/
theorem ofNat_mod {w m : Nat} (h : m = 2 ^ w) (x : BitVec w) : BitVec.ofNat w (x.toNat % m) = x := by
  rw [h, Nat.mod_eq_of_lt x.isLt, BitVec.ofNat_toNat, BitVec.setWidth_eq]

/-- The length of a body's payload is the one its row gives. -/
theorem payloadLength_payload {f : WireFrame} (h : f.wellFormed = true) :
    payloadLength f.body.classCode f.body.subkind = some f.body.payload.length := by
  obtain ⟨u, s, d, body⟩ := f
  cases body <;> simp [WireFrame.wellFormed, Config.blockBytes] at h <;>
    simp [FrameBody.classCode, FrameBody.subkind, FrameBody.payload, payloadLength, h, Bytes.be_length]

/-- The fields of a body are read back from its payload. -/
theorem decodeBody_payload (b : FrameBody) : decodeBody b.classCode b.subkind b.payload = some b := by
  have r8 : ∀ x : BitVec 8, BitVec.ofNat 8 (x.toNat % 256) = x := ofNat_mod rfl
  have r16 : ∀ x : BitVec 16, BitVec.ofNat 16 (x.toNat % 65536) = x := ofNat_mod rfl
  have r24 : ∀ x : BitVec 24, BitVec.ofNat 24 (x.toNat % 16777216) = x := ofNat_mod rfl
  have r32 : ∀ x : BitVec 32, BitVec.ofNat 32 (x.toNat % 4294967296) = x := ofNat_mod rfl
  have r64 : ∀ x : BitVec 64, BitVec.ofNat 64 (x.toNat % 18446744073709551616) = x := ofNat_mod rfl
  cases b with
  | pause | stopAll | queryStatus | serviceEnter | serviceExit | state => rfl
  | run v | timing v | ready v =>
    simp [FrameBody.classCode, FrameBody.subkind, FrameBody.payload, decodeBody, field_be, r32, r64]
  | _ =>
    simp [FrameBody.classCode, FrameBody.subkind, FrameBody.payload, decodeBody, field_be, field_be_append, field_be_skip,
      drop_be_skip, r8, r16, r24, r32]

theorem payload_length_lt (f : WireFrame) (h : f.wellFormed = true) : f.body.payload.length < 65536 := by
  have hp := payloadLength_payload h
  generalize f.body.payload.length = n at hp ⊢
  unfold payloadLength at hp
  split at hp <;> simp at hp <;> omega

theorem classCode_le (b : FrameBody) : b.classCode ≤ 8 := by cases b <;> simp [FrameBody.classCode]

theorem subkind_lt (b : FrameBody) : b.subkind < 256 := by cases b <;> simp [FrameBody.subkind]

theorem word_toNat (f : WireFrame) : f.word.toNat = f.body.classCode * 4096 + f.urgency.toNat * 16 + f.source.toNat := by
  have := classCode_le f.body
  have := f.urgency.isLt
  have := f.source.isLt
  rw [WireFrame.word, BitVec.toNat_ofNat]
  omega

theorem header_length (f : WireFrame) : f.header.length = 6 := by simp [WireFrame.header]

/-- The header byte by byte, with what follows it. -/
theorem header_append (f : WireFrame) (rest : List Byte) : f.header ++ rest =
    be 1 (f.word.toNat / 256) ++ (be 1 f.word.toNat
      ++ (be 1 (f.dest.toNat * 16 + if addressing f.body.classCode = .broadcast then 8 else 0) ++ (be 1 f.body.subkind
      ++ (be 2 f.body.payload.length ++ rest)))) := by
  simp [WireFrame.header, be]

section
variable (f : WireFrame) (rest : List Byte)

theorem byteAt_header_class : byteAt (f.header ++ rest) 0 / 16 = f.body.classCode := by
  have := classCode_le f.body
  have := f.urgency.isLt
  have := f.source.isLt
  rw [header_append, byteAt, field_be_append, word_toNat]
  omega

theorem byteAt_header_urgency :
    byteAt (f.header ++ rest) 0 % 16 * 16 + byteAt (f.header ++ rest) 1 / 16 = f.urgency.toNat := by
  have := classCode_le f.body
  have := f.urgency.isLt
  have := f.source.isLt
  rw [header_append, byteAt, byteAt, field_be_append, field_be_skip (by decide), field_be_append, word_toNat]
  omega

theorem byteAt_header_source : byteAt (f.header ++ rest) 1 % 16 = f.source.toNat := by
  have := f.source.isLt
  rw [header_append, byteAt, field_be_skip (by decide), field_be_append, word_toNat]
  omega

theorem byteAt_header_third : byteAt (f.header ++ rest) 2 =
    f.dest.toNat * 16 + if addressing f.body.classCode = .broadcast then 8 else 0 := by
  have := f.dest.isLt
  rw [header_append, byteAt, field_be_skip (by decide), field_be_skip (by decide), field_be_append]
  split <;> omega

theorem broadcastFlag_header : broadcastFlag (f.header ++ rest) = decide (addressing f.body.classCode = .broadcast) := by
  rw [broadcastFlag, byteAt_header_third]
  split
  · rename_i h; rw [h, beq_iff_eq.mpr (by omega)]; rfl
  · rename_i h; rw [decide_eq_false h, beq_eq_false_iff_ne]; omega

theorem destination_header : destination (f.header ++ rest) = f.dest := by
  have := f.dest.isLt
  rw [destination, byteAt_header_third]
  apply BitVec.eq_of_toNat_eq
  rw [BitVec.toNat_ofNat]
  split <;> omega

theorem byteAt_header_subkind : byteAt (f.header ++ rest) 3 = f.body.subkind := by
  have := subkind_lt f.body
  rw [header_append, byteAt, field_be_skip (by decide), field_be_skip (by decide), field_be_skip (by decide), field_be_append]
  omega

theorem field_header_length (h : f.wellFormed = true) : field (f.header ++ rest) 4 2 = f.body.payload.length := by
  have := payload_length_lt f h
  rw [header_append, field_be_skip (by decide), field_be_skip (by decide), field_be_skip (by decide),
    field_be_skip (by decide), field_be_append]
  omega

end

/-- Settles O16: each test of the judgement reads back what the header, the payload and the check were laid out from. -/
theorem frameRoundTrip : Obligations.FrameRoundTrip := by
  intro f hf
  have hlen : (encodeFrame f).length = (f.header ++ f.body.payload).length + 4 := by simp [encodeFrame, Nat.add_assoc]
  have hcovered : (encodeFrame f).take ((encodeFrame f).length - 4) = f.header ++ f.body.payload := by
    rw [hlen, Nat.add_sub_cancel, encodeFrame, List.take_left]
  have hcheck : field (encodeFrame f) ((encodeFrame f).length - 4) 4 = (crc (f.header ++ f.body.payload)).toNat := by
    rw [hlen, Nat.add_sub_cancel, encodeFrame, field_append_skip le_rfl, Nat.sub_self, field_be]
    exact Nat.mod_eq_of_lt (crc _).isLt
  have hpayload : (f.header ++ f.body.payload).drop 6 = f.body.payload := List.drop_left' (header_length f)
  have hten : ¬ (encodeFrame f).length < 10 := by
    rw [hlen, List.length_append, header_length]; omega
  have hbytes : encodeFrame f = f.header ++ (f.body.payload ++ be 4 (crc (f.header ++ f.body.payload)).toNat) := by
    simp [encodeFrame]
  have hflag : (if decide (addressing f.body.classCode = .broadcast) then Delimiter.broadcast else .addressed)
      = addressing f.body.classCode := by
    cases addressing f.body.classCode <;> rfl
  unfold judgeFrame
  simp only [hcovered, hcheck, hpayload, hten, if_false]
  rw [hbytes]
  simp only [byteAt_header_class, byteAt_header_subkind, broadcastFlag_header, hflag, field_header_length f _ hf,
    payloadLength_payload hf, decodeBody_payload, byteAt_header_urgency, byteAt_header_source, destination_header]
  have hclass : ¬ f.body.classCode > 8 := Nat.not_lt.mpr (classCode_le _)
  have hdest : (if addressing f.body.classCode = .broadcast then 0#4 else f.dest) = f.dest := by
    split
    · rename_i hb
      simp [WireFrame.wellFormed, WireFrame.delimiter, hb] at hf
      exact hf.2.symm
    · rfl
  simp [hclass, WireFrame.delimiter, hdest]

end Sys2Proof


/-! SUPPORT. Rules for a change of one channel, and what probing every channel does. -/

namespace Sys2Proof.Machine

section
variable (s : State) (c d : ChannelNo) (f g : Channel → Channel)

@[simp] theorem chan_elapse (dt : Micros) : (s.elapse dt).chan c = s.chan c := rfl

@[simp] theorem chan_onStatus (h : Status → Status) : (s.onStatus h).chan c = s.chan c := rfl
@[simp] theorem chan_onBus (h : BusPort → BusPort) : (s.onBus h).chan c = s.chan c := rfl
@[simp] theorem chan_onClock (h : Clock → Clock) : (s.onClock h).chan c = s.chan c := rfl
@[simp] theorem chan_onDir (h : Directory → Directory) : (s.onDir h).chan c = s.chan c := rfl
@[simp] theorem chan_onCue (h : CueUnit → CueUnit) : (s.onCue h).chan c = s.chan c := rfl
@[simp] theorem chan_onStreams (h : StreamEngine → StreamEngine) : (s.onStreams h).chan c = s.chan c := rfl
@[simp] theorem chan_onCache (h : Cache → Cache) : (s.onCache h).chan c = s.chan c := rfl
@[simp] theorem chan_onDelivery (h : Delivery → Delivery) : (s.onDelivery h).chan c = s.chan c := rfl

@[simp] theorem chan_onFetch_map : (s.onFetch fun e => { e with channels := e.channels.map f }).chan c = f (s.chan c) := by
  simp [State.chan]

/-- Two states that differ at most in their channels are the same when the channels are. -/
theorem state_eq_of_chan {t : State} (h : ∀ d, t.chan d = s.chan d)
    (hrest : { t with fetch := { t.fetch with channels := s.fetch.channels } } = s) : t = s := by
  have hf : t.fetch.channels = s.fetch.channels := Vector.ext fun i hi => h ⟨i, hi⟩
  rw [← hrest, ← hf]

theorem updChan_congr {f g : Channel → Channel} (h : f (s.chan c) = g (s.chan c)) : s.updChan c f = s.updChan c g := by
  refine state_eq_of_chan _ (fun d => ?_) rfl
  rw [chan_updChan, chan_updChan]
  split
  · rename_i hd; rw [← hd, h]
  · rfl

theorem updChan_id {f : Channel → Channel} (h : f (s.chan c) = s.chan c) : s.updChan c f = s := by
  refine state_eq_of_chan s (fun d => ?_) rfl
  rw [chan_updChan]
  split
  · rename_i hd; rw [← hd, h]
  · rfl

@[simp] theorem updChan_updChan : (s.updChan c f).updChan c g = s.updChan c fun ch => g (f ch) := by
  refine state_eq_of_chan _ (fun d => ?_) rfl
  simp only [chan_updChan]
  split <;> rfl

/-- The same change of every channel in turn is one change of the bank of channels. -/
theorem foldl_updChan_channels :
    channels.foldl (fun t c => t.updChan c f) s = s.onFetch fun e => { e with channels := e.channels.map f } := by
  have hrest : ∀ (l : List ChannelNo) (t : State) (v : Vector Channel 8),
      { l.foldl (fun t c => t.updChan c f) t with
        fetch := { (l.foldl (fun t c => t.updChan c f) t).fetch with channels := v } }
      = { t with fetch := { t.fetch with channels := v } } := by
    intro l
    induction l with
    | nil => exact fun _ _ => rfl
    | cons c rest ih => exact fun t v => ih (t.updChan c f) v
  refine state_eq_of_chan _ (fun d => ?_) (hrest channels s _)
  have hfold : ∀ (l : List ChannelNo) (t : State), l.Nodup →
      (l.foldl (fun t c => t.updChan c f) t).chan d = if d ∈ l then f (t.chan d) else t.chan d := by
    intro l
    induction l with
    | nil => exact fun t _ => by simp
    | cons c rest ih =>
      intro t hl
      obtain ⟨hc, hrest⟩ := List.nodup_cons.mp hl
      rw [List.foldl_cons, ih _ hrest, chan_updChan]
      by_cases hd : c = d
      · subst hd; simp [hc]
      · simp [hd, Ne.symm hd]
  rw [hfold channels s (by decide), if_pos ((by decide : ∀ c : ChannelNo, c ∈ channels) d), chan_onFetch_map]

end

/-- A channel when every channel is to be probed (R128): its probe begins where it has no operation in progress and no
counted CLEAR is asserted, else it is pending. -/
def Channel.probed (now : Time) (cleared : Bool) (ch : Channel) : Channel :=
  if ch.op.isNone && !cleared then
    { ch with offline := false, probePending := false, timeouts := 0, pageCount := none
              op := some { kind := .probe 1, issued := now } }
  else { ch with probePending := true }

theorem probeAll_eq (s : State) : s.probeAll =
    s.onFetch fun e => { e with channels := e.channels.map (Channel.probed s.now s.cleared) } := by
  rw [← foldl_updChan_channels]
  have hstep : ∀ (t : State) (c : ChannelNo), (let u := t.updChan c fun ch => { ch with probePending := true }
      if (u.chan c).op.isNone && !u.cleared then u.beginProbe c else u) = t.updChan c (Channel.probed t.now t.cleared) := by
    intro t c
    dsimp only
    rw [chan_updChan_self]
    have hcl : (t.updChan c fun ch => { ch with probePending := true }).cleared = t.cleared := rfl
    rw [hcl]
    split
    · rename_i h
      rw [State.beginProbe, State.issue, updChan_updChan, updChan_updChan]
      refine updChan_congr t c ?_
      simp [Channel.probed, h]
      rfl
    · rename_i h
      refine updChan_congr t c ?_
      simp [Channel.probed, h]
  have hfold : ∀ (l : List ChannelNo) (t : State), t.now = s.now → t.cleared = s.cleared →
      l.foldl (fun t c => let u := t.updChan c fun ch => { ch with probePending := true }
        if (u.chan c).op.isNone && !u.cleared then u.beginProbe c else u) t
      = l.foldl (fun t c => t.updChan c (Channel.probed s.now s.cleared)) t := by
    intro l
    induction l with
    | nil => exact fun _ _ _ => rfl
    | cons c rest ih =>
      intro t hn hc
      rw [List.foldl_cons, List.foldl_cons, hstep t c, hn, hc]
      exact ih _ hn hc
  exact hfold channels s rfl rfl

end Sys2Proof.Machine


/-! SUPPORT. The configuration image (R21, R33, R128, R131, R169, R171). -/

namespace Sys2Proof.Bytes

theorem value_lt (l : List Byte) : value l < 256 ^ l.length := by
  induction l with
  | nil => simp [value]
  | cons b rest ih =>
    rw [value_cons, List.length_cons, pow_succ]
    have hb : b.toNat * 256 ^ rest.length ≤ 255 * 256 ^ rest.length := Nat.mul_le_mul_right _ (by have := b.isLt; omega)
    omega

theorem field_lt (l : List Byte) (off n : Nat) : field l off n < 256 ^ n := by
  have hlen : (slice l off n).length ≤ n := by simp [slice]
  exact (value_lt _).trans_le (Nat.pow_le_pow_right (by decide) hlen)

theorem byteAt_eq_getElem {l : List Byte} {i : Nat} (h : i < l.length) : byteAt l i = l[i].toNat := by
  rw [byteAt, field, slice, List.drop_eq_getElem_cons h, List.take_succ_cons, List.take_zero]
  simp only [value, List.foldl, Nat.zero_mul, Nat.zero_add]

/-- The sum of an image's sixteen-bit words, word by word. -/
theorem wordSum_eq (n : Nat) (l : List Byte) (h : l.length = 2 * n) :
    wordSum l = ((List.range n).map fun i => field l (2 * i) 2).sum := by
  induction n generalizing l with
  | zero => rw [List.length_eq_zero_iff.mp h]; rfl
  | succ n ih =>
    match l, h with
    | a :: b :: rest, h =>
      have hrest : rest.length = 2 * n := by simp at h; omega
      have hfirst : field (a :: b :: rest) (2 * 0) 2 = a.toNat * 256 + b.toNat := by simp [field, slice, value]
      have hnext : ∀ i, field (a :: b :: rest) (2 * (i + 1)) 2 = field rest (2 * i) 2 := fun _ => rfl
      rw [wordSum, ih rest hrest, List.range_succ_eq_map, List.map_cons, List.map_map, List.sum_cons, hfirst]
      rfl

end Sys2Proof.Bytes

namespace Sys2Proof.Machine

open Bytes

/-- The bridges an image lists, byte by byte, where it holds them. -/
theorem imageBridges_eq {image : List Byte} (h : byteAt image 0 < image.length) : imageBridges image =
    (List.range (byteAt image 0)).map fun i => BitVec.ofNat 4 (byteAt image (1 + i)) := by
  refine List.ext_getElem (by simp [imageBridges, slice]; omega) fun i h1 h2 => ?_
  have hi : i < byteAt image 0 := by simpa using h2
  simp only [imageBridges, slice, List.getElem_map, List.getElem_take, List.getElem_drop, List.getElem_range]
  have hbyte := byteAt_eq_getElem (l := image) (i := 1 + i) (by omega)
  apply BitVec.eq_of_toNat_eq
  rw [BitVec.toNat_ofNat, hbyte]
  simp

/-- The image passes R169's tests, in the statement's words. -/
theorem imageGood_iff (image : List Byte) : imageGood image = true ↔
    image.length = 64 ∧ ((List.range 32).map fun i => field image (2 * i) 2).sum % 65536 = 0xA55A
      ∧ 1 ≤ field image 0 1 ∧ field image 0 1 ≤ 4
      ∧ ((List.range (field image 0 1)).map fun i => (BitVec.ofNat 4 (field image (1 + i) 1) : Station)).Nodup
      ∧ BitVec.ofNat 4 (field image 5 1) ∈ ((List.range (field image 0 1)).map fun i => BitVec.ofNat 4 (field image (1 + i) 1))
      ∧ BitVec.ofNat 16 (field image 12 2) ≠ 0 ∧ (BitVec.ofNat 16 (field image 8 2)).toNat ≤ 16383 := by
  have hcap : BitVec.ofNat 16 (field image 12 2) ≠ 0 ↔ field image 12 2 ≠ 0 := by
    have h : field image 12 2 % 2 ^ 16 = field image 12 2 := Nat.mod_eq_of_lt (field_lt image 12 2)
    rw [Ne, ← BitVec.toNat_inj, BitVec.toNat_ofNat, h]
    rfl
  have hlead : (BitVec.ofNat 16 (field image 8 2)).toNat = field image 8 2 := by
    rw [BitVec.toNat_ofNat]
    exact Nat.mod_eq_of_lt (field_lt image 8 2)
  rw [hcap, hlead]
  simp only [imageGood, Bool.and_eq_true, beq_iff_eq, decide_eq_true_eq, and_assoc, bne_iff_ne, List.contains_iff_mem]
  by_cases hlen : image.length = 64
  · by_cases hcount : field image 0 1 ≤ 4
    · rw [imageBridges_eq (image := image) (by rw [hlen]; exact Nat.lt_of_le_of_lt hcount (by decide)),
        wordSum_eq 32 image (by rw [hlen])]
      rfl
    · exact ⟨fun h => absurd h.2.2.2.1 hcount, fun h => absurd h.2.2.2.1 hcount⟩
  · exact ⟨fun h => absurd h.1 hlen, fun h => absurd h.1 hlen⟩

theorem initialInterval_eq (code : BitVec 2) : initialInterval code =
    if code = 0 then 1451 else if code = 1 then 1333 else if code = 2 then 726 else 667 := by
  revert code; decide

/-- A good image in a part with no operation in progress and no counted CLEAR: every probe begins. -/
theorem takeImage_idle (image : List Byte) {s : State} (hc : s.cleared = false) (hop : ∀ ch : ChannelNo, (s.chan ch).op = none) :
    s.takeImage image = { s.imageTaken image with
      fetch := { s.fetch with channels := s.fetch.channels.map fun ch =>
        { ch with offline := false, probePending := false, timeouts := 0, pageCount := none
                  op := some { kind := .probe 1, issued := s.now } } } } := by
  rw [takeImage_eq, probeAll_eq]
  refine state_eq_of_chan _ (fun d => ?_) rfl
  have hchan : ((s.imageTaken image).chan d) = s.chan d := rfl
  have hcl : (s.imageTaken image).cleared = false := hc
  rw [chan_onFetch_map, hchan, hcl]
  simp only [Channel.probed, hop, Option.isNone_none, Bool.not_false, Bool.and_self, if_true]
  simp [State.chan]
  rfl

theorem ran_succ_iff (s : State) (t : Time) (span : Nat) : s.ran t (span + 1) = true ↔ (span : Int) < signedDiff s.now t := by
  unfold State.ran
  rw [decide_eq_true_iff]
  omega

theorem ran_iff (s : State) (t : Time) (span : Nat) : s.ran t span = true ↔ (span : Int) ≤ signedDiff s.now t := by
  unfold State.ran
  rw [decide_eq_true_iff]

/-- CONFIG_IMAGE_READ in CONFIG-LOAD with an image taken. -/
theorem execConfigImageRead_good {dt : Micros} {image : List Byte} {s : State} (hp : s.status.phase = .configLoad)
    (hg : imageGood image = true) (hl : ¬ (10000 : Int) < signedDiff (s.clock.localTime + dt) 0) :
    Result.Gives (exec (.configImageRead dt image) s) ((s.elapse dt).takeImage image) := by
  have hran : (s.elapse dt).ran 0 (Config.configTimeout + 1) = false := 
    Bool.eq_false_iff.mpr fun h => hl ((ran_succ_iff (s.elapse dt) 0 Config.configTimeout).mp h)
  refine command_gives_of_eq ?_
  rw [if_pos (show (s.elapse dt).status.phase = .configLoad from hp), hg, hran]
  rfl

/-- CONFIG_IMAGE_READ in CONFIG-LOAD with a bad image, or a late one. -/
theorem execConfigImageRead_bad {dt : Micros} {image : List Byte} {s : State} (hp : s.status.phase = .configLoad)
    (hbad : imageGood image ≠ true ∨ (10000 : Int) < signedDiff (s.clock.localTime + dt) 0) :
    Result.Gives (exec (.configImageRead dt image) s) (s.elapse dt).enterUnconfigured := by
  have hcond : (imageGood image && !(s.elapse dt).ran 0 (Config.configTimeout + 1)) = false := by
    rcases hbad with h | h
    · simp [Bool.eq_false_iff.mpr h]
    · rw [(ran_succ_iff (s.elapse dt) 0 Config.configTimeout).mpr h]
      simp
  refine command_gives_of_eq ?_
  rw [if_pos (show (s.elapse dt).status.phase = .configLoad from hp), hcond]
  rfl

/-- Settles O17: R169's tests by bytes, and the two outcomes of each command. -/
theorem configImageJudged : Obligations.ConfigImageJudged := by
  intro dt image s hp at' fields interval good late
  have hgood : imageGood image = true ↔ good := imageGood_iff image
  refine ⟨fun hg hl hc hop => ?_, fun hbad => ?_, fun hran => ?_⟩
  · have hbridges : imageBridges image = fields.bridges := imageBridges_eq (by
      obtain ⟨hlen, -, -, hcount, -⟩ := hg
      rw [hlen]
      exact Nat.lt_of_le_of_lt hcount (by decide))
    have hfields : imageFields image = fields := by
      rw [imageFields, hbridges]
      rfl
    have hinterval : initialInterval fields.rateCode = interval := initialInterval_eq _
    have h := execConfigImageRead_good (dt := dt) hp (hgood.mpr hg) hl
    rw [takeImage_idle image (s := s.elapse dt) hc hop, State.imageTaken, hfields, hinterval] at h
    exact h
  · exact execConfigImageRead_bad hp (hbad.imp_left (mt hgood.mp))
  · refine command_gives_of_eq ?_
    rw [if_pos ⟨show (s.elapse dt).status.phase = .configLoad from hp, (ran_iff (s.elapse dt) 0 Config.configTimeout).mpr hran⟩]
    rfl

end Sys2Proof.Machine


/-! SUPPORT. A channel with nothing waiting, and the probes (R122, R123, R127, R128). -/

namespace Sys2Proof.Machine

/-! ### A channel with nothing waiting -/

section
variable {s : State} {c : ChannelNo}

theorem directoryWaits_of_load (h : s.dir.load = none) : s.directoryWaits c = false := by
  unfold State.directoryWaits
  rw [h]

theorem takeWaitingPage_of_load (h : s.dir.load = none) : s.takeWaitingPage c = s := by
  unfold State.takeWaitingPage
  rw [directoryWaits_of_load h, if_neg (by decide)]

theorem waitingProgram_of_program (h : s.dir.program = none) : s.waitingProgram c = none := by
  unfold State.waitingProgram
  rw [h]

theorem readNext_of_none (h : (s.chan c).nextFetch s.margin = none) : s.readNext c = (s, none) := by
  unfold State.readNext
  rw [h]

theorem chooseFetch_of_read {t : State} (h : s.readNext c = (t, none)) (fuel : Nat) : s.chooseFetch c (fuel + 1) = t := by
  rw [State.chooseFetch, h]

theorem nextFetch_of_queue {ch : Channel} {margin : Nat} (h : ch.queue = []) : ch.nextFetch margin = none := by
  simp [Channel.nextFetch, Channel.partials, h]

theorem chooseFetches_of_queue (h : (s.chan c).queue = []) : s.chooseFetches c = s :=
  chooseFetch_of_read (readNext_of_none (nextFetch_of_queue h)) _

theorem choose_idle (hp : s.dir.program = none) (hl : s.dir.load = none) (hq : (s.chan c).queue = []) : s.choose c = s := by
  unfold State.choose
  rw [waitingProgram_of_program hp]
  simp only [takeWaitingPage_of_load hl, chooseFetches_of_queue hq, ite_self]

/-- A channel out of OFFLINE with nothing waiting does nothing more. -/
theorem afterOperation_idle (hprobe : (s.chan c).probePending = false) (hoff : (s.chan c).offline = false)
    (hp : s.dir.program = none) (hl : s.dir.load = none) (hq : (s.chan c).queue = []) : s.afterOperation c = s := by
  unfold State.afterOperation
  simp [hprobe, hoff, choose_idle hp hl hq]

theorem goOffline_of_queue (hq : (s.chan c).queue = []) : s.goOffline c = s.updChan c fun ch =>
    { ch with offline := true, op := none, queue := []
              counts := { ch.counts with offlineEntries := inc ch.counts.offlineEntries } } := by
  unfold State.goOffline
  rw [hq]
  rfl

end

/-! ### The probed extent (R127) -/

/-- P is one of the ends of the answering channels, and no end is lower. -/
theorem probedExtent_is (s : State) : s.ExtentIs s.probedExtent := by
  let ends := channels.filterMap fun c => (s.chan c).pageCount.map fun n => 8 * (n / 3) + c.val
  have hmem : ∀ x, x ∈ ends ↔ ∃ (c : ChannelNo) (n : Nat), (s.chan c).pageCount = some n ∧ 8 * (n / 3) + c.val = x := by
    intro x
    simp only [ends, List.mem_filterMap, Option.map_eq_some_iff]
    exact ⟨fun ⟨c, _, n, h⟩ => ⟨c, n, h⟩, fun ⟨c, n, h⟩ => ⟨c, (by decide : ∀ c : ChannelNo, c ∈ channels) c, n, h⟩⟩
  have hext : s.probedExtent = ends.min?.getD 0 := rfl
  refine ⟨fun hnone => ?_, fun ⟨c, hc⟩ => ?_⟩
  · have : ends = [] := List.eq_nil_iff_forall_not_mem.mpr fun x hx => by
      obtain ⟨c, n, h, -⟩ := (hmem x).mp hx
      rw [hnone c] at h; cases h
    rw [hext, this]; rfl
  · obtain ⟨n, hn⟩ := Option.ne_none_iff_exists'.mp hc
    obtain ⟨p, hp⟩ : ∃ p, ends.min? = some p := by
      cases h : ends.min? with
      | some p => exact ⟨p, rfl⟩
      | none => exact absurd ((hmem _).mpr ⟨c, n, hn, rfl⟩) (by rw [List.min?_eq_none_iff.mp h]; simp)
    obtain ⟨hpmem, hple⟩ := List.min?_eq_some_iff.mp hp
    rw [hext, hp, Option.getD_some]
    refine ⟨fun a ha m hm => ?_, ?_⟩
    · have := hple _ ((hmem _).mpr ⟨_, m, hm, rfl⟩)
      simp only [channelOf] at this
      unfold channelPage
      omega
    · obtain ⟨d, m, hm, rfl⟩ := (hmem p).mp hpmem
      have hd : channelOf (8 * (m / 3) + d.val) = d := by
        have := d.isLt
        exact Fin.ext (by simp only [channelOf]; omega)
      refine ⟨m, by rwa [hd], ?_⟩
      unfold channelPage
      have := d.isLt
      omega

/-- The end of a channel's probe while another is pending or in progress. -/
theorem probeFinished_of_probing {s : State} {c : ChannelNo} (h : (s.chan c).probing = true) : s.probeFinished = s := by
  refine if_neg fun hd => ?_
  have := List.all_eq_true.mp hd c ((by decide : ∀ c : ChannelNo, c ∈ channels) c)
  rw [h] at this
  cases this

/-- The end of the last probe. -/
theorem probeFinished_of_last {s : State} (h : ∀ c, (s.chan c).probing = false) : s.probeFinished =
    { s with fetch := { s.fetch with extent := s.probedExtent }
             status := { s.status with phase := if s.status.phase = .probe then .directoryLoad else s.status.phase } } :=
  if_pos (List.all_eq_true.mpr fun c _ => by simp [h c])

theorem probing_of_idle {ch : Channel} (hop : ch.op = none) (hp : ch.probePending = false) : ch.probing = false := by
  simp [Channel.probing, hop, hp]

theorem probeFinished_plain (v : State) : v.probeFinished.plain = v.plain.probeFinished := by
  unfold State.probeFinished
  have h : v.plain.probesDone = v.probesDone := rfl
  rw [h]
  split <;> rfl

/-- An outcome that settles one state settles every state that is equal to it but for the standing conditions. -/
theorem Result.Gives.of_plain {o : Result} {u e : State} (h : Result.Gives o u) (hp : u.plain = e.plain) : Result.Gives o e := by
  obtain ⟨t, ho, ht⟩ := h
  exact ⟨t, ho, ht.of_plain hp⟩

/-- What the end of a channel's probe gives, by the probes of the others. -/
theorem finished_gives {cmd : Instr} {s u v : State} {ch : ChannelNo} (h : Result.Gives (exec cmd s) v.probeFinished)
    (hv : v.plain = u.plain) (hother : ∀ c, c ≠ ch → u.chan c = s.chan c) (hch : (u.chan ch).probing = false)
    (hst : u.status = s.status) :
    ((∃ c, c ≠ ch ∧ (s.chan c).probing = true) → Result.Gives (exec cmd s) u)
      ∧ ((∀ c, c ≠ ch → (s.chan c).probing = false) → ∃ p, u.ExtentIs p ∧ Result.Gives (exec cmd s)
          { u with fetch := { u.fetch with extent := p }
                   status := { s.status with phase :=
                     if s.status.phase = .probe then .directoryLoad else s.status.phase } }) := by
  have h : Result.Gives (exec cmd s) u.probeFinished := h.of_plain (by rw [probeFinished_plain, hv, probeFinished_plain])
  refine ⟨fun ⟨c, hc, hp⟩ => ?_, fun hp => ⟨_, probedExtent_is u, ?_⟩⟩
  · rwa [probeFinished_of_probing (c := c) (by rwa [hother c hc])] at h
  · rw [probeFinished_of_last fun c => ?_, hst] at h
    · exact h
    · by_cases hc : c = ch
      · rw [hc, hch]
      · rw [hother c hc, hp c hc]

/-! ### The attempts -/

theorem answerLate_elapse_iff (dt : Micros) (s : State) (op : Operation) :
    (s.elapse dt).answerLate op = true ↔ 2000 < signedDiff (s.clock.localTime + dt) op.issued :=
  answerLate_iff (s.elapse dt) op

theorem answerLate_elapse_false {dt : Micros} {s : State} {op : Operation}
    (h : signedDiff (s.clock.localTime + dt) op.issued ≤ 2000) : (s.elapse dt).answerLate op = false :=
  Bool.eq_false_iff.mpr fun hl => absurd ((answerLate_elapse_iff dt s op).mp hl) (not_lt.mpr h)

section
variable {dt : Micros} {ch : ChannelNo} {pages attempt : Nat} {issued : Time} {s : State}

theorem probeOn_of_op (h : (s.chan ch).op = some { kind := .probe attempt, issued := issued }) :
    (s.elapse dt).probeOn ch = some { kind := .probe attempt, issued := issued } := by
  have h' : ((s.elapse dt).chan ch).op = some { kind := .probe attempt, issued := issued } := h
  unfold State.probeOn
  rw [h']

theorem execGeometryReadAnswer_inTime (h : (s.chan ch).op = some { kind := .probe attempt, issued := issued })
    (ht : signedDiff (s.clock.localTime + dt) issued ≤ 2000) : Result.Gives (exec (.geometryReadAnswer dt ch pages) s)
      ((s.elapse dt).attemptAnswered ch (.probe attempt) pages) := by
  have hlate : (s.elapse dt).answerLate { kind := .probe attempt, issued := issued } = false := answerLate_elapse_false ht
  show Result.Gives (execGeometryReadAnswer dt ch pages s) _
  unfold execGeometryReadAnswer
  refine command_gives_of_eq ?_
  rw [probeOn_of_op h]
  exact if_neg (Bool.eq_false_iff.mp hlate)

theorem execGeometryReadTimeout_due (h : (s.chan ch).op = some { kind := .probe attempt, issued := issued })
    (ht : 2000 ≤ signedDiff (s.clock.localTime + dt) issued) : Result.Gives (exec (.geometryReadTimeout dt ch) s)
      ((s.elapse dt).attemptTimedOut ch (.probe attempt)) := by
  have hran : (s.elapse dt).ran issued Config.pageTimeout = true := (ran_iff (s.elapse dt) issued Config.pageTimeout).mpr ht
  show Result.Gives (execGeometryReadTimeout dt ch s) _
  unfold execGeometryReadTimeout
  refine command_gives_of_eq ?_
  rw [probeOn_of_op h]
  exact if_pos hran

/-- The timeout of a probe's attempt, at its own command or at an answer too late. -/
theorem attemptTimedOut_gives (h : (s.chan ch).op = some { kind := .probe attempt, issued := issued }) {cmd : Instr}
    (hcmd : (cmd = .geometryReadTimeout dt ch ∧ 2000 ≤ signedDiff (s.clock.localTime + dt) issued)
      ∨ (cmd = .geometryReadAnswer dt ch pages ∧ 2000 < signedDiff (s.clock.localTime + dt) issued)) :
    Result.Gives (exec cmd s) ((s.elapse dt).attemptTimedOut ch (.probe attempt)) := by
  rcases hcmd with ⟨rfl, ht⟩ | ⟨rfl, ht⟩
  · exact execGeometryReadTimeout_due h ht
  · have hlate : (s.elapse dt).answerLate { kind := .probe attempt, issued := issued } = true := (answerLate_iff _ _).mpr ht
    have := execGeometryReadTimeout_due (dt := dt) h ht.le
    rwa [← show execGeometryReadAnswer dt ch pages s = exec (.geometryReadTimeout dt ch) s from
      execGeometryReadAnswer_late pages (probeOn_of_op h) hlate] at this

theorem attemptAnswered_idle (hprobe : (s.chan ch).probePending = false) (hoff : (s.chan ch).offline = false)
    (hp : s.dir.program = none) (hl : s.dir.load = none) (hq : (s.chan ch).queue = []) :
    s.attemptAnswered ch (.probe attempt) pages =
      (s.updChan ch fun k => { k with op := none, pageCount := some pages }).probeFinished := by
  unfold State.attemptAnswered State.endOp
  rw [if_neg (by simp), updChan_updChan,
    afterOperation_idle (by simpa using hprobe) (by simpa using hoff) (by exact hp) (by exact hl) (by simpa using hq)]

theorem attemptTimedOut_again (h : attempt < 3) : s.attemptTimedOut ch (.probe attempt) = s.updChan ch fun k =>
    { k with counts := { k.counts with probeFailures := inc k.counts.probeFailures }
             op := some { kind := .probe (attempt + 1), issued := s.now } } := by
  unfold State.attemptTimedOut State.countChan State.issue
  simp only [if_pos h, updChan_updChan]
  rfl

theorem attemptTimedOut_third (h : 3 ≤ attempt) : s.attemptTimedOut ch (.probe attempt) =
    (s.countChan ch fun k => { k with probeFailures := inc k.probeFailures }).probeFailed ch := by
  unfold State.attemptTimedOut
  exact if_neg (by omega)

theorem probeFailed_idle (hl : s.dir.load = none) (hq : (s.chan ch).queue = []) : s.probeFailed ch =
    (s.updChan ch fun k => { k with op := none, offline := true, pageCount := none
                                    counts := { k.counts with offlineEntries := inc k.counts.offlineEntries } }).updateFault.probeFinished := by
  unfold State.probeFailed State.enterOffline
  rw [goOffline_of_queue (by simpa using hq), updChan_updChan, takeWaitingPage_of_load (by exact hl)]
  congr 2
  refine updChan_congr s ch ?_
  rw [← hq]

end

/-- Settles O18: each outcome of an attempt, with nothing waiting on the channel, and the end of the last probe. -/
theorem probesRunAndEnd : Obligations.ProbesRunAndEnd := by
  intro dt ch pages attempt issued s hop failed finished waited
  refine ⟨fun ht hq hprobe hoff hc hl hp => ?_, fun cmd hcmd => ⟨fun hn => ?_, fun hn hq hprobe hl => ?_⟩⟩
  · have h := execGeometryReadAnswer_inTime (pages := pages) hop ht
    rw [attemptAnswered_idle (by exact hprobe) (by exact hoff) (by exact hp) (by exact hl) (by exact hq)] at h
    exact finished_gives h rfl (fun c hc => chan_updChan_other _ hc _) (by rw [chan_updChan_self]; exact probing_of_idle rfl hprobe) rfl
  · have h := attemptTimedOut_gives hop hcmd
    rwa [attemptTimedOut_again hn] at h
  · have h := attemptTimedOut_gives hop hcmd
    rw [attemptTimedOut_third hn, probeFailed_idle (by exact hl) (by simpa [State.countChan] using hq)] at h
    refine finished_gives h ?_ (fun c hc => chan_updChan_other _ hc _) (by rw [chan_updChan_self]; exact probing_of_idle rfl hprobe) rfl
    rw [State.countChan, updChan_updChan]
    rfl

end Sys2Proof.Machine


/-! SUPPORT. Frames addressed to the 7240 in SERVICE, and the library's writing (R14 to R18, R154, R155). -/

namespace Sys2Proof.Machine

/-! ### The outcome of a frame -/

/-- The state in which the owner of a frame's kind decides on it. -/
def State.judging (s : State) (dt : Micros) (frame : List Byte) : State := ((s.elapse dt).received frame).boundary

/-- A judged frame gives what its owner's decision makes, the slot following with it. -/
theorem addressed_gives {s e : State} {dt : Micros} {frame : List Byte} (h : s.judgesAddressed frame)
    {owner : State → State × Bool} {r : State × Bool} (hr : owner (s.judging dt frame) = r)
    (he : (r.1.enterBus (.ackSlot r.2)).plain = e.plain) :
    Result.Gives (s.command dt (State.addressedFrame frame owner)) e := by
  refine command_gives_of_plain ?_
  rw [addressedFrame_judged (s := s.elapse dt) h owner]
  exact hr ▸ he

/-- Settles O26: the decision's conditions, and the bus in ACK SLOT with it. -/
theorem serviceEnteredAndLeft : Obligations.ServiceEnteredAndLeft := by
  intro dt src frame s h
  refine ⟨fun hp hc hs => ?_, fun hp hs => ⟨?_, ?_⟩, fun h1 h2 => ?_, fun h2 => ?_⟩
  · exact addressed_gives (r := ((s.judging dt frame).enterService src, true)) h (if_pos ⟨hp, hc, hs⟩) rfl
  · refine addressed_gives (r := (s.judging dt frame, true)) h ?_ rfl
    exact (if_neg fun h' => by have := hp.symm.trans h'.1; cases this).trans (if_pos ⟨hp, hs⟩)
  · exact addressed_gives h (if_pos ⟨hp, hs⟩) rfl
  · exact addressed_gives h ((if_neg h1).trans (if_neg h2)) rfl
  · exact addressed_gives h (if_neg h2) rfl

/-- Settles O27: the decision's conditions, and the bus in ACK SLOT with it. -/
theorem storeQueued : Obligations.StoreQueued := by
  intro dt src address data frame s h cmd accepts
  refine ⟨fun hs ha => ?_, fun hs ha => ?_, fun hs => ?_⟩
  · exact addressed_gives h ((if_neg (not_not.mpr hs)).trans (if_pos ha)) rfl
  · exact addressed_gives h ((if_neg (not_not.mpr hs)).trans (if_neg ha)) rfl
  · exact addressed_gives h (if_pos hs) rfl

/-! ### Requests taken (R17) -/

theorem bars_iff (s : State) (a : Nat) : (s.dir.layout.map fun l => l.bars a) = some true ↔
    ∃ l, s.dir.layout = some l ∧ a < l.blocks ∧ l.recordBlocks < a := by
  simp [StoreLayout.bars]

/-- STORE_TAKEN with a request at hand and nothing in its way takes the oldest. -/
theorem execStoreTaken_gives {dt : Micros} {request : StoreRequest} {rest : List StoreRequest} {s e : State}
    (hq : s.dir.storeQueue = request :: rest) (hp : s.dir.program = none)
    (hn : (s.bus.notices.filter Notice.isStored).length < 4) (he : (s.elapse dt).takeRequest request rest = e) :
    Result.Gives (exec (.storeTaken dt) s) e := by
  show Result.Gives (execStoreTaken dt s) _
  unfold execStoreTaken
  refine command_gives_of_eq ?_
  have hq' : (s.elapse dt).dir.storeQueue = request :: rest := hq
  rw [hq']
  exact (if_pos ⟨hp, hn⟩).trans he

theorem takeRequest_answered {request : StoreRequest} {rest : List StoreRequest} {s : State} {o : StoreOutcome}
    (h : s.judgeStore request.address.toNat = some o) : s.takeRequest request rest =
      (s.onDir fun d => { d with storeQueue := rest }).answerStore request false o := by
  rw [State.takeRequest, h]

theorem takeRequest_begun {request : StoreRequest} {rest : List StoreRequest} {s : State}
    (h : s.judgeStore request.address.toNat = none) : s.takeRequest request rest = s.onDir fun d =>
      { d with storeQueue := rest, program := some { request := request, stage := .waiting, silent := false } } := by
  rw [State.takeRequest, h]
  rfl

/-- Settles O28: R17's table in its order. -/
theorem storeTakenJudged : Obligations.StoreTakenJudged := by
  intro dt request rest s hq hp hn a barred answered
  refine ⟨fun h => ?_, fun ha hb hoff => ?_, fun ha hb hoff => ?_⟩
  · refine execStoreTaken_gives hq hp hn (takeRequest_answered (o := .badAddress) (s := s.elapse dt) ?_)
    rcases h with h | h
    · exact if_pos h
    · exact (ite_congr rfl (fun _ => rfl) fun _ => if_pos ((bars_iff s a).mpr h)).trans (ite_self _)
  · refine execStoreTaken_gives hq hp hn (takeRequest_answered (o := .programFailed) (s := s.elapse dt) ?_)
    exact (if_neg (Nat.not_le.mpr ha)).trans ((if_neg (mt (bars_iff s a).mp hb)).trans (if_pos hoff))
  · refine execStoreTaken_gives hq hp hn (takeRequest_begun (s := s.elapse dt) ?_)
    exact (if_neg (Nat.not_le.mpr ha)).trans ((if_neg (mt (bars_iff s a).mp hb)).trans
      (if_neg (Bool.eq_false_iff.mp hoff)))

/-! ### Programs (R17, R18) -/

section
variable {dt : Micros} {p : Program} {s : State} {write : FlashWrite} {issued : Time} {c : ChannelNo}

theorem programOperation_eq (hp : s.dir.program = some p)
    (hop : (s.chan (channelOf p.request.address.toNat)).op = some { kind := .program write, issued := issued }) :
    s.programOperation = some (p, { kind := .program write, issued := issued }) := by
  unfold State.programOperation
  simp only [hp, hop]

/-- A program with the command that brings its next operation's success in time. -/
theorem programSuccess_gives {e : State} (hp : s.dir.program = some p)
    (hop : (s.chan (channelOf p.request.address.toNat)).op = some { kind := .program write, issued := issued })
    (ht : signedDiff (s.clock.localTime + dt) issued ≤ 2000) (he : (s.elapse dt).nextOperation p = e) :
    Result.Gives (exec (.programOperationComplete dt true) s) e := by
  have hlate : (s.elapse dt).answerLate { kind := .program write, issued := issued } = false := answerLate_elapse_false ht
  show Result.Gives (execProgramOperationComplete dt true s) _
  unfold execProgramOperationComplete
  refine command_gives_of_eq ?_
  rw [programOperation_eq (s := s.elapse dt) hp hop]
  simp only [hlate]
  exact he

/-- The three commands by which a program fails. -/
theorem programFailure_gives {e : State} (hp : s.dir.program = some p)
    (hop : (s.chan (channelOf p.request.address.toNat)).op = some { kind := .program write, issued := issued })
    (he : (s.elapse dt).endProgram p .programFailed = e) :
    Result.Gives (exec (.programOperationComplete dt false) s) e
    ∧ (2000 < signedDiff (s.clock.localTime + dt) issued → Result.Gives (exec (.programOperationComplete dt true) s) e)
    ∧ (2000 ≤ signedDiff (s.clock.localTime + dt) issued → Result.Gives (exec (.programTimeout dt) s) e) := by
  have hop' := programOperation_eq (s := s.elapse dt) hp hop
  refine ⟨?_, fun ht => ?_, fun ht => ?_⟩
  · show Result.Gives (execProgramOperationComplete dt false s) _
    unfold execProgramOperationComplete
    refine command_gives_of_eq ?_
    rw [hop']
    exact he
  · have hlate : (s.elapse dt).answerLate { kind := .program write, issued := issued } = true := (answerLate_iff _ _).mpr ht
    show Result.Gives (execProgramOperationComplete dt true s) _
    unfold execProgramOperationComplete
    refine command_gives_of_eq ?_
    rw [hop']
    simp only [hlate]
    exact he
  · show Result.Gives (execProgramTimeout dt s) _
    unfold execProgramTimeout
    refine command_gives_of_eq ?_
    rw [hop']
    exact (if_pos ((ran_iff (s.elapse dt) issued Config.pageTimeout).mpr ht)).trans he

/-- A channel of a program that a CLEAR has silenced, after the program's end: its pending probe begins where no counted
CLEAR is asserted. -/
def Channel.afterSilent (now : Time) (cleared : Bool) (k : Channel) : Channel :=
  if cleared = false ∧ k.probePending = true then
    { k with op := some { kind := .probe 1, issued := now }
             offline := false, probePending := false, timeouts := 0, pageCount := none }
  else { k with op := none }

theorem afterSilent_of_ended (now : Time) (cleared : Bool) (k : Channel) :
    Channel.afterSilent now cleared { k with op := none } = Channel.afterSilent now cleared k := rfl

/-- After the program's end its channel waits, or its pending probe begins, or it finds nothing to do. -/
theorem afterOperation_silent (hop : (s.chan c).op = none)
    (h : s.cleared = true ∨ (s.chan c).probePending = true
      ∨ (s.dir.load = none ∧ (s.chan c).queue = [] ∧ (s.chan c).offline = false)) (hp : s.dir.program = none) :
    s.afterOperation c = s.updChan c (Channel.afterSilent s.now s.cleared) := by
  unfold State.afterOperation
  by_cases hc : s.cleared = true
  · rw [if_pos hc, updChan_id]
    rw [Channel.afterSilent, if_neg (by simp [hc]), ← hop]
  have hc : s.cleared = false := Bool.eq_false_iff.mpr hc
  rw [if_neg (by simp [hc])]
  by_cases hpr : (s.chan c).probePending = true
  · rw [if_pos hpr, State.beginProbe, State.issue, updChan_updChan]
    refine updChan_congr s c ?_
    simp [Channel.afterSilent, hc, hpr]
    rfl
  · obtain ⟨hl, hq, hoff⟩ := (h.resolve_left (by simp [hc])).resolve_left hpr
    rw [if_neg hpr, if_neg (by simp [hoff]), choose_idle hp hl hq, updChan_id]
    rw [Channel.afterSilent, if_neg (by simp [hpr]), ← hop]

theorem endProgram_silent {o : StoreOutcome} (hs : p.silent = true)
    (h : s.cleared = true ∨ (s.chan (channelOf p.request.address.toNat)).probePending = true
      ∨ (s.dir.load = none ∧ (s.chan (channelOf p.request.address.toNat)).queue = []
        ∧ (s.chan (channelOf p.request.address.toNat)).offline = false)) :
    s.endProgram p o = ((s.onDir fun d => { d with program := none, counts := d.counts.countOutcome o }).updChan
      (channelOf p.request.address.toNat) (Channel.afterSilent s.now s.cleared)) := by
  have hcon : (s.endOp (channelOf p.request.address.toNat)).concludeProgram p o =
      (s.onDir fun d => { d with program := none, counts := d.counts.countOutcome o }).endOp
        (channelOf p.request.address.toNat) := by
    unfold State.concludeProgram State.answerStore State.layoutFromStore
    rw [if_neg (by simp [hs]), if_pos hs]
    rfl
  unfold State.endProgram
  dsimp only
  rw [hcon, afterOperation_silent (by simp [State.endOp]) (by simp only [State.endOp, chan_updChan_self]; exact h) rfl,
    State.endOp, updChan_updChan]
  simp only [afterSilent_of_ended]
  rfl

/-- A program that no CLEAR has silenced ends with its notice, on a channel with nothing waiting. -/
theorem endProgram_idle {o : StoreOutcome} (hs : p.silent = false) (hl : s.dir.load = none)
    (hq : (s.chan (channelOf p.request.address.toNat)).queue = [])
    (hpr : (s.chan (channelOf p.request.address.toNat)).probePending = false)
    (hoff : (s.chan (channelOf p.request.address.toNat)).offline = false) :
    s.endProgram p o = (((s.onDir fun d => { d with
        program := none, counts := d.counts.countOutcome o
        layout := if o = .written ∧ p.request.address.toNat = 0 then some (layoutOf (takeHeader s.fetch.extent p.request.data))
          else d.layout }).onBus fun b => { b with
        notices := b.notices ++ [.stored p.request.station p.request.address o] }).endOp
      (channelOf p.request.address.toNat)) := by
  have hcon : (s.endOp (channelOf p.request.address.toNat)).concludeProgram p o =
      (((s.onDir fun d => { d with
        program := none, counts := d.counts.countOutcome o
        layout := if o = .written ∧ p.request.address.toNat = 0 then some (layoutOf (takeHeader s.fetch.extent p.request.data))
          else d.layout }).onBus fun b => { b with
        notices := b.notices ++ [.stored p.request.station p.request.address o] }).endOp
      (channelOf p.request.address.toNat)) := by
    unfold State.concludeProgram State.answerStore State.layoutFromStore
    have ha : p.request.address = 0 ↔ p.request.address.toNat = 0 := BitVec.toNat_inj.symm
    simp only [hs, ha, and_true, Bool.false_eq_true, if_false]
    split <;> rfl
  unfold State.endProgram
  dsimp only
  rw [hcon, afterOperation_idle]
  · simpa [State.endOp] using hpr
  · simpa [State.endOp] using hoff
  · rfl
  · exact hl
  · simpa [State.endOp] using hq

end

/-- Settles O29: the stages in their order, and the two ways a program ends. -/
theorem programRunsAndEnds : Obligations.ProgramRunsAndEnds := by
  intro dt p write issued s hp a ch goesOn page ended failed
  refine ⟨fun hst hop hoff hpr hc => ?_, fun hop => ?_⟩
  · show Result.Gives (execProgramBegin dt s) _
    unfold execProgramBegin
    refine command_gives_of_eq ?_
    have hp' : (s.elapse dt).dir.program = some p := hp
    have hopen : (s.elapse dt).channelOpen (channelOf p.request.address.toNat) = true := by
      have hop' : (s.chan (channelOf p.request.address.toNat)).op = none := hop
      have hpr' : (s.chan (channelOf p.request.address.toNat)).probePending = false := hpr
      have hc' : (s.elapse dt).cleared = false := hc
      simp [State.channelOpen, hop', hpr', hc']
    rw [hp']
    exact (if_pos hst).trans ((if_neg (Bool.eq_false_iff.mp hoff)).trans (if_pos hopen))
  intro waited
  refine ⟨fun ht hst => ?_, fun ht j hj hst => ?_, fun hs hl hc hq hpr hoff => ⟨fun ht hst => ?_, ?_⟩,
    fun hs h => ⟨fun ht hst => ?_, ?_⟩⟩
  · refine programSuccess_gives hp hop ht ?_
    rw [State.nextOperation, hst]
    rfl
  · refine programSuccess_gives hp hop ht ?_
    rw [State.nextOperation, hst, ProgramStage.next, if_pos hj]
    rfl
  · refine programSuccess_gives hp hop ht ?_
    rw [State.nextOperation, hst]
    refine (endProgram_idle (s := s.elapse dt) hs hl hq hpr hoff).trans ?_
    simp only [true_and]
    rfl
  · refine programFailure_gives hp hop ?_
    exact endProgram_idle (s := s.elapse dt) hs hl hq hpr hoff
  · refine programSuccess_gives hp hop ht ?_
    rw [State.nextOperation, hst]
    exact endProgram_silent (s := s.elapse dt) hs h
  · refine programFailure_gives hp hop ?_
    exact endProgram_silent (s := s.elapse dt) hs h

end Sys2Proof.Machine


/-! SUPPORT. The studio clock's commands (R20 to R32, R81). -/

namespace Sys2Proof.Machine

/-! ### Heads that are not stale -/

theorem staleTest_of_noHeadStale {s : State} (h : s.NoHeadStale s.clock.sfc) (i : Nat) : s.staleTest i = s := by
  unfold State.staleTest
  split
  · rfl
  · rename_i c hc
    split
    · rename_i hd
      split
      · rename_i e rest hw
        exact if_neg (by rw [h (i, c) (Sparse.mem_of_get hc) hd e rest hw]; decide)
      · rfl
    · rfl

theorem staleTestAll_of_noHeadStale {s : State} (h : s.NoHeadStale s.clock.sfc) : s.staleTestAll = s := by
  unfold State.staleTestAll
  generalize s.live = l
  induction l with
  | nil => rfl
  | cons i rest ih => rw [List.foldl_cons, staleTest_of_noHeadStale h, ih]

/-- A command whose body hands a changed count to the stream engine. -/
theorem givesClock_of_handCount {o : Result} {s u : State} {c : Clock} {value : Time} (h : Result.Gives o (u.handCount value))
    (hu : u = { s with clock := u.clock }) (hc : { u.clock with sfc := value } = c) : Result.GivesClock o s c := by
  obtain ⟨t, ho, ht⟩ := h
  have hclock : (u.handCount value).clock = c := (handCount_clock value u).trans hc
  refine ⟨t, ho, ht.2.2.2.1.trans hclock, fun hs => ?_⟩
  have hhand : u.handCount value = { s with clock := c } := by
    have hu' : (u.onClock fun k => { k with sfc := value }) = { s with clock := c } := by rw [hu, ← hc]; rfl
    rw [State.handCount, hu']
    exact staleTestAll_of_noHeadStale (s := { s with clock := c }) hs
  rwa [hhand] at ht

/-- A clock with a count to be handed on, as part of a state that is otherwise s. -/
abbrev State.clockTo (s : State) (c : Clock) : State := { s with clock := c }

theorem moveCount_of_none {s : State} (h : s.clock.load = none) : s.moveCount = s.handCount (s.clock.sfc + 64) := by
  rw [State.moveCount, h]

theorem moveCount_of_load {s : State} {l : PendingLoad} (h : s.clock.load = some l) : s.moveCount =
    (s.onClock fun c => { c with load := none, counts := countStep (s.clock.sfc + 64) l.value c.counts }).handCount l.value := by
  rw [State.moveCount, h]
  rfl

/-! ### The commands -/

section
variable {dt : Micros} {s e : State}

theorem markEdge_accepted (ht : s.clockTakes = true) (hg : s.clock.isGlitch (s.clock.localTime + dt) = false)
    (he : (s.clockTo (s.clock.captured dt)).realMark = e) : Result.Gives (exec (.markEdge dt) s) e := by
  show Result.Gives (execMarkEdge dt s) _
  unfold execMarkEdge
  refine command_gives_of_eq ?_
  exact (if_pos ht).trans ((if_neg (Bool.eq_false_iff.mp hg)).trans he)

theorem markEdge_glitch (ht : s.clockTakes = true) (hg : s.clock.isGlitch (s.clock.localTime + dt) = true) :
    Result.Gives (exec (.markEdge dt) s)
      { s with clock := { s.clock.later dt with counts := { s.clock.counts with glitches := inc s.clock.counts.glitches } } } := by
  show Result.Gives (execMarkEdge dt s) _
  unfold execMarkEdge
  refine command_gives_of_eq ?_
  exact (if_pos ht).trans (if_pos hg)

theorem watchExpiry_due {w : Time} (hw : s.clock.watch = some w) (hd : 0 ≤ signedDiff (s.clock.localTime + dt) w)
    (he : (s.elapse dt).watchExpires = e) : Result.Gives (exec (.watchExpiry dt) s) e := by
  show Result.Gives (execWatchExpiry dt s) _
  unfold execWatchExpiry
  refine command_gives_of_eq ?_
  have hw' : (s.elapse dt).clock.watch = some w := hw
  rw [hw']
  exact (if_pos (decide_eq_true hd)).trans he

end

/-- The outcome of a mark that moves a running count from state u, which is s with a clock of its own. -/
theorem givesClock_of_moveCount {o : Result} {s : State} {c d : Clock} (h : Result.Gives o (s.clockTo c).moveCount)
    (hn : c.load = none → { c with sfc := c.sfc + 64 } = d)
    (hl : ∀ l, c.load = some l → { c with sfc := l.value, load := none, counts := countStep (c.sfc + 64) l.value c.counts } = d) :
    Result.GivesClock o s d := by
  cases hload : c.load with
  | none =>
    rw [moveCount_of_none hload] at h
    exact givesClock_of_handCount h rfl (hn hload)
  | some l =>
    rw [moveCount_of_load hload] at h
    exact givesClock_of_handCount h rfl (hl l hload)

/-- The clock after an expiry that makes a synthetic mark, before the count moves. -/
def Clock.synthesized (c : Clock) (dt : Micros) : Clock :=
  { c.later dt with
    state := .flywheel, pairingOpen := false, synthRun := c.synthRun + 1
    watch := c.interval.map fun i => c.localTime + dt + BitVec.ofNat 32 i
    counts := { c.counts with synthetic := inc c.counts.synthetic } }

theorem synthesized_eq {c : Clock} {i : Nat} (hi : c.interval = some i) (dt : Micros) : c.synthesized dt =
    { c.later dt with
      state := .flywheel, pairingOpen := false, synthRun := c.synthRun + 1
      watch := some (c.localTime + dt + BitVec.ofNat 32 i)
      counts := { c.counts with synthetic := inc c.counts.synthetic } } := by
  rw [Clock.synthesized, hi]
  rfl

theorem watchExpires_synthetic {dt : Micros} {s : State}
    (h : s.clock.state = .running ∨ (s.clock.state = .flywheel ∧ s.clock.synthRun < 256)) :
    (s.elapse dt).watchExpires = (s.clockTo (s.clock.synthesized dt)).moveCount := by
  unfold State.watchExpires
  rcases h with h | ⟨h, hrun⟩
  · have h' : (s.elapse dt).clock.state = .running := h
    rw [h']
    rfl
  · have h' : (s.elapse dt).clock.state = .flywheel := h
    rw [h']
    exact if_pos hrun

/-! ### TRANSPORT -/

/-- The state in which the owner of a broadcast frame takes it. -/
def State.handing (s : State) (dt : Micros) (frame : List Byte) : State :=
  (((s.elapse dt).received frame).enterBus .gap).boundary

/-- A PAUSE that takes the clock out of RUNNING, FLYWHEEL or LOST. -/
theorem takePause_moving {s : State} (h : s.clock.state = .running ∨ s.clock.state = .flywheel ∨ s.clock.state = .lost) :
    s.takePause = s.clockTo { s.clock with state := .paused, load := none, synthRun := 0 } := by
  unfold State.takePause
  rcases h with h | h | h <;> rw [h] <;> rfl

theorem takePause_still {s : State} (h : s.clock.state = .unset ∨ s.clock.state = .paused) :
    s.takePause = s.clockTo { s.clock with load := none } := by
  unfold State.takePause
  rcases h with h | h <;> rw [h] <;> rfl

theorem takeTiming_unset {s : State} {value : Time} (h : s.clock.state = .unset) : s.takeTiming value =
    s.clockTo { s.clock with load := some { kind := .run, value := value } } := by
  unfold State.takeTiming
  rw [h]
  rfl

theorem takeTiming_moving {s : State} {value : Time}
    (h : s.clock.state = .running ∨ s.clock.state = .flywheel ∨ s.clock.state = .lost) : s.takeTiming value =
    s.clockTo { s.clock with load := some { kind := .timing, value := value } } := by
  unfold State.takeTiming
  rcases h with h | h | h <;> rw [h] <;> rfl

theorem takeTiming_paused {s : State} {value : Time} (h : s.clock.state = .paused) : s.takeTiming value =
    s.clockTo { s.clock with counts := { s.clock.counts with ignoredTiming := inc s.clock.counts.ignoredTiming } } := by
  unfold State.takeTiming
  rw [h]
  rfl

theorem transport_taken {s : State} {src : Station} (ht : s.clockTakes = true)
    (hs : s.status.config.map ConfigImage.clockStation = some src) (taken : State → State) :
    s.transport src taken = taken s := (if_pos ht).trans (if_pos hs)

theorem transport_foreign {s : State} {src : Station} (ht : s.clockTakes = true)
    (hs : s.status.config.map ConfigImage.clockStation ≠ some src) (taken : State → State) :
    s.transport src taken = s.clockTo { s.clock with counts := { s.clock.counts with foreign := inc s.clock.counts.foreign } } :=
  (if_pos ht).trans (if_neg hs)

theorem transport_cleared {s : State} {src : Station} (hc : s.cleared = true) (taken : State → State) :
    s.transport src taken = s := if_neg (by simp [State.clockTakes, hc])

section
variable {dt : Micros} {src : Station} {frame : List Byte} {s : State} {taken : State → State} {c : Clock}

/-- A broadcast frame handed on gives what its owner makes of it, the bus standing in GAP. -/
theorem broadcast_gives {owner : State → State} {u e : State} (h : s.handsOn src) (hu : owner (s.handing dt frame) = u)
    (he : u.plain = e.plain) :
    Result.Gives (s.command dt (State.broadcastFrame frame src owner)) e := by
  refine command_gives_of_plain ?_
  rw [broadcastFrame_handsOn (s := s.elapse dt) h, ← he, ← hu]
  rfl

theorem transport_taken_gives (h : s.handsOn src) (ht : s.clockTakes = true)
    (hs : s.status.config.map ConfigImage.clockStation = some src)
    (hc : taken (s.handing dt frame) = (s.handing dt frame).clockTo c) :
    Result.Gives (s.command dt (State.broadcastFrame frame src (State.transport src taken)))
      { s.heard dt frame .gap with clock := c } :=
  broadcast_gives h ((transport_taken (s := s.handing dt frame) ht hs taken).trans hc) rfl

theorem transport_foreign_gives (h : s.handsOn src) (ht : s.clockTakes = true)
    (hs : s.status.config.map ConfigImage.clockStation ≠ some src) :
    Result.Gives (s.command dt (State.broadcastFrame frame src (State.transport src taken)))
      { s.heard dt frame .gap with clock :=
        { s.clock.later dt with counts := { s.clock.counts with foreign := inc s.clock.counts.foreign } } } :=
  broadcast_gives h (transport_foreign (s := s.handing dt frame) ht hs taken) rfl

theorem transport_cleared_gives (h : s.handsOn src) (hc : s.cleared = true) :
    Result.Gives (s.command dt (State.broadcastFrame frame src (State.transport src taken)))
      { s.heard dt frame .gap with clock := s.clock.later dt } :=
  broadcast_gives h (transport_cleared (s := s.handing dt frame) hc taken) rfl

end

/-- Settles O30: the edge, the expiry and the PAUSE, each with its clock. -/
theorem runningClockMoves : Obligations.RunningClockMoves := by
  intro dt frame s hrun ht c plain
  refine ⟨fun hg => ?_, fun i e hi hw hd => ?_, fun src hs hst => ?_⟩
  · have hreal : (s.clockTo (s.clock.captured dt)).realMark = (s.clockTo (s.clock.captured dt)).moveCount := by
      rw [State.realMark, show (s.clockTo (s.clock.captured dt)).clock.state = .running from hrun]
    have h := markEdge_accepted ht hg hreal
    exact ⟨fun hl => givesClock_of_moveCount h (fun _ => rfl) fun l hl' => (by cases hl.symm.trans hl'),
      fun l hl => givesClock_of_moveCount h (fun hl' => by cases hl.symm.trans hl')
        fun l' hl' => (by cases hl.symm.trans hl'; rfl)⟩
  · have h := watchExpiry_due hw hd (watchExpires_synthetic (.inl hrun))
    rw [synthesized_eq hi] at h
    exact ⟨fun hl => givesClock_of_moveCount h (fun _ => rfl) fun l hl' => (by cases hl.symm.trans hl'),
      fun l hl => givesClock_of_moveCount h (fun hl' => by cases hl.symm.trans hl')
        fun l' hl' => (by cases hl.symm.trans hl'; rfl)⟩
  · exact transport_taken_gives hs ht hst (takePause_moving (.inl hrun))

/-- Settles O34: the three frames by the clock's state, by source, and under a counted CLEAR. -/
theorem transportByClockState : Obligations.TransportByClockState := by
  intro dt src value frame s hs c gives foreign
  refine ⟨fun ht hst => ⟨?_, fun h => ?_, fun h => ⟨?_, ?_⟩, fun h => ?_, fun h => ?_⟩, fun ht hst => ⟨?_, ?_, ?_⟩,
    fun hc => ⟨?_, ?_, ?_⟩⟩
  · exact transport_taken_gives hs ht hst rfl
  · exact transport_taken_gives hs ht hst (takeTiming_unset h)
  · exact transport_taken_gives hs ht hst (takeTiming_moving h)
  · exact transport_taken_gives hs ht hst (takePause_moving h)
  · exact transport_taken_gives hs ht hst (takeTiming_paused h)
  · exact transport_taken_gives hs ht hst (takePause_still h)
  · exact transport_foreign_gives hs ht hst
  · exact transport_foreign_gives hs ht hst
  · exact transport_foreign_gives hs ht hst
  · exact transport_cleared_gives hs hc
  · exact transport_cleared_gives hs hc
  · exact transport_cleared_gives hs hc

/-! ### Real marks and edges -/

theorem realMark_still {s : State} (h : s.clock.state = .unset ∨ s.clock.state = .paused) (hl : s.clock.load = none) :
    s.realMark = s := by
  unfold State.realMark
  rcases h with h | h <;> rw [h, hl]

theorem realMark_unset {s : State} {l : PendingLoad} (h : s.clock.state = .unset) (hl : s.clock.load = some l) :
    s.realMark = (s.clockTo { s.clock with
      state := .running, load := none, synthRun := 0
      counts := { s.clock.counts with starts := inc s.clock.counts.starts } }).handCount l.value := by
  unfold State.realMark
  rw [h, hl]
  rfl

theorem realMark_paused {s : State} {value : Time} (h : s.clock.state = .paused)
    (hl : s.clock.load = some { kind := .run, value := value }) : s.realMark = (s.clockTo { s.clock with
      state := .running, load := none, synthRun := 0
      counts := countStep s.clock.sfc value s.clock.counts }).handCount value := by
  unfold State.realMark
  rw [h, hl]
  rfl

theorem realMark_returning {s : State} (h : s.clock.state = .flywheel ∨ s.clock.state = .lost) : s.realMark =
    (s.clockTo { s.clock with state := .running, synthRun := 0 }).moveCount := by
  unfold State.realMark
  rcases h with h | h <;> rw [h] <;> rfl

/-- Settles O31: the edge is captured, and the mark acts by the clock's state. -/
theorem realMarkByClockState : Obligations.RealMarkByClockState := by
  intro dt s ht hg c gives stepped
  have hmark : ∀ {e}, (s.clockTo (s.clock.captured dt)).realMark = e → Result.Gives (exec (.markEdge dt) s) e :=
    fun he => markEdge_accepted ht hg he
  refine ⟨fun hst hl => hmark (realMark_still hst hl), fun hst l hl => ?_, fun hst value hl => ?_, fun hst => ?_⟩
  · exact givesClock_of_handCount (hmark (realMark_unset hst hl)) rfl rfl
  · exact givesClock_of_handCount (hmark (realMark_paused hst hl)) rfl rfl
  · have h := hmark (realMark_returning hst)
    exact ⟨fun hl => givesClock_of_moveCount h (fun _ => rfl) fun l hl' => (by cases hl.symm.trans hl'),
      fun l hl => givesClock_of_moveCount h (fun hl' => by cases hl.symm.trans hl')
        fun l' hl' => (by cases hl.symm.trans hl'; rfl)⟩

/-- A real mark leaves what the edge's capture has set. -/
theorem realMark_capture (s : State) : s.realMark.clock.lastEdge = s.clock.lastEdge
    ∧ s.realMark.clock.pairingOpen = s.clock.pairingOpen ∧ s.realMark.clock.interval = s.clock.interval
    ∧ s.realMark.clock.watch = s.clock.watch := by
  have move : ∀ u : State, u.moveCount.clock.lastEdge = u.clock.lastEdge ∧ u.moveCount.clock.pairingOpen = u.clock.pairingOpen
      ∧ u.moveCount.clock.interval = u.clock.interval ∧ u.moveCount.clock.watch = u.clock.watch := by
    intro u
    cases hl : u.clock.load with
    | none => rw [moveCount_of_none hl, handCount_clock]; exact ⟨rfl, rfl, rfl, rfl⟩
    | some l => rw [moveCount_of_load hl, handCount_clock]; exact ⟨rfl, rfl, rfl, rfl⟩
  unfold State.realMark
  split
  · split
    · rw [handCount_clock]; exact ⟨rfl, rfl, rfl, rfl⟩
    · exact ⟨rfl, rfl, rfl, rfl⟩
  · exact move s
  · split
    · split
      · rw [handCount_clock]; exact ⟨rfl, rfl, rfl, rfl⟩
      · exact ⟨rfl, rfl, rfl, rfl⟩
    · exact ⟨rfl, rfl, rfl, rfl⟩
  · exact move (s.onClock _)
  · exact move (s.onClock _)

theorem isGlitch_iff {c : Clock} {i : Nat} (hi : c.interval = some i) (t : Time) : c.isGlitch t = true ↔
    ∃ e, c.lastEdge = some e ∧ signedDiff t e < (i / 2 : Nat) := by
  unfold Clock.isGlitch
  rw [hi]
  cases c.lastEdge with
  | none => simp
  | some e =>
    exact ⟨fun h => ⟨e, rfl, of_decide_eq_true h⟩, fun ⟨e', he, h⟩ => by cases he; exact decide_eq_true h⟩

/-- R21's measurement. -/
theorem measure_cases {c : Clock} {i : Nat} (hi : c.interval = some i) (t : Time) : ∃ j, c.measure t = some j
    ∧ (∀ e, c.lastEdge = some e → c.pairingOpen = true → 320 ≤ signedDiff t e → signedDiff t e ≤ 3000 →
        (j : Int) = signedDiff t e)
    ∧ ((c.lastEdge = none ∨ c.pairingOpen = false
        ∨ ∃ e, c.lastEdge = some e ∧ (signedDiff t e < 320 ∨ 3000 < signedDiff t e)) → j = i) := by
  unfold Clock.measure
  cases hl : c.lastEdge with
  | none => exact ⟨i, hi, fun e he => (by cases he), fun _ => rfl⟩
  | some e =>
    dsimp only
    split
    · rename_i h
      obtain ⟨hp, h1, h2⟩ := h
      have h1 : (320 : Int) ≤ signedDiff t e := h1
      have h2 : signedDiff t e ≤ 3000 := h2
      refine ⟨_, rfl, fun e' he' _ _ _ => ?_, fun h => ?_⟩
      · cases he'
        exact Int.toNat_of_nonneg (by omega)
      · rcases h with h | h | ⟨e', he', h⟩
        · cases h
        · rw [hp] at h; cases h
        · cases he'; omega
    · rename_i h
      exact ⟨i, hi, fun e' he' hp h1 h2 => absurd ⟨hp, by cases he'; exact h1, by cases he'; exact h2⟩ h, fun _ => rfl⟩

/-- Settles O32: the glitch test, and what the capture sets. -/
theorem edgeCapture : Obligations.EdgeCapture := by
  intro dt i s ht hi c t
  refine ⟨fun e he hlt => markEdge_glitch ht ((isGlitch_iff hi t).mpr ⟨e, he, hlt⟩), fun hnot => ?_⟩
  have hg : c.isGlitch t = false := Bool.eq_false_iff.mpr fun h => by
    obtain ⟨e, he, hlt⟩ := (isGlitch_iff hi t).mp h
    rcases hnot with hn | ⟨e', he', hle⟩
    · rw [hn] at he; cases he
    · cases he.symm.trans he'; exact absurd hlt (not_lt.mpr hle)
  obtain ⟨u, hu, hsettles⟩ := markEdge_accepted ht hg rfl
  obtain ⟨j, hj, hpaired, hkept⟩ := measure_cases hi t
  have hclock : u.clock = (s.clockTo (s.clock.captured dt)).realMark.clock := hsettles.2.2.2.1
  obtain ⟨h1, h2, h3, h4⟩ := realMark_capture (s.clockTo (s.clock.captured dt))
  refine ⟨u, j, hu, ?_, ?_, ?_, ?_, hpaired, hkept⟩
  · rw [hclock, h1]; rfl
  · rw [hclock, h2]; rfl
  · rw [hclock, h3]; exact hj
  · rw [hclock, h4]
    show watchAfterEdge t (c.measure t) = _
    rw [hj]; rfl

/-- Settles O33: the expiry by the clock's state and the run count. -/
theorem flywheelEndsInLost : Obligations.FlywheelEndsInLost := by
  intro dt i e s hi hw hd c synthetic
  refine ⟨fun hst hrun => ?_, fun hst hrun => watchExpiry_due hw hd ?_, fun hst => watchExpiry_due hw hd ?_⟩
  · have h := watchExpiry_due hw hd (watchExpires_synthetic (.inr ⟨hst, hrun⟩))
    have hsyn : s.clock.synthesized dt = synthetic := by
      rw [synthesized_eq hi, ← hst]
      rfl
    rw [hsyn] at h
    exact ⟨fun hl => givesClock_of_moveCount h (fun _ => rfl) fun l hl' => (by cases hl.symm.trans hl'),
      fun l hl => givesClock_of_moveCount h (fun hl' => by cases hl.symm.trans hl')
        fun l' hl' => (by cases hl.symm.trans hl'; rfl)⟩
  · have hst' : (s.elapse dt).clock.state = .flywheel := hst
    have hrun' : ¬ (s.elapse dt).clock.synthRun < Config.flywheelRun := by
      show ¬ c.synthRun < 256
      rw [hrun]
      decide
    unfold State.watchExpires
    rw [hst']
    exact if_neg hrun'
  · unfold State.watchExpires
    rcases hst with h | h | h
    · rw [show (s.elapse dt).clock.state = .unset from h]; rfl
    · rw [show (s.elapse dt).clock.state = .paused from h]; rfl
    · rw [show (s.elapse dt).clock.state = .lost from h]; rfl

end Sys2Proof.Machine


/-! SUPPORT. References released beside whatever else a command does, and the contexts freed without notice (R67, R70,
R83, R92). -/

namespace Sys2Proof.Machine

/-! ### Counters -/

@[simp] theorem addCount_zero (c : Count) : addCount c 0 = c := by
  refine BitVec.eq_of_toNat_eq ?_
  simp only [addCount, BitVec.toNat_ofNat]
  have := c.isLt
  omega

theorem addCount_addCount (c : Count) (m n : Nat) : addCount (addCount c m) n = addCount c (m + n) := by
  refine BitVec.eq_of_toNat_eq ?_
  simp only [addCount, BitVec.toNat_ofNat]
  have := c.isLt
  omega

theorem addCount_inc (c : Count) (n : Nat) : addCount (inc c) n = addCount c (n + 1) := by
  rw [inc, addCount_addCount, Nat.add_comm]

/-! ### Tables -/

namespace Sparse

variable {α : Type}

theorem modify_modify (m : List (Nat × α)) (n : Nat) (f g : α → α) :
    modify (modify m n f) n g = modify m n fun x => g (f x) := by
  simp only [modify, List.map_map]
  refine List.map_congr_left fun p _ => ?_
  by_cases h : p.1 = n <;> simp [h]

theorem erase_modify (m : List (Nat × α)) (n : Nat) (f : α → α) : erase (modify m n f) n = erase m n := by
  induction m with
  | nil => rfl
  | cons p rest ih =>
    simp only [erase, modify] at ih
    by_cases h : p.1 = n <;> simp [erase, modify, h, ih]

/-- In a canonical table a change of one record is decided by that record. -/
theorem modify_congr {m : List (Nat × α)} (hm : wf m) {n : Nat} {f g : α → α}
    (h : ∀ a, get m n = some a → f a = g a) : modify m n f = modify m n g := by
  refine List.map_congr_left fun p hp => ?_
  by_cases hn : p.1 = n
  · rw [if_pos hn, if_pos hn, h p.2 ((get_eq_some_iff hm).mpr (hn ▸ hp))]
  · rw [if_neg hn, if_neg hn]

end Sparse

/-! ### The reference of an entry touches the cache and the fetch engine alone -/

/-- o with the cache and the fetch engine of s. -/
def State.around (s o : State) : State := { o with cache := s.cache, fetch := s.fetch }

@[simp] theorem around_self (s : State) : s.around s = s := rfl

theorem around_cancelFetch (s o : State) (n : SlotNo) : (s.around o).cancelFetch n = (s.cancelFetch n).around o := by
  have hf : (s.around o).fetchingChannel n = s.fetchingChannel n := rfl
  unfold State.cancelFetch
  rw [hf]
  cases s.fetchingChannel n with
  | none => rfl
  | some c =>
    have hc : (s.around o).chan c = s.chan c := rfl
    simp only [hc]
    cases (s.chan c).fetchOf n with
    | none => rfl
    | some f => dsimp only; split <;> [(split <;> rfl); rfl]

theorem around_releaseRef (s o : State) (n : SlotNo) : (s.around o).releaseRef n = (s.releaseRef n).around o := by
  have hs : (s.around o).slot? n = s.slot? n := rfl
  unfold State.releaseRef
  rw [hs]
  cases s.slot? n with
  | none => rfl
  | some slot =>
    dsimp only
    split
    · cases slot.state
      · exact around_cancelFetch (s.updSlot n fun x => { x with refs := x.refs - 1 }) o n
      · rfl
      · rfl
    · rfl

theorem around_releaseEntry (s o : State) (e : Entry) : (s.around o).releaseEntry e = (s.releaseEntry e).around o := by
  unfold State.releaseEntry
  cases e.slot with
  | none => rfl
  | some n => exact around_releaseRef s o n

theorem around_released (s o : State) (entries : List Entry) :
    (s.around o).released entries = (s.released entries).around o := by
  induction entries generalizing s with
  | nil => rfl
  | cons e rest ih => exact (congrArg (State.released rest) (around_releaseEntry s o e)).trans (ih (s.releaseEntry e))

/-- References released leave everything but the cache and the fetch engine as it was. -/
theorem released_eq_around (s : State) (entries : List Entry) : s.released entries = (s.released entries).around s := by
  conv_lhs => rw [← around_self s, around_released]

section
variable (s : State) (entries : List Entry)

@[simp] theorem released_nil : s.released [] = s := rfl

theorem releaseEntry_eq (e : Entry) : s.releaseEntry e = s.released [e] := rfl

@[simp] theorem released_released (more : List Entry) : (s.released entries).released more = s.released (entries ++ more) :=
  List.foldl_append.symm

@[simp] theorem released_status : (s.released entries).status = s.status := by rw [released_eq_around]; rfl
@[simp] theorem released_bus : (s.released entries).bus = s.bus := by rw [released_eq_around]; rfl
@[simp] theorem released_clock : (s.released entries).clock = s.clock := by rw [released_eq_around]; rfl
@[simp] theorem released_streams : (s.released entries).streams = s.streams := by rw [released_eq_around]; rfl

/-- A change of the other blocks, made before the releases or after them. -/
theorem released_comm {f : State → State} (hf : ∀ t o : State, f (t.around o) = t.around (f o))
    : f (s.released entries) = (f s).released entries :=
  calc f (s.released entries)
    _ = f ((s.released entries).around s) := by rw [← released_eq_around]
    _ = (s.released entries).around (f s) := hf _ _
    _ = (s.around (f s)).released entries := (around_released s (f s) entries).symm
    _ = (f s).released entries := by rw [← hf, around_self]

@[simp] theorem released_onBus (f : BusPort → BusPort) : (s.released entries).onBus f = (s.onBus f).released entries :=
  released_comm s entries fun _ _ => rfl
@[simp] theorem released_onCue (f : CueUnit → CueUnit) : (s.released entries).onCue f = (s.onCue f).released entries :=
  released_comm s entries fun _ _ => rfl
@[simp] theorem released_onStreams (f : StreamEngine → StreamEngine) :
    (s.released entries).onStreams f = (s.onStreams f).released entries := released_comm s entries fun _ _ => rfl
@[simp] theorem released_countStreams (f : StreamCounts → StreamCounts) :
    (s.released entries).countStreams f = (s.countStreams f).released entries := released_comm s entries fun _ _ => rfl
@[simp] theorem released_countCue (f : CueCounts → CueCounts) :
    (s.released entries).countCue f = (s.countCue f).released entries := released_comm s entries fun _ _ => rfl
theorem released_plain : (s.released entries).plain = s.plain.released entries := released_comm s entries fun _ _ => rfl
@[simp] theorem released_ctx? (i : Nat) : (s.released entries).ctx? i = s.ctx? i := by
  rw [State.ctx?, released_streams]; rfl

/-- Entries withdrawn: each counted, their references released. -/
theorem withdraw_eq : s.withdraw entries =
    (s.countStreams fun k => { k with withdrawn := addCount k.withdrawn entries.length }).released entries := by
  induction entries generalizing s with
  | nil =>
    have h : (s.countStreams fun k => { k with withdrawn := addCount k.withdrawn 0 }) = s := by
      simp [State.countStreams, State.onStreams]
    exact h.symm
  | cons e rest ih =>
    have hstep : s.withdraw (e :: rest) =
        ((s.releaseEntry e).countStreams fun k => { k with withdrawn := inc k.withdrawn }).withdraw rest := rfl
    rw [hstep, ih, releaseEntry_eq, released_countStreams, released_countStreams, released_released]
    refine congrArg (State.released (e :: rest)) ?_
    simp only [State.countStreams, State.onStreams, addCount_inc, List.length_cons]

end

/-- A context freed without notice: out of the offer queue, the notices and the table, its demand out of the sum, its
entries withdrawn. -/
def State.freedSilently (s : State) (i : Nat) (c : Context) : State :=
  { s.freed i c with streams :=
      { contexts := Sparse.erase s.streams.contexts i
        counts := { s.streams.counts with withdrawn := addCount s.streams.counts.withdrawn c.window.length } } }

theorem silentFree_eq {s : State} {i : Nat} {c : Context} (h : s.ctx? i = some c) :
    s.silentFree i = (s.freedSilently i c).released c.window := by
  unfold State.silentFree
  rw [h]
  dsimp only
  rw [withdraw_eq, released_onBus, State.freeCtx, released_onCue, released_onStreams]
  refine congrArg (State.released c.window) ?_
  simp only [State.freedSilently, State.freed, State.countStreams, State.onStreams, State.onBus, State.onCue, State.updCtx,
    Sparse.erase_modify]

theorem freedSilently_of_window {s : State} {i : Nat} {c : Context} (h : c.window = []) : s.freedSilently i c = s.freed i c := by
  simp [State.freedSilently, State.freed, h]

theorem silentFree_of_window {s : State} {i : Nat} {c : Context} (h : s.ctx? i = some c) (hw : c.window = []) :
    s.silentFree i = s.freed i c := by
  rw [silentFree_eq h, hw, released_nil, freedSilently_of_window hw]

/-! ### The context of a stream id -/

theorem findStream_absent {s : State} {id : StreamId} (h : ∀ p ∈ s.streams.contexts, p.2.id ≠ id) : s.findStream id = none := by
  rw [State.findStream, List.find?_eq_none.mpr fun p hp => by simpa using h p hp]
  rfl

theorem findStream_held {s : State} {i : Nat} {c : Context} (hids : s.StreamIdLaw) (h : s.ctx? i = some c) :
    s.findStream c.id = some i := by
  have hmem : (i, c) ∈ s.streams.contexts := Sparse.mem_of_get h
  cases hf : s.streams.contexts.find? fun p => p.2.id == c.id with
  | none => exact absurd (List.find?_eq_none.mp hf _ hmem) (by simp)
  | some p =>
    have hp : p = (i, c) :=
      List.inj_on_of_nodup_map hids (List.mem_of_find?_eq_some hf) hmem (by simpa using List.find?_some hf)
    rw [State.findStream, hf, hp]
    rfl

end Sys2Proof.Machine


/-! SUPPORT. CUE, RELEASE, STOP_ALL and the ends of offers (R36 to R38, R55 to R61, R65 to R70, R84). -/

namespace Sys2Proof.Machine

/-! ### CUE -/

section
variable {dt : Micros} {src : Station} {f : CueFields} {frame : List Byte} {s : State}

theorem takeCue_ignored (h : s.status.phase ≠ .serving ∨ s.cleared = true) :
    s.takeCue src f = s.countCue fun k => { k with phaseIgnored := inc k.phaseIgnored } := if_pos h

theorem takeCue_mismatch (hp : s.status.phase = .serving) (hc : s.cleared = false) (hid : stationPart f.id ≠ src) :
    s.takeCue src f = s.countCue fun k => { k with idMismatch := inc k.idMismatch } :=
  (if_neg (by simp [hp, hc])).trans (if_pos hid)

theorem takeCue_stages (hp : s.status.phase = .serving) (hc : s.cleared = false) (hid : stationPart f.id = src) :
    s.takeCue src f = (s.supersede f.id).cueStages f :=
  (if_neg (by simp [hp, hc])).trans (if_neg (not_not.mpr hid))

theorem supersede_absent {id : StreamId} (h : ∀ p ∈ s.streams.contexts, p.2.id ≠ id) : s.supersede id = s := by
  unfold State.supersede
  rw [findStream_absent h]

theorem supersede_held {i : Nat} {c : Context} (hids : s.StreamIdLaw) (h : s.ctx? i = some c) :
    s.supersede c.id = (s.silentFree i).countCue fun k => { k with superseded := inc k.superseded } := by
  unfold State.supersede
  rw [findStream_held hids h]

theorem zonePasses_map_iff {config : ConfigImage} (h : s.status.config = some config) :
    (s.status.config.map fun c => c.zonePasses f.zone) = some true ↔
      f.zone &&& config.zoneMask = config.zoneMatch &&& config.zoneMask := by
  rw [h, Option.map_some, Option.some.injEq]
  exact zonePasses_iff f.zone

theorem cueStages_unmatched {config : ConfigImage} (h : s.status.config = some config)
    (hz : f.zone &&& config.zoneMask ≠ config.zoneMatch &&& config.zoneMask) :
    s.cueStages f = s.countCue fun k => { k with matchIgnored := inc k.matchIgnored } :=
  if_neg (mt (zonePasses_map_iff h).mp hz)

theorem cueStages_matched {config : ConfigImage} (h : s.status.config = some config)
    (hz : f.zone &&& config.zoneMask = config.zoneMatch &&& config.zoneMask) :
    s.cueStages f = match s.zoneRecord f.zone with
      | some record => (s.countClamps f).weighCue f record
      | none => s.countCue fun k => { k with absent := inc k.absent } :=
  (if_pos ((zonePasses_map_iff h).mpr hz)).trans (by cases s.zoneRecord f.zone <;> rfl)

theorem zoneRecord_absent {zone : Zone} (h : ∀ r ∈ s.dir.table, r.zone ≠ zone) : s.zoneRecord zone = none := by
  unfold State.zoneRecord
  split
  · rfl
  · exact List.find?_eq_none.mpr fun r hr => by simpa using h r hr

theorem zoneRecord_found {zone : Zone} {record : ZoneRecord} (hl : s.dir.load = none)
    (h : s.dir.table.find? (fun r => r.zone == zone) = some record) : s.zoneRecord zone = some record := by
  unfold State.zoneRecord
  rw [hl]
  exact h

end

/-- Where every number below n is listed, the table is as long as n. -/
theorem le_length_of_listed {α : Type} {m : List (Nat × α)} {n : Nat} (h : ∀ k < n, Sparse.get m k ≠ none) : n ≤ m.length := by
  have hsub : List.range n ⊆ m.map Prod.fst := fun k hk => by
    obtain ⟨a, ha⟩ := Option.ne_none_iff_exists'.mp (h k (List.mem_range.mp hk))
    exact List.mem_map_of_mem (f := Prod.fst) (Sparse.mem_of_get ha)
  simpa using (List.nodup_range.subperm hsub).length_le

theorem lowestFree_eq_some {α : Type} {m : List (Nat × α)} {bound n : Nat} (hn : n < bound) (hfree : Sparse.get m n = none)
    (hbelow : ∀ k < n, Sparse.get m k ≠ none) : Sparse.lowestFree m bound = some n := by
  rw [Sparse.lowestFree, List.find?_range_eq_some]
  refine ⟨by simp [hfree], List.mem_range.mpr (lt_min hn (Nat.lt_succ_of_le (le_length_of_listed hbelow))), fun k hk => ?_⟩
  simpa [Option.isSome_iff_ne_none] using hbelow k hk

theorem lowestFree_eq_none {α : Type} {m : List (Nat × α)} {bound : Nat} (h : ∀ k < bound, Sparse.get m k ≠ none) :
    Sparse.lowestFree m bound = none := by
  rw [Sparse.lowestFree, List.find?_range_eq_none]
  intro k hk
  simpa [Option.isSome_iff_ne_none] using h k (lt_of_lt_of_le hk (min_le_left _ _))

theorem lowestFree_isSome {α : Type} {m : List (Nat × α)} {bound k : Nat} (hk : k < bound) (h : Sparse.get m k = none) :
    ∃ n, Sparse.lowestFree m bound = some n := by
  have hex : ∃ j, Sparse.get m j = none := ⟨k, h⟩
  exact ⟨Nat.find hex, lowestFree_eq_some (lt_of_le_of_lt (Nat.find_min' hex h) hk) (Nat.find_spec hex) fun _ => Nat.find_min hex⟩

/-- The origin's clamp changes an origin exactly where it lies too far ahead (R38). -/
theorem clampOrigin_eq_iff (sfc origin : Time) : clampOrigin sfc origin = origin ↔ ¬ 16777216 < signedDiff origin sfc := by
  unfold clampOrigin
  split
  · rename_i h
    refine iff_of_false (fun he => ?_) (not_not.mpr h)
    have h : (16777216 : Int) < signedDiff origin sfc := h
    rw [← he, signedDiff, show sfc + 16777216#32 - sfc = 16777216#32 from add_sub_cancel_left _ _] at h
    exact absurd h (by decide)
  · rename_i h
    exact iff_of_true rfl h

theorem demandOf_eq (rate : Nat) (format : Format) : demandOf rate format = (rate * format.frameBytes + 65535) / 65536 := by
  rw [demandOf, ceilDiv]
  omega

section
variable {dt : Micros} {src : Station} {f : CueFields} {frame : List Byte} {record : ZoneRecord} {s : State}

theorem weighCue_noContext (h : ∀ i < 1024, s.ctx? i ≠ none) :
    s.weighCue f record = s.countCue fun k => { k with contextDeclined := inc k.contextDeclined } := by
  unfold State.weighCue
  rw [lowestFree_eq_none (bound := Config.contexts) h]

/-- The context an admission at the present state writes. -/
def State.admission (s : State) (f : CueFields) (record : ZoneRecord) : Context :=
  admittedContext f record (clampOrigin s.clock.sfc f.origin) (s.now + BitVec.ofNat 32 Config.offerExpiry)

theorem weighCue_overCapacity {i : Nat} (hi : i < 1024) (hfree : s.ctx? i = none)
    (h : s.capacity < s.cue.demandSum + demandOf (clampRate f.rate) record.format) :
    s.weighCue f record = s.countCue fun k => { k with capacityDeclined := inc k.capacityDeclined } := by
  unfold State.weighCue
  obtain ⟨n, hn⟩ := lowestFree_isSome (bound := Config.contexts) hi hfree
  rw [hn]
  exact if_pos h

theorem weighCue_taken {i : Nat} (hi : i < 1024) (hfree : s.ctx? i = none) (hbelow : ∀ j < i, s.ctx? j ≠ none)
    (h : s.cue.demandSum + demandOf (clampRate f.rate) record.format ≤ s.capacity) :
    s.weighCue f record = { s with
      bus := { s.bus with offers := s.bus.offers ++ [i] }
      cue := { s.cue with demandSum := s.cue.demandSum + demandOf (clampRate f.rate) record.format
                          counts := { s.cue.counts with taken := inc s.cue.counts.taken } }
      streams := { s.streams with contexts := Sparse.put s.streams.contexts i (s.admission f record) } } := by
  unfold State.weighCue
  rw [lowestFree_eq_some (bound := Config.contexts) hi hfree hbelow]
  exact if_neg (Nat.not_lt.mpr h)

/-- A CUE that reaches the weighing is weighed with its clamps counted. -/
theorem takeCue_weighed {config : ConfigImage} (hp : s.status.phase = .serving) (hc : s.cleared = false)
    (hid : stationPart f.id = src) (hnew : ∀ p ∈ s.streams.contexts, p.2.id ≠ f.id) (hconfig : s.status.config = some config)
    (hz : f.zone &&& config.zoneMask = config.zoneMatch &&& config.zoneMask) (hl : s.dir.load = none)
    (hr : s.dir.table.find? (fun r => r.zone == f.zone) = some record) :
    s.takeCue src f = (s.countClamps f).weighCue f record := by
  rw [takeCue_stages hp hc hid, supersede_absent hnew, cueStages_matched hconfig hz, zoneRecord_found hl hr]

theorem takeCue_unmatched {config : ConfigImage} (hp : s.status.phase = .serving) (hc : s.cleared = false)
    (hid : stationPart f.id = src) (hnew : ∀ p ∈ s.streams.contexts, p.2.id ≠ f.id) (hconfig : s.status.config = some config)
    (hz : f.zone &&& config.zoneMask ≠ config.zoneMatch &&& config.zoneMask) :
    s.takeCue src f = s.countCue fun k => { k with matchIgnored := inc k.matchIgnored } := by
  rw [takeCue_stages hp hc hid, supersede_absent hnew, cueStages_unmatched hconfig hz]

theorem takeCue_absent {config : ConfigImage} (hp : s.status.phase = .serving) (hc : s.cleared = false)
    (hid : stationPart f.id = src) (hnew : ∀ p ∈ s.streams.contexts, p.2.id ≠ f.id) (hconfig : s.status.config = some config)
    (hz : f.zone &&& config.zoneMask = config.zoneMatch &&& config.zoneMask) (hr : ∀ r ∈ s.dir.table, r.zone ≠ f.zone) :
    s.takeCue src f = s.countCue fun k => { k with absent := inc k.absent } := by
  rw [takeCue_stages hp hc hid, supersede_absent hnew, cueStages_matched hconfig hz, zoneRecord_absent hr]

end

/-- The clamp counts with the origin's clamp judged by the lead of the origin (R38). -/
theorem countClamps_eq (s : State) (f : CueFields) : s.countClamps f = { s with cue := { s.cue with clamps :=
    { rate := if clampRate f.rate = f.rate.toNat then s.cue.clamps.rate else inc s.cue.clamps.rate
      depth := if clampDepth f.depth = f.depth.toNat then s.cue.clamps.depth else inc s.cue.clamps.depth
      origin := if 16777216 < signedDiff f.origin s.clock.sfc then inc s.cue.clamps.origin else s.cue.clamps.origin } } } := by
  have h : (if clampOrigin s.clock.sfc f.origin = f.origin then s.cue.clamps.origin else inc s.cue.clamps.origin)
      = if 16777216 < signedDiff f.origin s.clock.sfc then inc s.cue.clamps.origin else s.cue.clamps.origin := by
    simp only [clampOrigin_eq_iff, ite_not]
  rw [State.countClamps, State.countClamp, State.onCue, h]

/-- Settles O36: the stages in order, and the two grounds of a decline. -/
theorem cueTurnedAwayOrDeclined : Obligations.CueTurnedAwayOrDeclined := by
  refine ⟨fun dt src f frame s h => ?_, fun dt src f frame record config s h hp hc hid hnew hconfig hz hl hr _ => ?_⟩
  · intro cmd counted mine
    refine ⟨fun hp => ?_, fun hp hc hid => ?_, fun ⟨hp, hc, hid, hnew⟩ config hconfig => ⟨fun hz => ?_, fun hz hr => ?_⟩⟩
    · exact broadcast_gives h (takeCue_ignored (s := s.handing dt frame) hp) rfl
    · exact broadcast_gives h (takeCue_mismatch (s := s.handing dt frame) hp hc hid) rfl
    · exact broadcast_gives h (takeCue_unmatched (s := s.handing dt frame) hp hc hid hnew hconfig hz) rfl
    · exact broadcast_gives h (takeCue_absent (s := s.handing dt frame) hp hc hid hnew hconfig hz hr) rfl
  · intro rate depth cmd declined
    have hweighed := takeCue_weighed (s := s.handing dt frame) hp hc hid hnew hconfig hz hl hr
    rw [countClamps_eq] at hweighed
    refine ⟨fun hfull => ?_, fun ⟨i, hi, hfree⟩ hcap => ?_⟩
    · exact broadcast_gives h (hweighed.trans (weighCue_noContext hfull)) rfl
    · refine broadcast_gives h (hweighed.trans (weighCue_overCapacity hi hfree ?_)) rfl
      rw [demandOf_eq]
      have hcapacity : s.capacity = config.capacity.toNat := by rw [State.capacity, hconfig]; rfl
      exact hcapacity.trans_lt hcap

/-- Releases and a frame handed on do not disturb each other. -/
theorem handing_released (s : State) (entries : List Entry) (dt : Micros) (frame : List Byte) :
    (s.released entries).handing dt frame = (s.handing dt frame).released entries :=
  released_comm (f := fun t => t.handing dt frame) s entries fun _ _ => rfl

/-- An id that its one holder no longer holds is free. -/
theorem absent_of_erased {s : State} {j : Nat} {c : Context} (hids : s.StreamIdLaw) (h : s.ctx? j = some c) :
    ∀ p ∈ Sparse.erase s.streams.contexts j, p.2.id ≠ c.id := by
  intro p hp he
  obtain ⟨hmem, hj⟩ := List.mem_filter.mp hp
  have : p = (j, c) := List.inj_on_of_nodup_map hids hmem (Sparse.mem_of_get h) he
  simp [this] at hj

/-- The context j freed as superseded, beside its references. -/
def State.supersededBy (s : State) (j : Nat) (c : Context) : State :=
  (s.freedSilently j c).countCue fun k => { k with superseded := inc k.superseded }

theorem supersede_eq {s : State} {j : Nat} {c : Context} (hids : s.StreamIdLaw) (h : s.ctx? j = some c) :
    s.supersede c.id = (s.supersededBy j c).released c.window := by
  rw [supersede_held hids h, silentFree_eq h, released_countCue, State.supersededBy]

/-- Settles O35: the admission's context, and a CUE of a held id as on the state without its holder. -/
theorem cueAdmitted : Obligations.CueAdmitted := by
  refine ⟨fun dt src f frame record config i s h hp hc hid hnew hconfig hz hl hr _ hi hfree hbelow => ?_,
    fun dt src f frame j c s h hp hc hid _ hids hj hcid => ?_⟩
  · intro rate depth origin demand hcap cmd context
    have hcapacity : s.capacity = config.capacity.toNat := by rw [State.capacity, hconfig]; rfl
    have hweighed := (takeCue_weighed (s := s.handing dt frame) hp hc hid hnew hconfig hz hl hr).trans
      (weighCue_taken (s := (s.handing dt frame).countClamps f) hi hfree hbelow (by
        rw [demandOf_eq]; exact hcap.trans_eq hcapacity.symm))
    have hcontext : ((s.handing dt frame).countClamps f).admission f record = context := by
      rw [State.admission, admittedContext, demandOf_eq]
      rfl
    rw [demandOf_eq, hcontext] at hweighed
    refine ⟨Sparse.put s.streams.contexts i context, broadcast_gives h hweighed rfl, ?_, fun k hk => ?_⟩
    · rw [Sparse.get_put, if_pos rfl]
    · rw [Sparse.get_put, if_neg (Ne.symm hk)]
      rfl
  · intro freed superseded
    have heq : superseded = (s.supersededBy j c).released c.window :=
      released_comm (f := fun t => { t with
        cue := { t.cue with counts := { s.cue.counts with superseded := inc s.cue.counts.superseded } }
        streams := { t.streams with counts := { s.streams.counts with
          withdrawn := addCount s.streams.counts.withdrawn c.window.length } } }) (s.freed j c) c.window fun _ _ => rfl
    have habsent : ∀ p ∈ superseded.streams.contexts, p.2.id ≠ f.id := by
      rw [heq, released_streams, ← hcid]
      exact absent_of_erased hids hj
    refine ⟨?_, habsent⟩
    have hon : superseded.handsOn src := by
      have hb : superseded.listening = s.listening := by
        rw [heq, State.listening, released_bus]
        rfl
      have hst : superseded.status = s.status := by rw [heq, released_status]; rfl
      obtain ⟨h1, h2, h3⟩ := h
      exact ⟨hb.trans h1, by rwa [hst], by rwa [State.bridges, hst]⟩
    have hstages : (s.handing dt frame).takeCue src f = (superseded.handing dt frame).takeCue src f := by
      have hst : (superseded.handing dt frame).status = s.status := by
        rw [heq, handing_released, released_status]
        rfl
      have hclear : (superseded.handing dt frame).cleared = false := by
        rw [heq, handing_released, State.cleared, released_bus]
        exact hc
      have hsup : (s.handing dt frame).supersede f.id = superseded.handing dt frame := by
        rw [← hcid, supersede_eq (s := s.handing dt frame) hids hj, heq, handing_released]
        rfl
      have hkept : (superseded.handing dt frame).supersede f.id = superseded.handing dt frame :=
        supersede_absent (by
          rw [heq, handing_released, released_streams, ← hcid]
          exact absent_of_erased hids hj)
      rw [takeCue_stages (s := s.handing dt frame) hp hc hid, takeCue_stages (by rw [hst]; exact hp) hclear hid, hsup, hkept]
    show execCue ⟨dt, frame⟩ src f s = execCue ⟨dt, frame⟩ src f superseded
    rw [execCue, execCue, command_eq, command_eq, broadcastFrame_handsOn (s := s.elapse dt) h,
      broadcastFrame_handsOn (s := superseded.elapse dt) hon]
    exact congrArg (fun t : State => (.next t.finish : Result)) hstages

end Sys2Proof.Machine


/-! SUPPORT. RELEASE without effect on blocks, STOP_ALL, and the ends of offers without a notice (R65 to R70, R84, R86,
R92, R93). -/

namespace Sys2Proof.Machine

/-! ### RELEASE -/

section
variable {f : ReleaseFields} {i : Nat} {c : Context} {s : State}

theorem takeRelease_unmatched (h : ∀ p ∈ s.streams.contexts, p.2.id ≠ f.id) :
    s.takeRelease f = s.countStreams fun k => { k with unmatchedRelease := inc k.unmatchedRelease } := by
  unfold State.takeRelease
  rw [findStream_absent h]

theorem takeRelease_held (hids : s.StreamIdLaw) (hc : s.ctx? i = some c) (hid : c.id = f.id) :
    s.takeRelease f = s.releaseContext i c f := by
  unfold State.takeRelease
  rw [← hid, findStream_held hids hc]
  simp only [hc]

theorem releaseContext_contending (h : c.state = .contending) :
    s.releaseContext i c f = (s.silentFree i).countCue fun k => { k with released := inc k.released } := by
  unfold State.releaseContext
  rw [h]

theorem releaseContext_spent (h : c.state = .spent) : s.releaseContext i c f = s.ignoreRelease := by
  unfold State.releaseContext
  rw [h]

theorem releaseContext_runningCut (h : c.state = .running) (hm : c.releaseMode = .cut) :
    s.releaseContext i c f = s.ignoreRelease := by
  unfold State.releaseContext
  rw [h, hm]
  cases takeMode f.mode <;> rfl

theorem takeMode_playout (h : f.mode = 1) : takeMode f.mode = .playout := if_pos h

theorem takeMode_cut (h : f.mode ≠ 1) : takeMode f.mode = .cut := if_neg h

theorem releaseContext_runningPlayout (h : c.state = .running) (hm : c.releaseMode = .playout) (hf : f.mode = 1) :
    s.releaseContext i c f = s.ignoreRelease := by
  unfold State.releaseContext
  rw [h, hm, takeMode_playout hf]

theorem releaseContext_runningNoted (h : c.state = .running) (hm : c.releaseMode = .none) (hf : f.mode = 1) :
    s.releaseContext i c f = s.notePlayout i := by
  unfold State.releaseContext
  rw [h, hm, takeMode_playout hf]

end

/-- Settles O37: the table of R84 where no block is withdrawn. -/
theorem releaseWithoutEffectOnBlocks : Obligations.ReleaseWithoutEffectOnBlocks := by
  intro dt src f frame i c s h cmd ignored
  refine ⟨fun hnone => ?_, fun _ hids hc hid => ?_⟩
  · exact broadcast_gives h (takeRelease_unmatched (s := s.handing dt frame) hnone) rfl
  · have held := takeRelease_held (s := s.handing dt frame) hids hc hid
    refine ⟨fun hst hw => ?_, fun hst => ?_, fun hst hm => ?_, fun hst hm hf => ?_, fun hst hm hf => ?_⟩
    · refine broadcast_gives h (held.trans (releaseContext_contending hst)) ?_
      rw [silentFree_of_window (s := s.handing dt frame) hc hw]
      rfl
    · exact broadcast_gives h (held.trans (releaseContext_spent hst)) rfl
    · exact broadcast_gives h (held.trans (releaseContext_runningCut hst hm)) rfl
    · exact broadcast_gives h (held.trans (releaseContext_runningPlayout hst hm hf)) rfl
    · exact broadcast_gives h (held.trans (releaseContext_runningNoted hst hm hf)) rfl

/-! ### Other blades' OFFERs and expiries -/

section
variable {dt : Micros} {frame : List Byte} {s : State}

/-- An observed frame of another blade to another station gives what its owner makes of it. -/
theorem observed_gives {owner : State → State} {u e : State} (hl : s.listening = true) (ha : ¬ s.isAddressed frame)
    (hp : s.status.phase ≠ .configLoad) (hu : owner (s.handing dt frame) = u) (he : u.plain = e.plain) :
    Result.Gives (s.command dt (State.observedFrame frame owner)) e := by
  refine command_gives_of_plain ?_
  have ha' : (s.handing dt frame).isAddressee frame = false :=
    Bool.eq_false_iff.mpr fun h => ha (isAddressee_iff (s := s.handing dt frame).mp h)
  have hobs : (s.elapse dt).observedFrame frame owner = owner (s.handing dt frame) :=
    (if_pos hl).trans ((if_neg (Bool.eq_false_iff.mp ha')).trans (if_neg hp))
  rw [hobs, hu, he]

theorem takeOverBy_absent {id : StreamId} (h : ∀ p ∈ s.streams.contexts, p.2.id ≠ id) : s.takeOverBy id = s := by
  unfold State.takeOverBy
  rw [findStream_absent h]

theorem takeOverBy_held {i : Nat} {c : Context} (hids : s.StreamIdLaw) (h : s.ctx? i = some c) :
    s.takeOverBy c.id = (s.silentFree i).countCue fun k =>
      if c.state = .contending then { k with lostToMirror := inc k.lostToMirror }
      else { k with takenOver := inc k.takenOver } := by
  unfold State.takeOverBy
  rw [findStream_held hids h]
  simp only [h]

theorem offerExpiry_due {i : Nat} {c : Context} {o : OfferRecord} {e : State} (hc : s.ctx? i = some c)
    (ho : c.offer = some o) (hd : 0 ≤ signedDiff (s.clock.localTime + dt) o.expiry) (he : (s.elapse dt).offerExpires i o = e) :
    Result.Gives (exec (.offerExpiry dt i) s) e := by
  show Result.Gives (execOfferExpiry dt i s) _
  unfold execOfferExpiry
  refine command_gives_of_eq ?_
  have hoffer : ((s.elapse dt).ctx? i).bind Context.offer = some o := by
    rw [show (s.elapse dt).ctx? i = some c from hc]
    exact ho
  rw [hoffer]
  exact (if_pos (decide_eq_true hd)).trans he

end

/-- Settles O41: the reading of an observed OFFER, and an expiry by the offer's phase. -/
theorem offersEndWithoutANotice : Obligations.OffersEndWithoutANotice := by
  refine ⟨fun dt id frame s hl ha hp => ?_, fun dt i c o s hc hw ho hd => ?_⟩
  · intro cmd
    refine ⟨observed_gives hl ha hp rfl rfl, fun hnone => ?_, fun i c _ hids hc hid => ?_⟩
    · exact observed_gives hl ha hp (takeOverBy_absent (s := s.handing dt frame) hnone) rfl
    · subst hid
      have hfree := takeOverBy_held (s := s.handing dt frame) hids hc
      rw [silentFree_eq (s := s.handing dt frame) hc, released_countCue] at hfree
      refine observed_gives hl ha hp hfree ?_
      rw [released_plain, released_plain]
      refine congrArg (State.released c.window) ?_
      by_cases hst : c.state = .contending <;> simp only [hst, if_true, if_false] <;> rfl
  · refine ⟨fun hph => offerExpiry_due hc ho hd ?_, fun hph ht => offerExpiry_due hc ho hd ?_,
      fun hph => offerExpiry_due hc ho hd ?_⟩
    · unfold State.offerExpires
      rw [hph]
      dsimp only
      rw [State.expireOffer, silentFree_of_window (s := s.elapse dt) hc hw]
      rfl
    · have hlapse : (s.elapse dt).offerExpires i o = (s.elapse dt).updCtx i fun x =>
          { x with offer := x.offer.map fun r => { r with lapsed := true } } := by
        unfold State.offerExpires
        rw [hph]
      have hmod : Sparse.modify s.streams.contexts i (fun x => { x with offer := x.offer.map fun r => { r with lapsed := true } })
          = Sparse.modify s.streams.contexts i (fun x => { x with offer := some { o with lapsed := true } }) :=
        Sparse.modify_congr ht.1 fun a ha => by
          obtain rfl : c = a := Option.some.inj (hc.symm.trans ha)
          rw [ho]
          rfl
      exact hlapse.trans (congrArg (fun m => { s.later dt with streams := { s.streams with contexts := m } }) hmod)
    · unfold State.offerExpires
      rw [hph]
      rfl

/-! ### STOP_ALL -/

/-- s with the listed contexts freed as stopped, beside their references. -/
def State.stoppedAll (s : State) (stopped : List (Nat × Context)) : State :=
  { s with
    bus := { s.bus with
      offers := s.bus.offers.filter fun i => !(stopped.map Prod.fst).contains i
      notices := s.bus.notices.filter fun n => match n with
        | .ended i _ _ _ _ _ => !(stopped.map Prod.fst).contains i
        | .stored _ _ _ => true }
    cue := { s.cue with
      demandSum := s.cue.demandSum - (stopped.map fun p => p.2.demand).sum
      counts := { s.cue.counts with stopped := addCount s.cue.counts.stopped stopped.length } }
    streams :=
      { contexts := s.streams.contexts.filter fun p => !(stopped.map Prod.fst).contains p.1
        counts := { s.streams.counts with
          withdrawn := addCount s.streams.counts.withdrawn (stopped.flatMap fun p => p.2.window).length } } }

/-- One context stopped, beside its references. -/
def State.stoppedOne (s : State) (i : Nat) (c : Context) : State :=
  (s.freedSilently i c).countCue fun k => { k with stopped := inc k.stopped }

theorem stoppedAll_nil (s : State) : s.stoppedAll [] = s := by
  have hn : s.bus.notices.filter (fun n => match n with
        | .ended _ _ _ _ _ _ => true
        | .stored _ _ _ => true) = s.bus.notices := List.filter_eq_self.mpr fun n _ => by cases n <;> rfl
  simp [State.stoppedAll, hn]

theorem not_contains_cons (l : List Nat) (i j : Nat) : (!l.contains j && j != i) = !(i :: l).contains j := by
  rw [List.contains_cons, Bool.not_or, Bool.and_comm]
  rfl

theorem stoppedAll_stoppedOne (s : State) (i : Nat) (c : Context) (rest : List (Nat × Context)) :
    (s.stoppedOne i c).stoppedAll rest = s.stoppedAll ((i, c) :: rest) := by
  have hoffers : (s.bus.offers.filter (· != i)).filter (fun j => !(rest.map Prod.fst).contains j)
      = s.bus.offers.filter fun j => !((i :: rest.map Prod.fst).contains j) := by
    rw [List.filter_filter]
    exact List.filter_congr fun j _ => not_contains_cons _ i j
  have hnotices : (dropEnd i s.bus.notices).filter (fun n => match n with
        | .ended j _ _ _ _ _ => !(rest.map Prod.fst).contains j
        | .stored _ _ _ => true)
      = s.bus.notices.filter fun n => match n with
        | .ended j _ _ _ _ _ => !((i :: rest.map Prod.fst).contains j)
        | .stored _ _ _ => true := by
    rw [dropEnd, List.filter_filter]
    refine List.filter_congr fun n _ => ?_
    cases n with
    | ended j _ _ _ _ _ => exact not_contains_cons _ i j
    | stored _ _ _ => rfl
  have hcontexts : (Sparse.erase s.streams.contexts i).filter (fun p => !(rest.map Prod.fst).contains p.1)
      = s.streams.contexts.filter fun p => !((i :: rest.map Prod.fst).contains p.1) := by
    rw [Sparse.erase, List.filter_filter]
    exact List.filter_congr fun p _ => not_contains_cons _ i p.1
  simp only [State.stoppedAll, State.stoppedOne, State.freedSilently, State.freed, State.countCue, State.onCue, hoffers,
    hnotices, hcontexts, List.map_cons, List.sum_cons, List.length_cons, List.flatMap_cons, List.length_append, Nat.sub_sub,
    addCount_inc, addCount_addCount]

/-- The listed contexts, each at its number, are freed one after another. -/
theorem foldl_stop_eq (stopped : List (Nat × Context)) : ∀ (s : State) (entries : List Entry),
    (∀ p ∈ stopped, s.ctx? p.1 = some p.2) → (stopped.map Prod.fst).Nodup →
    (stopped.map Prod.fst).foldl (fun t i => (t.silentFree i).countCue fun k => { k with stopped := inc k.stopped })
        (s.released entries)
      = (s.stoppedAll stopped).released (entries ++ stopped.flatMap fun p => p.2.window) := by
  induction stopped with
  | nil => exact fun s entries _ _ => by simp [stoppedAll_nil]
  | cons p rest ih =>
    intro s entries hctx hnodup
    obtain ⟨i, c⟩ := p
    obtain ⟨hi, hrest⟩ := List.nodup_cons.mp hnodup
    have hc : (s.released entries).ctx? i = some c := (released_ctx? s entries i).trans (hctx (i, c) (by simp))
    have hstep : ((s.released entries).silentFree i).countCue (fun k => { k with stopped := inc k.stopped })
        = (s.stoppedOne i c).released (entries ++ c.window) := by
      have hfreed : (s.released entries).freedSilently i c = (s.freedSilently i c).released entries :=
        released_comm (f := fun t => t.freedSilently i c) s entries fun _ _ => rfl
      rw [silentFree_eq hc, hfreed, released_released, released_countCue, State.stoppedOne]
    have hother : ∀ q ∈ rest, (s.stoppedOne i c).ctx? q.1 = some q.2 := fun q hq => by
      have hne : i ≠ q.1 := fun h => hi (List.mem_map.mpr ⟨q, hq, h.symm⟩)
      have := Sparse.get_erase s.streams.contexts i q.1
      rw [if_neg hne] at this
      exact this.trans (hctx q (by simp [hq]))
    show (rest.map Prod.fst).foldl _ (((s.released entries).silentFree i).countCue _) = _
    rw [hstep, ih _ _ hother hrest, stoppedAll_stoppedOne, List.flatMap_cons, List.append_assoc]

/-- In a canonical table the records of a bridge are those left out with their numbers. -/
theorem filter_not_stopped {s : State} (ht : s.TableLaw) (src : Station) :
    (s.streams.contexts.filter fun p =>
        !((s.streams.contexts.filter fun q => stationPart q.2.id == src).map Prod.fst).contains p.1)
      = s.streams.contexts.filter fun p => stationPart p.2.id != src := by
  refine List.filter_congr fun p hp => ?_
  have hiff : p.1 ∈ (s.streams.contexts.filter fun q => stationPart q.2.id == src).map Prod.fst ↔ stationPart p.2.id = src := by
    constructor
    · intro h
      obtain ⟨q, hq, hqp⟩ := List.mem_map.mp h
      obtain ⟨hmem, hst⟩ := List.mem_filter.mp hq
      have h1 := (Sparse.get_eq_some_iff ht.1).mpr (show (p.1, q.2) ∈ s.streams.contexts from hqp ▸ hmem)
      have h2 := (Sparse.get_eq_some_iff ht.1).mpr (show (p.1, p.2) ∈ s.streams.contexts from hp)
      rw [Option.some.inj (h2.symm.trans h1)]
      simpa using hst
    · exact fun h => List.mem_map_of_mem (f := Prod.fst) (List.mem_filter.mpr ⟨hp, by simpa using h⟩)
  by_cases h : stationPart p.2.id = src <;> simp [hiff, h, bne]

/-- Settles O40: the contexts of the bridge are freed in turn. -/
theorem stopAllFreesTheBridge : Obligations.StopAllFreesTheBridge := by
  intro dt src frame s h ht cmd stopped entries
  have hctx : ∀ p ∈ stopped, (s.handing dt frame).ctx? p.1 = some p.2 := fun p hp =>
    (Sparse.get_eq_some_iff ht.1).mpr (List.mem_filter.mp hp).1
  have hnodup : (stopped.map Prod.fst).Nodup :=
    ((Sparse.wf_iff_keys.mp ht.1).imp fun h => Nat.ne_of_lt h).sublist (List.filter_sublist.map _)
  have hfold := foldl_stop_eq stopped (s.handing dt frame) [] hctx hnodup
  refine broadcast_gives h hfold ?_
  rw [released_plain, released_plain, List.nil_append]
  refine congrArg (State.released entries) ?_
  have hcontexts : (s.streams.contexts.filter fun p => !(stopped.map Prod.fst).contains p.1)
      = s.streams.contexts.filter fun p => p.2.id.extractLsb' 12 4 != src := filter_not_stopped ht src
  rw [← hcontexts]
  rfl

end Sys2Proof.Machine


/-! SUPPORT. Serving a context that needs no lookup: stale heads dropped, the policy test, the refill with phantom entries
and the end of the sequence (R12, R76, R80 to R82, R88 to R90). -/

namespace Sys2Proof.Machine

/-! ### One context and the engine's counts set -/

/-- Context i set to x and the stream engine's counts to k. -/
def State.withStream (s : State) (i : Nat) (x : Context) (k : StreamCounts) : State :=
  { s with streams := { contexts := Sparse.modify s.streams.contexts i fun _ => x, counts := k } }

section
variable {s : State} {i : Nat} {c x y : Context} {k l : StreamCounts}

theorem withStream_ctx? (h : s.ctx? i = some c) : (s.withStream i x k).ctx? i = some x := by
  have := Sparse.get_modify s.streams.contexts i i fun _ => x
  rw [if_pos rfl, show Sparse.get s.streams.contexts i = some c from h] at this
  exact this

@[simp] theorem withStream_updCtx (f : Context → Context) : (s.withStream i x k).updCtx i f = s.withStream i (f x) k := by
  simp [State.withStream, State.updCtx, State.onStreams, Sparse.modify_modify]

@[simp] theorem withStream_countStreams (f : StreamCounts → StreamCounts) :
    (s.withStream i x k).countStreams f = s.withStream i x (f k) := rfl

theorem withStream_releaseEntry (e : Entry) : (s.withStream i x k).releaseEntry e = (s.releaseEntry e).withStream i x k :=
  (released_comm (f := fun t => t.withStream i x k) s [e] fun _ _ => rfl).symm

theorem withStream_released (entries : List Entry) :
    (s.withStream i x k).released entries = (s.released entries).withStream i x k :=
  (released_comm (f := fun t => t.withStream i x k) s entries fun _ _ => rfl).symm

/-- A change of context i, as the setting of what it makes of the context. -/
theorem updCtx_eq_withStream (ht : Sparse.wf s.streams.contexts) (h : s.ctx? i = some c) (f : Context → Context) :
    s.updCtx i f = s.withStream i (f c) s.streams.counts := by
  have hm : Sparse.modify s.streams.contexts i f = Sparse.modify s.streams.contexts i fun _ => f c :=
    Sparse.modify_congr ht fun a ha => by rw [Option.some.inj (ha.symm.trans h)]
  rw [State.updCtx, State.onStreams, hm, State.withStream]

theorem eq_withStream (ht : Sparse.wf s.streams.contexts) (h : s.ctx? i = some c) :
    s = s.withStream i c s.streams.counts := by
  have hm : Sparse.modify s.streams.contexts i (fun _ => c) = s.streams.contexts := by
    rw [Sparse.modify_congr ht (g := id) fun a ha => Option.some.inj (h.symm.trans ha)]
    unfold Sparse.modify
    exact (List.map_congr_left fun p _ => by rw [id, ite_self]; rfl).trans (List.map_id _)
  rw [State.withStream, hm]

/-- The end of a stream whose context and counts are set. -/
theorem withStream_enterSpent (h : s.ctx? i = some c) (reason : EndReason) : (s.withStream i x k).enterSpent i reason =
    ((s.released x.window).onBus fun b =>
        { b with notices := b.notices ++ [.ended i x.id reason x.delivered x.dropped x.patched] }).withStream i
      { x with state := .spent, window := [], gen := { x.gen with closed := true }, endReason := some reason, offer := none }
      (StreamCounts.countEnd reason { k with withdrawn := addCount k.withdrawn x.window.length }) := by
  unfold State.enterSpent
  rw [withStream_ctx? h]
  dsimp only
  rw [withdraw_eq, withStream_updCtx, withStream_countStreams, withStream_released, withStream_countStreams]
  rfl

theorem withStream_dropHead (e : Entry) (rest : List Entry) (hw : x.window = e :: rest) :
    (s.withStream i x k).dropHead i x = (s.released [e]).withStream i { x with window := rest, dropped := inc x.dropped }
      { k with dropped := inc k.dropped } := by
  unfold State.dropHead
  rw [hw]
  dsimp only
  rw [withStream_updCtx, withStream_releaseEntry, withStream_countStreams, releaseEntry_eq]

end

/-! ### The refill with phantom entries -/

/-- The context with its generator's next element appended as a phantom entry. -/
def Context.appendPhantom (lead : Nat) (c : Context) : Context :=
  { c with window := c.window ++ [{ c.nextEntry lead with phantom := true, ready := true }], gen := c.advance c.gen }

section
variable (lead n : Nat) (c : Context)

theorem fillPhantoms_succ (h : c.gen.closed = false) :
    c.fillPhantoms lead (n + 1) = (c.appendPhantom lead).fillPhantoms lead n :=
  if_neg (by rw [h]; decide)

theorem fillPhantoms_closed (h : c.gen.closed = true) : c.fillPhantoms lead n = c := by
  cases n with
  | zero => rfl
  | succ n => exact if_pos h

/-- A refill appends to the window and moves the generator, and does nothing else. -/
theorem fillPhantoms_shape : ∃ more, c.fillPhantoms lead n =
    { c with window := c.window ++ more, gen := (c.fillPhantoms lead n).gen } := by
  induction n generalizing c with
  | zero => exact ⟨[], by rw [Context.fillPhantoms, List.append_nil]⟩
  | succ n ih =>
    cases h : c.gen.closed with
    | true =>
      refine ⟨[], ?_⟩
      rw [fillPhantoms_closed _ _ _ h, List.append_nil]
    | false =>
      rw [fillPhantoms_succ _ _ _ h]
      obtain ⟨more, hm⟩ := ih (c.appendPhantom lead)
      refine ⟨{ c.nextEntry lead with phantom := true, ready := true } :: more, ?_⟩
      conv_lhs => rw [hm]
      simp only [Context.appendPhantom, List.append_assoc, List.singleton_append]

end

theorem fillPhantoms_ne_nil {lead n : Nat} {c : Context} (hc : c.gen.closed = false) (hn : 0 < n) :
    (c.fillPhantoms lead n).window ≠ [] := by
  obtain ⟨m, rfl⟩ := Nat.exists_eq_succ_of_ne_zero (Nat.ne_of_gt hn)
  obtain ⟨more, hm⟩ := fillPhantoms_shape lead m (c.appendPhantom lead)
  rw [fillPhantoms_succ _ _ _ hc, hm]
  simp [Context.appendPhantom]

theorem fillPhantoms_window (lead n : Nat) (c : Context) : ∃ more, (c.fillPhantoms lead n).window = c.window ++ more := by
  obtain ⟨more, h⟩ := fillPhantoms_shape lead n c
  exact ⟨more, by rw [h]⟩

section
variable {s : State} {i : Nat} {c x : Context} {k : StreamCounts}

theorem createEntry_phantom (hx : x.zone.effective = 0) : (s.withStream i x k).createEntry i x =
    some (s.withStream i (x.appendPhantom s.lead) { k with created := inc k.created }, .none) := by
  unfold State.createEntry
  have hle : x.zone.effective ≤ (x.nextEntry (s.withStream i x k).lead).k := by rw [hx]; exact Nat.zero_le _
  rw [if_pos hle, State.appendEntry, withStream_updCtx, withStream_countStreams]
  rfl

/-- A refill of a window that is not empty. -/
theorem serve_refill (h : s.ctx? i = some c) : ∀ (n : Nat) (x : Context) (k : StreamCounts) (fuel : Nat),
    x.delivering = true → x.window ≠ [] → (n = 0 ∨ x.gen.closed = true ∨ x.zone.effective = 0) →
    x.window.length + n = x.depth ∨ (x.depth ≤ x.window.length ∧ n = 0) →
    (s.withStream i x k).serve i (fuel + n + 1) false = s.withStream i (x.fillPhantoms s.lead n)
      { k with created := addCount k.created ((x.fillPhantoms s.lead n).window.length - x.window.length) } := by
  intro n
  induction n with
  | zero =>
    intro x k fuel hd hw _ hn
    obtain ⟨e, rest, hwin⟩ := List.exists_cons_of_ne_nil hw
    have hfull : ¬ (x.window.length < x.depth ∧ x.gen.closed = false) := fun ⟨hlt, _⟩ => by omega
    rw [State.serve, withStream_ctx? h]
    simp only [hd, if_true, hwin] at hfull ⊢
    rw [if_neg hfull, if_neg (by decide)]
    simp [Context.fillPhantoms, hwin]
  | succ n ih =>
    intro x k fuel hd hw hphantom hn
    obtain ⟨e, rest, hwin⟩ := List.exists_cons_of_ne_nil hw
    rw [State.serve, withStream_ctx? h]
    simp only [hd, if_true, hwin]
    rw [if_neg (by decide)]
    cases hc : x.gen.closed with
    | true =>
      rw [if_neg (by simp), fillPhantoms_closed _ _ _ hc]
      simp [hwin]
    | false =>
      have hx : x.zone.effective = 0 := by simpa [hc] using hphantom
      have hlt : x.window.length < x.depth := by omega
      rw [hwin] at hlt
      rw [if_pos ⟨hlt, rfl⟩, createEntry_phantom hx]
      have hrep : ∀ t : State, t.report .none = t := fun _ => rfl
      dsimp only
      rw [hrep, show fuel + (n + 1) = fuel + n + 1 by omega, ih (x.appendPhantom s.lead) _ fuel hd (by simp [Context.appendPhantom])
        (.inr (.inr hx)) (.inl (by simp only [Context.appendPhantom, List.length_append, List.length_singleton]; omega)),
        ← fillPhantoms_succ _ _ _ hc, addCount_inc]
      obtain ⟨more, hm⟩ := fillPhantoms_window s.lead n (x.appendPhantom s.lead)
      rw [fillPhantoms_succ _ _ _ hc, hm]
      congr 3
      simp only [Context.appendPhantom, List.length_append, List.length_singleton, hwin]
      omega

end

/-! ### Heads that leave, and the head that stays -/

section
variable {s : State} {i : Nat} {c x : Context} {k : StreamCounts} {e : Entry} {rest : List Entry}

theorem testHead_stale (h : s.ctx? i = some c) (hw : x.window = e :: rest) (hst : e.isStale s.clock.sfc = true) :
    (s.withStream i x k).testHead i = ((s.released [e]).withStream i { x with window := rest, dropped := inc x.dropped }
      { k with dropped := inc k.dropped }, true) := by
  unfold State.testHead
  rw [withStream_ctx? h]
  simp only [hw]
  rw [if_pos (show e.isStale (s.withStream i x k).clock.sfc = true from hst), withStream_dropHead e rest hw]

theorem testHead_kept (h : s.ctx? i = some c) (hw : x.window = e :: rest) (hst : e.isStale s.clock.sfc = false) :
    (s.withStream i x k).testHead i = ((s.withStream i x k).policyTest i, false) := by
  unfold State.testHead
  rw [withStream_ctx? h]
  simp only [hw]
  rw [if_neg (show ¬ e.isStale (s.withStream i x k).clock.sfc = true from Bool.eq_false_iff.mp hst)]

theorem policyTest_clean (h : s.ctx? i = some c) (hw : x.window = e :: rest) (hp : ¬ (e.ready = true ∧ e.patched ≠ 0)) :
    (s.withStream i x k).policyTest i = s.withStream i x k := by
  unfold State.policyTest
  rw [withStream_ctx? h]
  simp only [hw]
  exact if_neg hp

theorem policyTest_tolerant (h : s.ctx? i = some c) (hw : x.window = e :: rest) (hp : e.ready = true ∧ e.patched ≠ 0)
    (ht : x.policy = .tolerant) :
    (s.withStream i x k).policyTest i = s.withStream i { x with patched := inc x.patched } k := by
  unfold State.policyTest
  rw [withStream_ctx? h]
  simp only [hw]
  rw [if_pos hp, if_neg (by rw [ht]; decide), withStream_updCtx, hw]

theorem policyTest_strict (h : s.ctx? i = some c) (hw : x.window = e :: rest) (hp : e.ready = true ∧ e.patched ≠ 0)
    (ht : x.policy = .strict) :
    (s.withStream i x k).policyTest i = (s.withStream i { x with patched := inc x.patched } k).enterSpent i .fault := by
  unfold State.policyTest
  rw [withStream_ctx? h]
  simp only [hw]
  rw [if_pos hp, if_pos ht, withStream_updCtx, hw]

theorem serve_fresh (h : s.ctx? i = some c) (hd : x.delivering = true) (hw : x.window = e :: rest) (fuel : Nat) :
    (s.withStream i x k).serve i (fuel + 1) true =
      ((s.withStream i x k).testHead i).1.serve i fuel ((s.withStream i x k).testHead i).2 := by
  rw [State.serve, withStream_ctx? h]
  simp only [hd, hw, if_true]

end

/-- Stale heads are dropped one after another. -/
theorem serve_drops (gone : List Entry) : ∀ {s : State} {i : Nat} {c : Context} (x : Context) (k : StreamCounts)
    (stay : List Entry) (fuel : Nat), s.ctx? i = some c → x.delivering = true → x.window = gone ++ stay →
    (∀ e ∈ gone, e.isStale s.clock.sfc = true) →
    (s.withStream i x k).serve i (fuel + gone.length) true =
      ((s.released gone).withStream i { x with window := stay, dropped := addCount x.dropped gone.length }
        { k with dropped := addCount k.dropped gone.length }).serve i fuel true := by
  induction gone with
  | nil =>
    intro s i c x k stay fuel _ _ hw _
    rw [List.nil_append] at hw
    simp [← hw]
  | cons e rest ih =>
    intro s i c x k stay fuel h hd hw hstale
    rw [List.cons_append] at hw
    rw [List.length_cons, ← Nat.add_assoc, serve_fresh h hd hw, testHead_stale h hw (hstale e (by simp))]
    have h' : (s.released [e]).ctx? i = some c := (released_ctx? s [e] i).trans h
    dsimp only
    rw [ih { x with window := rest ++ stay, dropped := inc x.dropped } { k with dropped := inc k.dropped } stay fuel h' hd rfl fun d hd => by rw [released_clock]; exact hstale d (by simp [hd])]
    simp only [released_released, List.singleton_append, addCount_inc]

section
variable {s : State} {i : Nat} {c x : Context} {k : StreamCounts}

theorem serve_spent {fuel : Nat} {fresh : Bool} (h : s.ctx? i = some c) (hd : c.delivering = false) :
    s.serve i fuel fresh = s := by
  cases fuel with
  | zero => rfl
  | succ fuel =>
    rw [State.serve, h]
    simp [hd]

/-- A RUNNING stream with no entry left and a closed sequence is over. -/
theorem serve_over (h : s.ctx? i = some c) (hd : x.state = .running) (hw : x.window = []) (hc : x.gen.closed = true)
    (fuel : Nat) (fresh : Bool) :
    (s.withStream i x k).serve i (fuel + 1) fresh = (s.withStream i x k).enterSpent i x.endOfSequence := by
  rw [State.serve, withStream_ctx? h]
  simp [Context.delivering, hd, hw, hc]

/-- A closed sequence with entries left needs nothing. -/
theorem serve_closed (h : s.ctx? i = some c) (hw : x.window ≠ []) (hc : x.gen.closed = true) (fuel : Nat) :
    (s.withStream i x k).serve i (fuel + 1) false = s.withStream i x k := by
  obtain ⟨e, rest, hwin⟩ := List.exists_cons_of_ne_nil hw
  rw [State.serve, withStream_ctx? h]
  simp [hwin, hc]

/-- A stream with no entry left, refilled with phantom entries, or over. -/
theorem serve_empty (h : s.ctx? i = some c) (hd : x.delivering = true) (hw : x.window = [])
    (hphantom : x.gen.closed = true ∨ x.zone.effective = 0) (hdepth : 0 < x.depth)
    (hstale : ∀ e rest, (x.fillPhantoms s.lead x.depth).window = e :: rest → e.isStale s.clock.sfc = false)
    (fuel : Nat) (fresh : Bool) :
    (s.withStream i x k).serve i (fuel + x.depth + 1) fresh = (s.withStream i x k).afterHeads i x [] [] := by
  have hx : { x with window := [], dropped := addCount x.dropped ([] : List Entry).length
                     patched := if false = true then inc x.patched else x.patched } = x := by
    rw [List.length_nil, addCount_zero, if_neg (by decide), ← hw]
  unfold State.afterHeads
  dsimp only
  rw [hx, State.serve, withStream_ctx? h]
  simp only [hd, if_true, hw, List.length_nil, Nat.sub_zero, addCount_zero]
  cases hc : x.gen.closed with
  | true =>
    have hgen : { x.gen with closed := true } = x.gen := by rw [← hc]
    rw [if_pos rfl, fillPhantoms_closed _ _ _ hc]
    by_cases hrun : x.state = .running
    · rw [if_pos hrun, if_pos ⟨hw, hrun⟩, withStream_enterSpent h, hw, released_nil, hgen]
      by_cases hcut : x.releaseMode = .cut
      · simp [Context.endOfSequence, hcut, State.withStream, Sparse.modify_modify, StreamCounts.countEnd]
      · simp [Context.endOfSequence, hcut, State.withStream, Sparse.modify_modify, StreamCounts.countEnd]
    · rw [if_neg hrun, if_neg fun hn => hrun hn.2]
      simp [State.withStream, Sparse.modify_modify, hw]
  | false =>
    have hx : x.zone.effective = 0 := hphantom.resolve_left (by simp [hc])
    obtain ⟨d, hd'⟩ : ∃ d, x.depth = d + 1 := ⟨x.depth - 1, by omega⟩
    have hfill := fillPhantoms_succ s.lead d x hc
    have happ : (x.appendPhantom s.lead).window = [{ x.nextEntry s.lead with phantom := true, ready := true }] := by
      rw [Context.appendPhantom, hw]
      rfl
    obtain ⟨more, hmore⟩ := fillPhantoms_window s.lead d (x.appendPhantom s.lead)
    rw [happ, ← hfill, ← hd'] at hmore
    have hfirst := hstale _ _ hmore
    rw [if_neg (by decide), createEntry_phantom hx]
    dsimp only
    rw [testHead_kept h happ hfirst, policyTest_clean h happ fun hp => hp.2 rfl]
    have hrep : ∀ t : State, t.report .none = t := fun _ => rfl
    dsimp only
    rw [hrep, hd', show fuel + (d + 1) = fuel + d + 1 by omega,
      serve_refill h d (x.appendPhantom s.lead) _ fuel hd (by simp [happ]) (.inr (.inr hx)) (.inl (by rw [happ]; exact (Nat.add_comm 1 d).trans hd'.symm)),
      ← hfill, ← hd', addCount_inc, happ]
    have hlead : (s.withStream i x k).lead = s.lead := rfl
    rw [if_neg (by rw [hlead, hmore]; simp), hlead, hmore]
    simp [State.withStream, Sparse.modify_modify]

end

/-- What follows stale heads, made before their references are released or after. -/
theorem released_afterHeads (s : State) (entries : List Entry) (i : Nat) (c : Context) (gone stay : List Entry) :
    (s.released entries).afterHeads i c gone stay = (s.afterHeads i c gone stay).released entries :=
  released_comm (f := fun t => t.afterHeads i c gone stay) s entries fun t o => by
    unfold State.afterHeads
    dsimp only
    rw [apply_ite t.around]
    rfl

/-- The stale heads' part of what follows, and then the rest of it. -/
theorem afterHeads_none (s : State) (i : Nat) (x : Context) (k : StreamCounts) (gone : List Entry) :
    (s.withStream i x k).afterHeads i x gone [] =
      (s.withStream i { x with window := [], dropped := addCount x.dropped gone.length }
        { k with dropped := addCount k.dropped gone.length }).afterHeads i
          { x with window := [], dropped := addCount x.dropped gone.length } [] [] := by
  simp only [State.afterHeads, State.withStream, Sparse.modify_modify, List.length_nil, addCount_zero]
  rfl

theorem afterHeads_stay (s : State) (i : Nat) (x : Context) (k : StreamCounts) (gone : List Entry) (e : Entry)
    (rest : List Entry) : (s.withStream i x k).afterHeads i x gone (e :: rest) =
      (let y := { x with window := e :: rest, dropped := addCount x.dropped gone.length
                         patched := if (e.ready && e.patched != 0) = true then inc x.patched else x.patched }
       let after := y.fillPhantoms s.lead (x.depth - (e :: rest).length)
       s.withStream i after { k with dropped := addCount k.dropped gone.length
                                     created := addCount k.created (after.window.length - (e :: rest).length) }) := by
  unfold State.afterHeads
  dsimp only
  rw [if_neg fun hn => ?_]
  · simp only [State.withStream, Sparse.modify_modify]
    rfl
  · obtain ⟨more, hm⟩ := fillPhantoms_window (s.withStream i x k).lead (x.depth - (e :: rest).length)
      { x with window := e :: rest, dropped := addCount x.dropped gone.length
               patched := if (e.ready && e.patched != 0) = true then inc x.patched else x.patched }
    rw [hm] at hn
    simp at hn

theorem isStale_iff {e : Entry} {sfc : Time} : e.isStale sfc = true ↔ e.busPhase = .none ∧ 0 ≤ signedDiff sfc e.leaveTime := by
  simp [Entry.isStale]

section
variable {s : State} {i : Nat} {c x : Context} {k : StreamCounts}

/-- The head that stays has its policy test, here where no STRICT stream is at a patched head. -/
theorem policyTest_stays {e : Entry} {rest : List Entry} (h : s.ctx? i = some c) (hw : x.window = e :: rest)
    (hp : x.policy = .tolerant ∨ e.ready = false ∨ e.patched = 0) : (s.withStream i x k).policyTest i =
      s.withStream i { x with patched := if (e.ready && e.patched != 0) = true then inc x.patched else x.patched } k := by
  by_cases ht : e.ready = true ∧ e.patched ≠ 0
  · have htol : x.policy = .tolerant := hp.resolve_right fun hn => hn.elim (fun h' => by simp [h'] at ht) ht.2
    rw [policyTest_tolerant h hw ht htol, if_pos (by simpa using ht)]
  · rw [policyTest_clean h hw ht, if_neg (by simpa using ht)]

/-- The head stays, has its test, and the window is refilled with phantom entries. -/
theorem serve_stay {e : Entry} {rest : List Entry} (h : s.ctx? i = some c) (hd : x.delivering = true)
    (hw : x.window = e :: rest) (hphantom : x.gen.closed = true ∨ x.zone.effective = 0)
    (hkept : e.isStale s.clock.sfc = false) (hp : x.policy = .tolerant ∨ e.ready = false ∨ e.patched = 0) (fuel : Nat) :
    (s.withStream i x k).serve i (fuel + x.depth + 2) true = (s.withStream i x k).afterHeads i x [] x.window := by
  rw [show fuel + x.depth + 2 = (fuel + x.depth + 1) + 1 from rfl, serve_fresh h hd hw, testHead_kept h hw hkept,
    policyTest_stays h hw hp, hw, afterHeads_stay]
  dsimp only
  obtain ⟨more, hm⟩ : ∃ more, more = x.depth - (e :: rest).length := ⟨_, rfl⟩
  rw [show fuel + x.depth + 1 = (fuel + (x.depth - more)) + more + 1 by omega, ← hm, ← hw,
    serve_refill h more { x with patched := if (e.ready && e.patched != 0) = true then inc x.patched else x.patched } k _ hd
      (by simp [hw]) (.inr hphantom) (by simp only [hw]; omega)]
  simp only [List.length_nil, addCount_zero]

/-- The counts of a context have no part in its refill. -/
theorem fillPhantoms_counts (lead n : Nat) (c : Context) (d p : Count) :
    Context.fillPhantoms lead n { c with dropped := d, patched := p } =
      { c.fillPhantoms lead n with dropped := d, patched := p } := by
  induction n generalizing c with
  | zero => rfl
  | succ n ih =>
    cases hc : c.gen.closed with
    | true =>
      rw [fillPhantoms_closed _ _ c hc]
      exact fillPhantoms_closed lead (n + 1) { c with dropped := d, patched := p } hc
    | false =>
      rw [fillPhantoms_succ _ _ c hc]
      exact (fillPhantoms_succ lead n { c with dropped := d, patched := p } hc).trans (ih (c.appendPhantom lead))

/-- Stale heads dropped, the head that stays tested, and the window refilled with phantom entries. -/
theorem serve_heads {gone stay : List Entry} (h : s.ctx? i = some c) (hd : x.delivering = true) (hdepth : 0 < x.depth)
    (hs : s.ServesHeads x gone stay) (fuel : Nat) :
    (s.withStream i x k).serve i (fuel + x.depth + 2 + gone.length) true =
      ((s.withStream i x k).afterHeads i x gone stay).released gone := by
  obtain ⟨hw, hstale, hphantom, hkept, hpolicy⟩ := hs
  have hg : (s.released gone).ctx? i = some c := (released_ctx? s gone i).trans h
  have hlead : (s.released gone).lead = s.lead := by rw [State.lead, released_status]; rfl
  rw [serve_drops gone x k stay (fuel + x.depth + 2) h hd hw fun e he => isStale_iff.mpr (hstale e he)]
  cases stay with
  | nil =>
    rw [afterHeads_none, ← released_afterHeads, withStream_released]
    rw [show fuel + x.depth + 2 = (fuel + 1) + x.depth + 1 by omega]
    refine serve_empty (x := { x with window := [], dropped := addCount x.dropped gone.length }) hg hd rfl hphantom hdepth
      (fun e rest he => ?_) (fuel + 1) true
    rw [hlead] at he
    rw [released_clock]
    have hcounts := fillPhantoms_counts s.lead x.depth { x with window := [] } (addCount x.dropped gone.length) x.patched
    exact hkept e rest ((congrArg Context.window hcounts).symm.trans he)
  | cons e rest =>
    have hnot : e.isStale s.clock.sfc = false := by
      obtain ⟨more, hm⟩ := fillPhantoms_window s.lead (x.depth - (e :: rest).length) { x with window := e :: rest }
      exact hkept e (rest ++ more) hm
    have hpol : x.policy = .tolerant ∨ e.ready = false ∨ e.patched = 0 := hpolicy.imp_right fun h => h e rest rfl
    rw [serve_stay (x := { x with window := e :: rest, dropped := addCount x.dropped gone.length }) hg hd rfl hphantom
      (by rw [released_clock]; exact hnot) hpol fuel, ← released_afterHeads, withStream_released, afterHeads_stay,
      afterHeads_stay]
    simp only [List.length_nil, addCount_zero]

/-- What follows with no stale head and no entry left, where the refill brings one. -/
theorem afterHeads_refilled (hw : x.window = []) (hr : (x.fillPhantoms s.lead x.depth).window ≠ []) :
    (s.withStream i x k).afterHeads i x [] [] = s.withStream i (x.fillPhantoms s.lead x.depth)
      { k with created := addCount k.created (x.fillPhantoms s.lead x.depth).window.length } := by
  have hx : { x with window := [], dropped := addCount x.dropped ([] : List Entry).length
                     patched := if false = true then inc x.patched else x.patched } = x := by
    rw [List.length_nil, addCount_zero, if_neg (by decide), ← hw]
  unfold State.afterHeads
  dsimp only
  have hlead : (s.withStream i x k).lead = s.lead := rfl
  rw [hx, if_neg fun hn => hr hn.1, hlead]
  simp only [State.withStream, Sparse.modify_modify, addCount_zero, List.length_nil, Nat.sub_zero]

/-- Stale heads dropped, and the patched head behind them ends a STRICT stream. -/
theorem serve_faults {gone more : List Entry} {next : Entry} (h : s.ctx? i = some c) (hd : x.delivering = true)
    (hs : s.FaultsAtHead x gone next more) (fuel : Nat) : (s.withStream i x k).serve i (fuel + 1 + gone.length) true =
      ((s.withStream i x k).afterFault i x gone (next :: more)).released x.window := by
  obtain ⟨hstrict, hw, hstale, hnot, hready, hpatched⟩ := hs
  have hg : (s.released gone).ctx? i = some c := (released_ctx? s gone i).trans h
  rw [serve_drops gone x k (next :: more) (fuel + 1) h hd hw fun e he => isStale_iff.mpr (hstale e he)]
  obtain ⟨y, hy⟩ : ∃ y : Context, y = { x with window := next :: more, dropped := addCount x.dropped gone.length } := ⟨_, rfl⟩
  rw [← hy]
  have hyd : y.delivering = true := by rw [hy]; exact hd
  have hyw : y.window = next :: more := by rw [hy]
  have hys : y.policy = .strict := by rw [hy]; exact hstrict
  rw [serve_fresh hg hyd hyw, testHead_kept hg hyw (by rw [released_clock]; exact hnot),
    policyTest_strict hg hyw ⟨hready, hpatched⟩ hys, withStream_enterSpent hg, released_released, released_onBus]
  have hspent : ((s.onBus fun b => { b with notices := b.notices ++
      [.ended i y.id .fault y.delivered y.dropped (inc y.patched)] }).released (gone ++ y.window)).ctx? i = some c :=
    (released_ctx? _ _ i).trans h
  rw [serve_spent (withStream_ctx? hspent) rfl, ← withStream_released, hyw, ← hw]
  subst hy
  refine congrArg (State.released x.window) ?_
  simp only [State.withStream, State.afterFault, Sparse.modify_modify, StreamCounts.countEnd]
  rfl

theorem serveNow_over (h : s.ctx? i = some c) (hd : x.state = .running) (hw : x.window = []) (hc : x.gen.closed = true)
    (fresh : Bool) : (s.withStream i x k).serveNow i fresh =
      ((s.onBus fun b => { b with notices := b.notices ++
          [.ended i x.id x.endOfSequence x.delivered x.dropped x.patched] }).withStream i
        { x with state := .spent, endReason := some x.endOfSequence, offer := none }
        (StreamCounts.countEnd x.endOfSequence k)) := by
  obtain ⟨fuel, hf⟩ : ∃ fuel, Config.cascadeBound = fuel + 1 := ⟨4294967295, rfl⟩
  rw [State.serveNow, hf, serve_over h hd hw hc, withStream_enterSpent h, hw, released_nil, List.length_nil, addCount_zero]
  have hgen : { x.gen with closed := true } = x.gen := by rw [← hc]
  rw [hgen, ← hw]

theorem serveNow_closed (h : s.ctx? i = some c) (hw : x.window ≠ []) (hc : x.gen.closed = true) :
    (s.withStream i x k).serveNow i false = s.withStream i x k := by
  obtain ⟨fuel, hf⟩ : ∃ fuel, Config.cascadeBound = fuel + 1 := ⟨4294967295, rfl⟩
  rw [State.serveNow, hf, serve_closed h hw hc]

theorem serveNow_kept (h : s.ctx? i = some c) (hd : x.delivering = true) (hw : x.window ≠ [])
    (hfill : x.window.length = x.depth ∨ x.gen.closed = true ∨ x.zone.effective = 0) (hb : x.depth + 1 ≤ Config.cascadeBound) :
    (s.withStream i x k).serveNow i false = s.withStream i (x.fillPhantoms s.lead (x.depth - x.window.length))
      { k with
        created := addCount k.created
          ((x.fillPhantoms s.lead (x.depth - x.window.length)).window.length - x.window.length) } := by
  obtain ⟨fuel, hf⟩ := Nat.exists_eq_add_of_le' hb
  rw [State.serveNow, hf, ← serve_refill h (x.depth - x.window.length) x k (fuel + (x.depth - (x.depth - x.window.length)))
    hd hw (hfill.imp_left fun h => by omega) (by omega)]
  congr 1
  omega

theorem serveNow_empty (h : s.ctx? i = some c) (hd : x.delivering = true) (hw : x.window = [])
    (hphantom : x.gen.closed = true ∨ x.zone.effective = 0) (hdepth : 0 < x.depth)
    (hstale : ∀ e rest, (x.fillPhantoms s.lead x.depth).window = e :: rest → e.isStale s.clock.sfc = false)
    (hb : x.depth + 1 ≤ Config.cascadeBound) (fresh : Bool) :
    (s.withStream i x k).serveNow i fresh = (s.withStream i x k).afterHeads i x [] [] := by
  obtain ⟨fuel, hf⟩ := Nat.exists_eq_add_of_le' hb
  rw [State.serveNow, hf, ← serve_empty h hd hw hphantom hdepth hstale fuel fresh, Nat.add_assoc]

theorem serveNow_heads {gone stay : List Entry} (h : s.ctx? i = some c) (hd : x.delivering = true) (hdepth : 0 < x.depth)
    (hs : s.ServesHeads x gone stay) (hb : x.depth + 2 + gone.length ≤ Config.cascadeBound) :
    (s.withStream i x k).serveNow i true = ((s.withStream i x k).afterHeads i x gone stay).released gone := by
  obtain ⟨fuel, hf⟩ := Nat.exists_eq_add_of_le' hb
  rw [State.serveNow, hf, ← serve_heads h hd hdepth hs fuel]
  congr 1
  omega

theorem serveNow_faults {gone more : List Entry} {next : Entry} (h : s.ctx? i = some c) (hd : x.delivering = true)
    (hs : s.FaultsAtHead x gone next more) (hb : 1 + gone.length ≤ Config.cascadeBound) :
    (s.withStream i x k).serveNow i true =
      ((s.withStream i x k).afterFault i x gone (next :: more)).released x.window := by
  obtain ⟨fuel, hf⟩ := Nat.exists_eq_add_of_le' hb
  rw [State.serveNow, hf, ← serve_faults h hd hs fuel, Nat.add_assoc]

/-- The stale test of a stale head serves the context from that head on. -/
theorem staleTest_eq_serve {e : Entry} {rest : List Entry} (h : s.ctx? i = some c) (hd : x.delivering = true)
    (hw : x.window = e :: rest) (hst : e.isStale s.clock.sfc = true) :
    (s.withStream i x k).staleTest i = (s.withStream i x k).serve i (Config.cascadeBound + 1) true := by
  unfold State.staleTest
  rw [serve_fresh h hd hw, testHead_stale h hw hst, ← withStream_dropHead e rest hw, withStream_ctx? h]
  simp only [hd, hw, if_true]
  exact if_pos hst

theorem staleTest_heads {gone stay : List Entry} (h : s.ctx? i = some c) (hd : x.delivering = true) (hdepth : 0 < x.depth)
    (hne : gone ≠ []) (hs : s.ServesHeads x gone stay) (hb : x.depth + 2 + gone.length ≤ Config.cascadeBound + 1) :
    (s.withStream i x k).staleTest i = ((s.withStream i x k).afterHeads i x gone stay).released gone := by
  obtain ⟨e, rest, rfl⟩ := List.exists_cons_of_ne_nil hne
  obtain ⟨fuel, hf⟩ := Nat.exists_eq_add_of_le' hb
  rw [staleTest_eq_serve h hd hs.1 (isStale_iff.mpr (hs.2.1 e (by simp))), hf, ← serve_heads h hd hdepth hs fuel]
  congr 1
  omega

theorem staleTest_faults {gone more : List Entry} {next : Entry} (h : s.ctx? i = some c) (hd : x.delivering = true)
    (hne : gone ≠ []) (hs : s.FaultsAtHead x gone next more) (hb : gone.length ≤ Config.cascadeBound) :
    (s.withStream i x k).staleTest i = ((s.withStream i x k).afterFault i x gone (next :: more)).released x.window := by
  obtain ⟨e, rest, rfl⟩ := List.exists_cons_of_ne_nil hne
  obtain ⟨fuel, hf⟩ := Nat.exists_eq_add_of_le' hb
  obtain ⟨-, hw, hstale, -⟩ := id hs
  rw [staleTest_eq_serve h hd hw (isStale_iff.mpr (hstale e (by simp))), hf, ← serve_faults h hd hs fuel]
  congr 1
  omega

end

/-- The bound of a cascade leaves room for every window and every refill. -/
theorem cascadeBound_ge (c : Context) (h : c.WindowLaw) {n : Nat} (hn : n ≤ c.window.length) :
    c.depth + 2 + n ≤ Config.cascadeBound := by
  obtain ⟨-, -, h16, hlen, -⟩ := h
  have : 34 ≤ Config.cascadeBound := by decide
  omega

end Sys2Proof.Machine


/-! SUPPORT. A CUT and a PLAYOUT acted on (R48 to R50, R83 to R88). -/

namespace Sys2Proof.Machine

section
variable {f : ReleaseFields} {i : Nat} {c : Context} {l : Loop} {s : State}

theorem releaseContext_cut (h : c.state = .looping ∨ (c.state = .running ∧ c.releaseMode ≠ .cut)) (hf : f.mode ≠ 1) :
    s.releaseContext i c f = s.actCut i c f.time := by
  unfold State.releaseContext
  rw [takeMode_cut hf]
  rcases h with h | ⟨h, hm⟩
  · rw [h]
  · rw [h]
    cases hr : c.releaseMode with
    | cut => exact absurd hr hm
    | none => rfl
    | playout => rfl

theorem releaseContext_playout (h : c.state = .looping) (hf : f.mode = 1) (hl : c.loop? = some l) :
    s.releaseContext i c f =
      (s.countStreams fun k => { k with playout := inc k.playout }).playoutLooping i c l (c.distanceAt f.time) := by
  unfold State.releaseContext
  rw [takeMode_playout hf, h]
  dsimp only
  rw [State.actPlayout, hl]

/-- A window cut in two where its entries pass a test. -/
theorem filter_window {p : Entry → Bool} {window keep gone : List Entry} (h : window = keep ++ gone)
    (hk : ∀ e ∈ keep, p e = true) (hg : ∀ e ∈ gone, p e = false) :
    window.filter p = keep ∧ (window.filter fun e => !p e) = gone := by
  subst h
  rw [List.filter_append, List.filter_append, List.filter_eq_self.mpr hk, List.filter_eq_nil_iff.mpr fun e he => by simp [hg e he],
    List.filter_eq_nil_iff.mpr fun e he => by simp [hk e he], List.filter_eq_self.mpr fun e he => by simp [hg e he],
    List.append_nil, List.nil_append]
  exact ⟨rfl, rfl⟩

theorem head?_any_append {p : Entry → Bool} {keep gone : List Entry} (hk : ∀ e ∈ keep, p e = true) (hne : keep ≠ []) :
    ((keep ++ gone).head?.any fun e => !p e) = false := by
  obtain ⟨e, rest, rfl⟩ := List.exists_cons_of_ne_nil hne
  simp [hk e (by simp)]

/-- The generator after a CUT at dr (R87). -/
def Context.cutGenerator (c : Context) (dr : Distance) : Generator :=
  { c.gen with closed := c.gen.closed || decide (dr ≤ c.needAt c.gen.part c.gen.k) }

theorem cutGenerator_closed {dr : Distance} (h : c.gen.closed = true ∨ dr ≤ c.needAt c.gen.part c.gen.k) :
    c.cutGenerator dr = { c.gen with closed := true } := by
  rw [Context.cutGenerator]
  rcases h with h | h <;> simp [h]

theorem cutGenerator_open {dr : Distance} (hd : c.needAt c.gen.part c.gen.k < dr) :
    c.cutGenerator dr = c.gen := by
  have : ¬ dr ≤ c.needAt c.gen.part c.gen.k := BitVec.not_le.mpr hd
  rw [Context.cutGenerator]
  simp [this]

/-- The counts of a CUT acted on that withdraws n entries. -/
def StreamCounts.afterCut (k : StreamCounts) (n : Nat) : StreamCounts :=
  { k with cut := inc k.cut, withdrawn := addCount k.withdrawn n }

/-- The context a CUT leaves with the entries `keep`, before it is served. -/
def Context.cutAt (c : Context) (dr : Distance) (keep : List Entry) : Context :=
  { c with state := .running, releaseMode := .cut, cutDistance := some dr, gen := c.cutGenerator dr, window := keep }

/-- A CUT acted on: the context cut, the references of what is withdrawn released, the rest served. -/
theorem actCut_eq (ht : s.TableLaw) (hc : s.ctx? i = some c) {time : Time} {dr : Distance} (hdr : c.distanceAt time = dr)
    {keep gone : List Entry} (hk : (c.window.filter fun e => decide (e.need < dr)) = keep)
    (hg : (c.window.filter fun e => !decide (e.need < dr)) = gone) :
    s.actCut i c time = ((s.released gone).withStream i (c.cutAt dr keep) (s.streams.counts.afterCut gone.length)).serveNow i
      (c.window.head?.any fun e => !decide (e.need < dr)) := by
  have hgen : (if c.gen.closed = false ∧ dr ≤ c.needAt c.gen.part c.gen.k then { c.gen with closed := true } else c.gen)
      = c.cutGenerator dr := by
    by_cases h : c.gen.closed = false ∧ dr ≤ c.needAt c.gen.part c.gen.k
    · rw [if_pos h, cutGenerator_closed (.inr h.2)]
    · rw [if_neg h]
      by_cases hclosed : c.gen.closed = true
      · rw [cutGenerator_closed (.inl hclosed), ← hclosed]
      · have hopen : c.gen.closed = false := Bool.eq_false_iff.mpr hclosed
        exact (cutGenerator_open (BitVec.not_le.mp fun hle => h ⟨hopen, hle⟩)).symm
  have hc' : (s.countStreams fun k => { k with cut := inc k.cut }).ctx? i = some c := hc
  rw [State.actCut, hdr, State.cutStream, hgen, hk, hg, updCtx_eq_withStream (by exact ht.1) hc', withdraw_eq,
    withStream_countStreams, withStream_released]
  refine congrArg (State.serveNow i _) ?_
  rw [← withStream_released, ← withStream_released]
  rfl

end

theorem afterHeads_plain (s : State) (i : Nat) (c : Context) (gone stay : List Entry) :
    (s.afterHeads i c gone stay).plain = s.plain.afterHeads i c gone stay := by
  unfold State.afterHeads
  exact apply_ite State.plain _ _ _

/-- What the heads of a context do depends on the count and the lead alone. -/
theorem servesHeads_congr {s t : State} {c : Context} {gone stay : List Entry} (h : s.ServesHeads c gone stay)
    (hsfc : t.clock.sfc = s.clock.sfc) (hlead : t.lead = s.lead) : t.ServesHeads c gone stay := by
  unfold State.ServesHeads
  rw [hsfc, hlead]
  exact h

/-- A release of a context found by its id, with what it gives beside the released references. -/
theorem release_gives {dt : Micros} {src : Station} {f : ReleaseFields} {frame : List Byte} {i : Nat} {c : Context} {s u e : State}
    {entries : List Entry} (h : s.handsOn src) (hids : s.StreamIdLaw) (hc : s.ctx? i = some c) (hid : c.id = f.id)
    (hu : (s.handing dt frame).releaseContext i c f = u.released entries) (he : u.plain = e.plain) :
    Result.GivesReleasing (exec (.release ⟨dt, frame⟩ src f) s) entries e :=
  broadcast_gives h ((takeRelease_held (s := s.handing dt frame) hids hc hid).trans hu)
    (by rw [released_plain, he, ← released_plain])

/-- Settles O38: the window cut in two, what stays served. -/
theorem cutTruncates : Obligations.CutTruncates := by
  intro dt src f frame i c s h ht hids hc hid hf hst ahead dr cmd held counts leaves
  have hact := (releaseContext_cut (s := s.handing dt frame) (i := i) hst hf)
  have hdr : c.distanceAt f.time = dr := rfl
  have hcut := fun {keep gone} => actCut_eq (s := s.handing dt frame) ht hc hdr (keep := keep) (gone := gone)
  refine ⟨fun keep gone hw hk hg => ?_, ?_⟩
  · obtain ⟨hkeep, hgone⟩ := filter_window (p := fun e => decide (e.need < dr)) hw (fun e he => decide_eq_true (hk e he))
      fun e he => decide_eq_false (BitVec.not_lt.mpr (hg e he))
    have hrun := hcut hkeep hgone
    have hctx : ((s.handing dt frame).released gone).ctx? i = some c := (released_ctx? _ gone i).trans hc
    refine ⟨fun hclosed => ⟨fun hne => ?_, fun hempty => ?_⟩, fun hopen hbelow hlaw => ?_⟩
    · have hx : c.cutAt dr keep = { held keep with gen := { c.gen with closed := true } } := by
        rw [Context.cutAt, cutGenerator_closed hclosed]
      rw [hw, head?_any_append (fun e he => decide_eq_true (hk e he)) hne, hx,
        serveNow_closed hctx hne rfl, ← withStream_released] at hrun
      exact release_gives h hids hc hid (hact.trans hrun) rfl
    · have hx : c.cutAt dr keep = { held keep with gen := { c.gen with closed := true } } := by
        rw [Context.cutAt, cutGenerator_closed hclosed]
      subst hempty
      rw [hx, serveNow_over hctx rfl rfl rfl, released_onBus, ← withStream_released] at hrun
      exact release_gives h hids hc hid (hact.trans hrun) rfl
    · intro after hfill hfirst
      have hx : c.cutAt dr keep = held keep := by
        rw [Context.cutAt, cutGenerator_open hbelow]
      have hlead : ((s.handing dt frame).released gone).lead = s.lead := by rw [State.lead, released_status]; rfl
      have hbound := cascadeBound_ge c hlaw (Nat.zero_le _)
      obtain ⟨-, h2, -, hlen, -⟩ := hlaw
      have hdepth : ∀ window, (held window).depth = c.depth := fun _ => rfl
      have hd := hdepth keep
      by_cases hne : keep = []
      · have hzero : c.zone.effective = 0 := hfill.resolve_left (by rw [hne, List.length_nil]; omega)
        subst hne
        rw [hx, serveNow_empty (x := held []) hctx rfl rfl (.inr hzero) (by omega)
          (fun e rest he => by rw [released_clock]; exact hfirst rfl e rest (by rw [hlead] at he; exact he))
          (by omega), afterHeads_refilled (x := held []) rfl (fillPhantoms_ne_nil (c := held []) hopen (by omega)), hlead, ← withStream_released] at hrun
        exact release_gives h hids hc hid (hact.trans hrun) rfl
      · rw [hw, head?_any_append (fun e he => decide_eq_true (hk e he)) hne, hx,
          serveNow_kept (x := held keep) hctx rfl hne (hfill.imp_right .inr) (by omega), hlead,
          ← withStream_released] at hrun
        exact release_gives h hids hc hid (hact.trans hrun) rfl
  · intro e rest dropped stay hw hle hlaw keep gone cut hne hs
    have hleaves : decide (e.need < dr) = false := decide_eq_false (BitVec.not_lt.mpr hle)
    have hkeep : (c.window.filter fun x => decide (x.need < dr)) = keep := by
      rw [hw, List.filter_cons_of_neg (by simp [hleaves])]
    have hgone : (c.window.filter fun x => !decide (x.need < dr)) = gone := by
      have hp : (fun x : Entry => !decide (x.need < dr)) = fun x => decide (dr ≤ x.need) := by
        funext x
        rw [← decide_not, decide_eq_decide, BitVec.not_lt]
      rw [hw, List.filter_cons_of_pos (by simp [hleaves]), hp]
    have hrun := hcut hkeep hgone
    have hctx : ((s.handing dt frame).released gone).ctx? i = some c := (released_ctx? _ gone i).trans hc
    have hserves : ((s.handing dt frame).released gone).ServesHeads (c.cutAt dr keep) dropped stay :=
      servesHeads_congr hs (by rw [released_clock]; rfl) (by rw [State.lead, released_status]; rfl)
    have hlen : dropped.length ≤ c.window.length := by
      have h1 : keep = dropped ++ stay := hs.1
      have h2 : keep.length ≤ c.window.length := by rw [← hkeep]; exact List.length_filter_le _ _
      rw [h1, List.length_append] at h2
      omega
    have h2 : 2 ≤ c.depth := hlaw.2.1
    rw [show (c.window.head?.any fun x => !decide (x.need < dr)) = true by rw [hw]; simp [hleaves],
      serveNow_heads hctx rfl (by exact (by omega : 0 < c.depth)) hserves (cascadeBound_ge c hlaw hlen), ← withStream_released,
      released_afterHeads, released_released] at hrun
    exact release_gives h hids hc hid (hact.trans hrun) (by rw [afterHeads_plain, afterHeads_plain]; rfl)

/-! ### PLAYOUT -/

/-- The index at which pass m of a loop ends (R85). -/
def Context.passEnd (c : Context) (l : Loop) (m : Nat) : Nat := c.firstCount l + m * c.passCount l

/-- The context a PLAYOUT leaves with the entries `keep`, before it is served. -/
def Context.playoutAt (c : Context) (l : Loop) (m : Nat) (keep : List Entry) : Context :=
  { c with state := .running, releaseMode := .playout, exitPass := some m, gen := c.exitGenerator l m, window := keep }

/-- A PLAYOUT acted on: the exit pass fixed, the references of the overrun released, the rest served. -/
theorem playoutLooping_eq {s : State} {i : Nat} {c : Context} (ht : s.TableLaw) (hc : s.ctx? i = some c) (l : Loop)
    {dr : Distance} {m : Nat} (hm : c.exitPassAt l dr = m)
    {keep gone : List Entry} (hk : (c.window.filter fun e => decide (e.index < c.passEnd l m)) = keep)
    (hg : (c.window.filter fun e => !decide (e.index < c.passEnd l m)) = gone) :
    (s.countStreams fun k => { k with playout := inc k.playout }).playoutLooping i c l dr =
      ((s.released gone).withStream i (c.playoutAt l m keep) { s.streams.counts with
        playout := inc s.streams.counts.playout, withdrawn := addCount s.streams.counts.withdrawn gone.length }).serveNow i
          (c.window.head?.any fun e => !decide (e.index < c.passEnd l m)) := by
  have hc' : (s.countStreams fun k => { k with playout := inc k.playout }).ctx? i = some c := hc
  unfold Context.passEnd at hk hg
  rw [State.playoutLooping, hm]
  dsimp only
  rw [hk, hg, updCtx_eq_withStream (by exact ht.1) hc', withdraw_eq, withStream_countStreams, withStream_released]
  refine congrArg (State.serveNow i _) ?_
  rw [← withStream_released, ← withStream_released]
  rfl

/-- Settles O39: the window cut at the exit pass, what stays served. -/
theorem playoutFixesTheExit : Obligations.PlayoutFixesTheExit := by
  intro dt src f frame i c l keep gone s h ht hids hc hlaw hid hf hst hactive hloop ahead dr m b last hw hk hg gen held after
    hfill hfirst counts
  have hl : c.loop? = some l := by rw [Context.loop?, hactive, if_pos rfl, hloop]
  have hgen : c.exitGenerator l m = gen := by
    show (if c.gen.index < last then c.gen else c.toCoda l { c.gen with overrun := c.gen.index - last, index := last }) = gen
    unfold Context.toCoda
    rfl
  have hx : c.playoutAt l m keep = held := by rw [Context.playoutAt, hgen]
  obtain ⟨hkeep, hgone⟩ := filter_window (p := fun e => decide (e.index < c.passEnd l m)) hw
    (fun e he => decide_eq_true (hk e he)) fun e he => decide_eq_false (Nat.not_lt.mpr (hg e he))
  have hrun := (releaseContext_playout (s := s.handing dt frame) (i := i) hst hf hl).trans
    (playoutLooping_eq (s := s.handing dt frame) ht hc l (dr := c.distanceAt f.time) (m := m) rfl hkeep hgone)
  have hctx : ((s.handing dt frame).released gone).ctx? i = some c := (released_ctx? _ gone i).trans hc
  have hlead : ((s.handing dt frame).released gone).lead = s.lead := by rw [State.lead, released_status]; rfl
  have hbound := cascadeBound_ge c hlaw (Nat.zero_le _)
  obtain ⟨-, h2, -, hlen, -⟩ := hlaw
  have hdepth : held.depth = c.depth := rfl
  have hafter : after = held.fillPhantoms s.lead (c.depth - keep.length) := rfl
  rw [hx] at hrun
  by_cases hne : keep = []
  · subst hne
    have hphantom : gen.closed = true ∨ c.zone.effective = 0 := hfill.resolve_left (by rw [List.length_nil]; omega)
    cases hc' : gen.closed with
    | true =>
      have hsame : after = held := fillPhantoms_closed _ _ held hc'
      have hspent : { held with state := .spent, endReason := some .complete, offer := none } =
          { after with state := .spent, gen := { after.gen with closed := true }, endReason := some .complete, offer := none } := by
        rw [hsame, ← hc']
      refine ⟨fun hn => absurd (congrArg Context.window hsame) hn, fun _ => ?_⟩
      rw [serveNow_over (x := held) hctx rfl rfl hc', released_onBus, ← withStream_released] at hrun
      refine release_gives h hids hc hid hrun ?_
      have hcreated : addCount s.streams.counts.created (after.window.length - ([] : List Entry).length) =
          s.streams.counts.created := by
        rw [hsame]
        exact addCount_zero _
      rw [← hspent]
      simp only [counts, hcreated]
      rfl
    | false =>
      have hzero : c.zone.effective = 0 := hphantom.resolve_left (by simp [hc'])
      have hn : after.window ≠ [] := fillPhantoms_ne_nil (c := held) hc' (by rw [List.length_nil]; omega)
      refine ⟨fun _ => ?_, fun hnil => absurd hnil hn⟩
      rw [serveNow_empty (x := held) hctx rfl rfl (.inr hzero) (by omega)
        (fun e rest he => by rw [released_clock]; exact hfirst rfl e rest (by rw [hlead] at he; exact he)) (by omega),
        afterHeads_refilled (x := held) rfl (by rw [hlead]; exact hn), hlead, ← withStream_released] at hrun
      exact release_gives h hids hc hid hrun rfl
  · rw [hw, head?_any_append (p := fun e => decide (e.index < c.passEnd l m)) (fun e he => decide_eq_true (hk e he)) hne,
      serveNow_kept (x := held) hctx rfl hne hfill (by omega), hlead, ← withStream_released] at hrun
    refine ⟨fun _ => release_gives h hids hc hid hrun rfl, fun hnil => ?_⟩
    obtain ⟨more, hm⟩ := fillPhantoms_window s.lead (c.depth - keep.length) held
    exact absurd (hm.symm.trans hnil) (by simp [held, hne])

end Sys2Proof.Machine


/-! SUPPORT. The slots of the 7240's own frames, and contests lost (R62 to R64, R68, R80 to R83, R88 to R91, R141 to R144,
R152, R156). -/

namespace Sys2Proof.Machine

section
variable {dt : Micros} {reading : Reading} {i : Nat} {slot : Option SlotNo} {frame : WireFrame} {s e : State}

/-- The state in which the owner of a frame of the 7240's own takes the reading of its slot. -/
def State.slotEnding (s : State) (dt : Micros) : State := (s.elapse dt).endTenure

theorem ownOfferAck_gives (h : s.bus.tenure = some { item := .offer i, frame := frame, sent := true })
    (he : ((s.slotEnding dt).offerAcked i).plain = e.plain) : Result.Gives (exec (.ownOfferAck dt) s) e := by
  show Result.Gives (execOwnOfferAck dt s) _
  unfold execOwnOfferAck
  refine command_gives_of_plain ?_
  rw [show (s.elapse dt).bus.tenure = _ from h]
  exact he

theorem ownOfferNack_gives (h : s.bus.tenure = some { item := .offer i, frame := frame, sent := true })
    (he : (((s.slotEnding dt).countBus fun k => { k with refusedOffer := inc k.refusedOffer }).offerNacked i).plain = e.plain) :
    Result.Gives (exec (.ownOfferNack dt) s) e := by
  show Result.Gives (execOwnOfferNack dt s) _
  unfold execOwnOfferNack
  refine command_gives_of_plain ?_
  rw [show (s.elapse dt).bus.tenure = _ from h]
  exact he

theorem ownBlockAck_gives (h : s.bus.tenure = some { item := .block i slot, frame := frame, sent := true })
    (he : ((s.slotEnding dt).blockAcked i frame).plain = e.plain) : Result.Gives (exec (.ownBlockAck dt) s) e := by
  show Result.Gives (execOwnBlockAck dt s) _
  unfold execOwnBlockAck
  refine command_gives_of_plain ?_
  rw [show (s.elapse dt).bus.tenure = _ from h]
  exact he

theorem ownBlockNack_gives (h : s.bus.tenure = some { item := .block i slot, frame := frame, sent := true })
    (he : (((s.slotEnding dt).countBus fun k => { k with refusedBlock := inc k.refusedBlock }).blockNacked i frame).plain
      = e.plain) : Result.Gives (exec (.ownBlockNack dt) s) e := by
  show Result.Gives (execOwnBlockNack dt s) _
  unfold execOwnBlockNack
  refine command_gives_of_plain ?_
  rw [show (s.elapse dt).bus.tenure = _ from h]
  exact he

theorem endSent_gives (h : s.bus.tenure = some { item := .ended i, frame := frame, sent := true })
    (he : (((s.slotEnding dt).noticeRefused reading).endGone i).plain = e.plain) :
    Result.Gives (exec (.endSent dt reading) s) e := by
  show Result.Gives (execEndSent dt reading s) _
  unfold execEndSent
  refine command_gives_of_plain ?_
  rw [show (s.elapse dt).bus.tenure = _ from h]
  exact he

theorem storedSent_gives (h : s.bus.tenure = some { item := .stored, frame := frame, sent := true })
    (he : ((s.slotEnding dt).noticeRefused reading).plain = e.plain) : Result.Gives (exec (.storedSent dt reading) s) e := by
  show Result.Gives (execStoredSent dt reading s) _
  unfold execStoredSent
  refine command_gives_of_plain ?_
  rw [show (s.elapse dt).bus.tenure = _ from h]
  exact he

theorem stateSent_gives (h : s.bus.tenure = some { item := .state, frame := frame, sent := true })
    (he : ((s.slotEnding dt).countBus fun k =>
      if reading = .nack then { k with refusedState := inc k.refusedState } else k).plain = e.plain) :
    Result.Gives (exec (.stateSent dt reading) s) e := by
  show Result.Gives (execStateSent dt reading s) _
  unfold execStateSent
  refine command_gives_of_plain ?_
  rw [show (s.elapse dt).bus.tenure = _ from h]
  rw [← he]
  cases reading <;> rfl

theorem contestLost_gives {item : OwnItem} (h : s.bus.tenure = some { item := item, frame := frame, sent := false })
    (he : ((s.elapse dt).loseContest { item := item, frame := frame, sent := false }).plain = e.plain) :
    Result.Gives (exec (.contestLost dt) s) e := by
  show Result.Gives (execContestLost dt s) _
  unfold execContestLost
  refine command_gives_of_plain ?_
  rw [show (s.elapse dt).bus.tenure = _ from h]
  exact he

end

/-! ### The stream's part -/

section
variable {s : State} {i : Nat} {c : Context} {o : OfferRecord}

theorem offerSent_iff : c.offerSent = true ↔ ∃ o, c.offer = some o ∧ c.state = .contending ∧ o.phase = .sent := by
  unfold Context.offerSent
  cases c.offer <;> simp

theorem offerAcked_none (h : s.ctx? i = none) : s.offerAcked i = s := by
  unfold State.offerAcked
  rw [h]

theorem offerNacked_none (h : s.ctx? i = none) : s.offerNacked i = s := by
  unfold State.offerNacked
  rw [h]

theorem offerAcked_sent (h : s.ctx? i = some c) (hs : c.offerSent = true) :
    s.offerAcked i = (s.countCue fun k => { k with offersWon := inc k.offersWon }).takeStream i c := by
  unfold State.offerAcked
  rw [h]
  exact if_pos hs

theorem offerNacked_sent (h : s.ctx? i = some c) (hs : c.offerSent = true) :
    s.offerNacked i = (s.silentFree i).countCue fun k => { k with offersRefused := inc k.offersRefused } := by
  unfold State.offerNacked
  rw [h]
  exact if_pos hs

/-- The end of a stream with no entry left to withdraw. -/
theorem enterSpent_of_window (h : s.ctx? i = some c) (hw : c.window = []) (reason : EndReason) : s.enterSpent i reason =
    { s with
      bus := { s.bus with notices := s.bus.notices ++ [.ended i c.id reason c.delivered c.dropped c.patched] }
      streams :=
        { contexts := Sparse.modify s.streams.contexts i fun x =>
            { x with state := .spent, window := [], gen := { x.gen with closed := true }, endReason := some reason
                     offer := none }
          counts := StreamCounts.countEnd reason s.streams.counts } } := by
  unfold State.enterSpent
  rw [h]
  dsimp only
  rw [hw]
  rfl

theorem endGone_none (h : s.ctx? i = none) : s.endGone i = s := by
  unfold State.endGone
  rw [h]

theorem endGone_spent (h : s.ctx? i = some c) (hs : c.state = .spent) :
    s.endGone i = (s.freeCtx i c).countStreams fun k => { k with endSent := inc k.endSent } := by
  unfold State.endGone
  rw [h]
  exact if_pos hs

theorem noticeRefused_eq (reading : Reading) : s.noticeRefused reading = s.countBus fun k =>
    if reading = .nack then { k with refusedNotice := inc k.refusedNotice } else k := by
  cases reading <;> rfl

end

/-- Settles O49: the tenure over, and each owner's part. -/
theorem ownOfferAndNoticeSlots : Obligations.OwnOfferAndNoticeSlots := by
  refine ⟨fun dt i frame c o s h hc hst ho hph hw => ?_, fun dt i frame s h hc => ⟨?_, ?_⟩, fun dt reading frame s => ?_⟩
  · have hsent : c.offerSent = true := offerSent_iff.mpr ⟨o, ho, hst, hph⟩
    refine ⟨fun hlen => ownOfferAck_gives h ?_, ownOfferNack_gives h ?_⟩
    · rw [offerAcked_sent (s := s.slotEnding dt) hc hsent, State.takeStream, if_pos (show c.zone.length ≤ c.start from hlen),
        enterSpent_of_window (s := State.countCue _ (s.slotEnding dt)) hc hw]
      rfl
    · rw [offerNacked_sent (s := State.countBus _ (s.slotEnding dt)) hc hsent,
        silentFree_of_window (s := State.countBus _ (s.slotEnding dt)) hc hw]
      rfl
  · exact ownOfferAck_gives h (by rw [offerAcked_none (s := s.slotEnding dt) hc]; rfl)
  · exact ownOfferNack_gives h (by rw [offerNacked_none (s := State.countBus _ (s.slotEnding dt)) hc]; rfl)
  · intro sent ended notice state
    refine ⟨fun i c h hc hst => endSent_gives h ?_, fun i h hc => endSent_gives h ?_, fun h => storedSent_gives h ?_,
      fun h => stateSent_gives h ?_⟩
    · rw [noticeRefused_eq, endGone_spent (s := State.countBus _ (s.slotEnding dt)) hc hst]
      rfl
    · rw [noticeRefused_eq, endGone_none (s := State.countBus _ (s.slotEnding dt)) hc]
      rfl
    · rw [noticeRefused_eq]
      rfl
    · rfl

/-! ### Contests lost -/

section
variable {s : State} {i : Nat} {c : Context} {o : OfferRecord}

theorem updCtx_ctx? (h : s.ctx? i = some c) (f : Context → Context) : (s.updCtx i f).ctx? i = some (f c) := by
  have := Sparse.get_modify s.streams.contexts i i f
  rw [if_pos rfl, show Sparse.get s.streams.contexts i = some c from h] at this
  exact this

theorem staleTest_of_head {e : Entry} {rest : List Entry} (h : s.ctx? i = some c) (hw : c.window = e :: rest)
    (hn : e.isStale s.clock.sfc = false) : s.staleTest i = s := by
  unfold State.staleTest
  rw [h]
  simp only [hw, hn]
  exact ite_self s

theorem isStale_false_of_before {e : Entry} {sfc : Time} (h : signedDiff sfc e.leaveTime < 0) : e.isStale sfc = false :=
  Bool.eq_false_iff.mpr fun hs => absurd (isStale_iff.mp hs).2 (not_le.mpr h)

theorem offerLost_queued (h : s.ctx? i = some c) (ho : c.offer = some o) (hl : o.lapsed = false) :
    s.offerLost i = s.setOfferPhase i .queued := by
  unfold State.offerLost
  rw [h]
  simp [ho, hl]

theorem offerLost_lapsed (h : s.ctx? i = some c) (ho : c.offer = some o) (hl : o.lapsed = true) :
    s.offerLost i = s.expireOffer i := by
  unfold State.offerLost
  rw [h]
  simp [ho, hl]

theorem withStream_afterHeads (s : State) (i : Nat) (x c : Context) (gone stay : List Entry) :
    (s.withStream i x s.streams.counts).afterHeads i c gone stay = s.afterHeads i c gone stay := by
  have hlead : (s.withStream i x s.streams.counts).lead = s.lead := rfl
  unfold State.afterHeads
  rw [hlead]
  simp only [State.withStream, Sparse.modify_modify]

theorem withStream_afterFault (s : State) (i : Nat) (x c : Context) (gone left : List Entry) :
    (s.withStream i x s.streams.counts).afterFault i c gone left = s.afterFault i c gone left := by
  simp only [State.afterFault, State.withStream, Sparse.modify_modify]

/-- What entries release is fixed by their slots. -/
theorem released_congr {entries others : List Entry} (h : entries.map Entry.slot = others.map Entry.slot) :
    ∀ s : State, s.released entries = s.released others := by
  induction entries generalizing others with
  | nil =>
    intro s
    rw [List.map_nil] at h
    rw [List.map_eq_nil_iff.mp h.symm]
  | cons e rest ih =>
    cases others with
    | nil => simp at h
    | cons d more =>
      obtain ⟨hslot, hrest⟩ := List.cons.inj h
      intro s
      have hstep : s.releaseEntry e = s.releaseEntry d := by rw [State.releaseEntry, State.releaseEntry, hslot]
      show (s.releaseEntry e).released rest = (s.releaseEntry d).released more
      rw [hstep, ih hrest]

theorem faultsAtHead_congr {s t : State} {c : Context} {gone more : List Entry} {next : Entry}
    (h : s.FaultsAtHead c gone next more) (hsfc : t.clock.sfc = s.clock.sfc) : t.FaultsAtHead c gone next more := by
  unfold State.FaultsAtHead
  rw [hsfc]
  exact h

end

/-- Settles O48: the contest counted, and the item's owner told. -/
theorem contestLostKeepsTheItem : Obligations.ContestLostKeepsTheItem := by
  intro dt frame s presented lost
  refine ⟨fun i c o h hc ho => ⟨fun hl => contestLost_gives h ?_, fun hl hw => contestLost_gives h ?_⟩,
    fun i slot c e rest h hc hw hb => contestLost_gives h ?_, fun i slot c e more gone stay h hc hw hd ht hlaw => ?_, ?_⟩
  · show (lost.offerLost i).plain = _
    rw [offerLost_queued (s := lost) hc ho hl]
    rfl
  · show (lost.offerLost i).plain = _
    rw [offerLost_lapsed (s := lost) hc ho hl, State.expireOffer, silentFree_of_window (s := lost) hc hw]
    rfl
  · show ((lost.updCtx i (Context.setHeadPhase .none)).staleTest i).plain = _
    have hhead : (c.setHeadPhase .none).window = { e with busPhase := .none } :: rest := by
      rw [Context.setHeadPhase, hw]
    rw [staleTest_of_head (updCtx_ctx? (s := lost) hc _) hhead (isStale_false_of_before (by exact hb))]
    rfl
  · intro held hne
    have hheld : c.setHeadPhase .none = held := by rw [Context.setHeadPhase, hw]
    have hset : lost.updCtx i (Context.setHeadPhase .none) = lost.withStream i held lost.streams.counts := by
      rw [updCtx_eq_withStream (s := lost) ht.1 hc, hheld]
    have hlen : held.window.length = c.window.length := by rw [hw]; rfl
    have h2 : 2 ≤ c.depth := hlaw.2.1
    refine ⟨fun hs => contestLost_gives h ?_, fun next others hs => contestLost_gives h ?_⟩
    · have hgone : gone.length ≤ c.window.length := by
        rw [← hlen, hs.1, List.length_append]
        omega
      show ((lost.updCtx i (Context.setHeadPhase .none)).staleTest i).plain = _
      rw [hset, staleTest_heads (s := lost) hc (x := held) hd (by exact (by omega : 0 < c.depth)) hne (servesHeads_congr hs rfl rfl)
        (le_trans (cascadeBound_ge c hlaw hgone) (Nat.le_succ _)), withStream_afterHeads]
    · have hgone : gone.length ≤ c.window.length := by
        rw [← hlen, hs.2.1, List.length_append]
        omega
      show ((lost.updCtx i (Context.setHeadPhase .none)).staleTest i).plain = _
      have hb := cascadeBound_ge c hlaw hgone
      rw [hset, staleTest_faults (s := lost) hc (x := held) hd hne (faultsAtHead_congr hs rfl) (by omega),
        withStream_afterFault, released_congr (others := c.window) (by rw [hw]; rfl)]
  · rintro (⟨i, h⟩ | h | h)
    · exact contestLost_gives h rfl
    · exact contestLost_gives h rfl
    · exact contestLost_gives h rfl

/-! ### The slots of own BLOCKs -/

section
variable {s : State} {i : Nat} {c : Context} {e : Entry} {rest : List Entry} {frame : WireFrame} {b : BlockFields}

theorem closeFrameLane_block (h : frame.body = .block b) :
    s.closeFrameLane frame = s.closeLane frame.dest (b.lane.extractLsb' 0 6) := by
  unfold State.closeFrameLane
  rw [h]
  rfl

theorem sentHead_of_sent (hw : c.window = e :: rest) (hp : e.busPhase = .sent) : c.sentHead = some e := by
  unfold Context.sentHead
  rw [hw]
  exact if_pos hp

theorem blockNacked_none (hb : frame.body = .block b) (h : s.ctx? i = none) :
    s.blockNacked i frame = s.closeLane frame.dest (b.lane.extractLsb' 0 6) := by
  unfold State.blockNacked
  rw [closeFrameLane_block hb]
  have h' : (s.closeLane frame.dest (b.lane.extractLsb' 0 6)).ctx? i = none := h
  simp only [h']

theorem blockAcked_none (hb : frame.body = .block b) (h : s.ctx? i = none) :
    s.blockAcked i frame = s.closeLane frame.dest (b.lane.extractLsb' 0 6) := by
  unfold State.blockAcked
  rw [closeFrameLane_block hb]
  have h' : (s.closeLane frame.dest (b.lane.extractLsb' 0 6)).ctx? i = none := h
  simp only [h', Option.bind_none]

/-- The refused head back in bus phase none, one more refusal counted. -/
def Context.refusedHead (c : Context) : Context := { c.setHeadPhase .none with nacks := c.nacks + 1 }

/-- s with the lane of a refused BLOCK closed and the refusal counted by its owner. -/
def State.refusing (s : State) (frame : WireFrame) (b : BlockFields) : State :=
  (s.closeLane frame.dest (b.lane.extractLsb' 0 6)).countDelivery fun k => { k with blocksRefused := inc k.blocksRefused }

theorem blockNacked_sent (ht : s.TableLaw) (hb : frame.body = .block b) (h : s.ctx? i = some c) (hw : c.window = e :: rest)
    (hp : e.busPhase = .sent) : s.blockNacked i frame =
      (let u := (s.refusing frame b).withStream i c.refusedHead s.streams.counts
       if c.nacks + 1 < 4 then u.staleTest i else u.enterSpent i .abandoned) := by
  have h' : (s.closeLane frame.dest (b.lane.extractLsb' 0 6)).ctx? i = some c := h
  have hset := updCtx_eq_withStream (s := s.closeLane frame.dest (b.lane.extractLsb' 0 6)) ht.1 h fun x =>
    { x.setHeadPhase .none with nacks := x.nacks + 1 }
  unfold State.blockNacked
  rw [closeFrameLane_block hb]
  simp only [h', sentHead_of_sent hw hp, hset]
  rfl

end

/-- Settles O55: the refusal counted, and the head kept, dropped or the stream abandoned. -/
theorem ownBlockNackCounts : Obligations.OwnBlockNackCounts := by
  intro dt i slot frame b s h hb refused
  refine ⟨fun hc => ownBlockNack_gives h ?_, fun c e rest hc hw hp ht => ?_⟩
  · rw [blockNacked_none (s := State.countBus _ (s.slotEnding dt)) hb hc]
    rfl
  · intro held ended
    let u : State := (((s.slotEnding dt).countBus fun k => { k with refusedBlock := inc k.refusedBlock }).refusing frame b)
    have hheld : c.refusedHead = held := by rw [Context.refusedHead, Context.setHeadPhase, hw]
    have hnack : ((s.slotEnding dt).countBus fun k => { k with refusedBlock := inc k.refusedBlock }).blockNacked i frame =
        if c.nacks + 1 < 4 then (u.withStream i held u.streams.counts).staleTest i
        else (u.withStream i held u.streams.counts).enterSpent i .abandoned :=
      hheld ▸ blockNacked_sent (s := (s.slotEnding dt).countBus _) ht hb hc hw hp
    have hu : u.ctx? i = some c := hc
    have hplain : u.plain = ended.plain := rfl
    have hlen : held.window.length = c.window.length := by rw [hw]; rfl
    have hslots : held.window.map Entry.slot = c.window.map Entry.slot := by rw [hw]; rfl
    refine ⟨fun hn hbefore => ownBlockNack_gives h ?_, fun hn hd hlaw gone stay hne => ?_, fun hn => ?_⟩
    · rw [hnack]
      dsimp only
      rw [if_pos (by omega), staleTest_of_head (withStream_ctx? hu) (c := held) rfl (isStale_false_of_before (by exact hbefore))]
      rfl
    · have h2 : 2 ≤ c.depth := hlaw.2.1
      refine ⟨fun hs => ownBlockNack_gives h ?_, fun next more hs => ownBlockNack_gives h ?_⟩
      · have hgone : gone.length ≤ c.window.length := by
          rw [← hlen, hs.1, List.length_append]
          omega
        rw [hnack, if_pos (by omega), staleTest_heads (s := u) hu (x := held) hd (by exact (by omega : 0 < c.depth)) hne
          (servesHeads_congr hs rfl rfl) (le_trans (cascadeBound_ge c hlaw hgone) (Nat.le_succ _)),
          withStream_afterHeads u, released_plain, released_plain, afterHeads_plain, afterHeads_plain, hplain]
      · have hgone : gone.length ≤ c.window.length := by
          rw [← hlen, hs.2.1, List.length_append]
          omega
        have hbound := cascadeBound_ge c hlaw hgone
        rw [hnack, if_pos (by omega), staleTest_faults (s := u) hu (x := held) hd hne (faultsAtHead_congr hs rfl) (by omega),
          withStream_afterFault u, released_congr hslots, released_plain, released_plain]
        rfl
    · refine ownBlockNack_gives h ?_
      rw [hnack, if_neg (by omega), withStream_enterSpent hu, released_congr hslots, released_onBus, ← withStream_released,
        released_plain, released_plain]
      refine congrArg (State.released c.window) ?_
      have hmod : Sparse.modify s.streams.contexts i (fun _ => { held with
            state := .spent, window := [], gen := { held.gen with closed := true }, endReason := some .abandoned, offer := none })
          = Sparse.modify s.streams.contexts i fun x => { x with
              window := [], nacks := 4, state := .spent, gen := { x.gen with closed := true }, endReason := some .abandoned
              offer := none } := Sparse.modify_congr ht.1 fun a ha => by
        obtain rfl : c = a := Option.some.inj (hc.symm.trans ha)
        have h4 : held.nacks = 4 := congrArg (· + 1) hn
        simp [← h4, held]
      rw [← hmod, hlen]
      rfl

end Sys2Proof.Machine


/-! SUPPORT. Heads gone stale at a mark (R80 to R82). -/

namespace Sys2Proof.Machine

section
variable {s : State} {i : Nat}

theorem staleTest_still (h : ∀ c, s.ctx? i = some c → c.delivering = true → ∀ e rest, c.window = e :: rest →
    e.isStale s.clock.sfc = false) : s.staleTest i = s := by
  unfold State.staleTest
  split
  · rfl
  · rename_i c hc
    split
    · rename_i hd
      split
      · rename_i e rest hw
        exact if_neg (Bool.eq_false_iff.mp (h c hc hd e rest hw))
      · rfl
    · rfl

theorem foldl_staleTest_still {l : List Nat} (h : ∀ j ∈ l, ∀ c, s.ctx? j = some c → c.delivering = true → ∀ e rest,
    c.window = e :: rest → e.isStale s.clock.sfc = false) : l.foldl State.staleTest s = s := by
  induction l with
  | nil => rfl
  | cons j rest ih =>
    rw [List.foldl_cons, staleTest_still (h j (by simp))]
    exact ih fun k hk => h k (by simp [hk])

/-- The tests of all heads where only one context's head can be stale, and its test changes that context alone. -/
theorem staleTestAll_one {t : State} {c : Context} (ht : Sparse.wf s.streams.contexts) (hc : s.ctx? i = some c)
    (hothers : ∀ j, j ≠ i → ∀ x, s.ctx? j = some x → x.delivering = true → ∀ e rest, x.window = e :: rest →
      e.isStale s.clock.sfc = false)
    (hi : s.staleTest i = t) (hclock : t.clock = s.clock) (hctx : ∀ j, j ≠ i → t.ctx? j = s.ctx? j) :
    s.staleTestAll = t := by
  have hnodup : (s.streams.contexts.map Prod.fst).Nodup := (Sparse.wf_iff_keys.mp ht).imp fun h => Nat.ne_of_lt h
  have hmem : i ∈ s.live := List.mem_map_of_mem (f := Prod.fst) (Sparse.mem_of_get hc)
  obtain ⟨before, after, hl⟩ := List.append_of_mem hmem
  rw [State.live] at hl
  rw [hl] at hnodup
  have hb : ∀ j ∈ before, j ≠ i := fun j hj he => by
    have := (List.nodup_append.mp hnodup).2.2 j hj i (by simp)
    exact this he
  have ha : ∀ j ∈ after, j ≠ i := fun j hj he =>
    (List.nodup_cons.mp (List.nodup_append.mp hnodup).2.1).1 (he ▸ hj)
  rw [State.staleTestAll, State.live, hl, List.foldl_append, List.foldl_cons,
    foldl_staleTest_still fun j hj => hothers j (hb j hj), hi]
  refine foldl_staleTest_still fun j hj x hx => ?_
  rw [hclock]
  rw [hctx j (ha j hj)] at hx
  exact hothers j (ha j hj) x hx

theorem ctx?_withStream_other {j : Nat} (hj : j ≠ i) (s : State) (x : Context) (k : StreamCounts) :
    (s.withStream i x k).ctx? j = s.ctx? j := by
  have := Sparse.get_modify s.streams.contexts i j fun _ => x
  rw [if_neg (Ne.symm hj)] at this
  exact this

/-- What follows stale heads sets the one context. -/
theorem afterHeads_others (c : Context) (gone stay : List Entry) : (s.afterHeads i c gone stay).clock = s.clock
    ∧ ∀ j, j ≠ i → (s.afterHeads i c gone stay).ctx? j = s.ctx? j := by
  have hother : ∀ (x : Context) (j : Nat), j ≠ i → Sparse.get (Sparse.modify s.streams.contexts i fun _ => x) j = s.ctx? j :=
    fun x j hj => by rw [Sparse.get_modify, if_neg (Ne.symm hj)]; rfl
  unfold State.afterHeads
  exact iteInduction (motive := fun t : State => t.clock = s.clock ∧ ∀ j, j ≠ i → t.ctx? j = s.ctx? j)
    (fun _ => ⟨rfl, hother _⟩) fun _ => ⟨rfl, hother _⟩

theorem afterFault_others (c : Context) (gone left : List Entry) : (s.afterFault i c gone left).clock = s.clock
    ∧ ∀ j, j ≠ i → (s.afterFault i c gone left).ctx? j = s.ctx? j :=
  ⟨rfl, fun _ hj => ctx?_withStream_other hj s _ _⟩

end

/-- Settles O51: the mark moves the count, and the one context with stale heads is served. -/
theorem staleHeadsAreDropped : Obligations.StaleHeadsAreDropped := by
  intro dt i c gone stay s hrun htakes hglitch hload ht hc hlaw hst sfc hothers marked hne
  have hd : c.delivering = true := by
    rcases hst with h | h <;> simp [Context.delivering, h]
  have hmark : (s.clockTo (s.clock.captured dt)).realMark = marked.staleTestAll := by
    rw [State.realMark, show (s.clockTo (s.clock.captured dt)).clock.state = .running from hrun]
    exact moveCount_of_none (s := s.clockTo (s.clock.captured dt)) hload
  have hgives : ∀ {t : State}, marked.staleTest i = t → t.clock = marked.clock → (∀ j, j ≠ i → t.ctx? j = marked.ctx? j) →
      Result.Gives (exec (.markEdge dt) s) t := fun {t} hi hclock hctx =>
    markEdge_accepted htakes hglitch (hmark.trans (staleTestAll_one (s := marked) ht.1 hc
      (fun j hj x hx => hothers (j, x) (Sparse.mem_of_get (m := s.streams.contexts) hx) hj) hi hclock hctx))
  have hself : marked = marked.withStream i c marked.streams.counts := eq_withStream ht.1 hc
  have h2 : 2 ≤ c.depth := hlaw.2.1
  refine ⟨fun hs => ?_, fun next more hs => ?_⟩
  · have hgone : gone.length ≤ c.window.length := by
      rw [hs.1, List.length_append]
      omega
    have htest : marked.staleTest i = (marked.afterHeads i c gone stay).released gone := by
      rw [hself, staleTest_heads (s := marked) hc (x := c) hd (by omega) hne hs
        (le_trans (cascadeBound_ge c hlaw hgone) (Nat.le_succ _)), withStream_afterHeads]
    obtain ⟨hclock, hctx⟩ := afterHeads_others (s := marked) (i := i) c gone stay
    exact hgives htest (by rw [released_clock, hclock]) fun j hj => by rw [released_ctx?, hctx j hj]
  · have hgone : gone.length ≤ c.window.length := by
      rw [hs.2.1, List.length_append]
      omega
    have hbound := cascadeBound_ge c hlaw hgone
    have htest : marked.staleTest i = (marked.afterFault i c gone (next :: more)).released c.window := by
      rw [hself, staleTest_faults (s := marked) hc (x := c) hd hne hs (by omega), withStream_afterFault]
    obtain ⟨hclock, hctx⟩ := afterFault_others (s := marked) (i := i) c gone (next :: more)
    exact hgives htest (by rw [released_clock, hclock]) fun j hj => by rw [released_ctx?, hctx j hj]

end Sys2Proof.Machine


/-! SUPPORT. Lane views, and damaged and malformed frames (R131 to R136, R147, R153, R157). -/

namespace Sys2Proof.Machine

/-- A lane is open after one of a bridge's is closed when it was open and is not that lane (R133). -/
theorem laneOpen_closeLane (s : State) (bridge : Station) (lane : BitVec 6) (b : Station) (l : BitVec 6) :
    (s.closeLane bridge lane).laneOpen b l = (s.laneOpen b l && !(decide (b = bridge) && decide (l = lane))) := by
  have hfind : (s.closeLane bridge lane).delivery.views.find? (fun v => v.1 == b) =
      (s.delivery.views.find? fun v => v.1 == b).map fun v =>
        if v.1 = bridge then (v.1, v.2 &&& ~~~(1#64 <<< lane.toNat)) else v := by
    show (s.delivery.views.map _).find? _ = _
    rw [List.find?_map]
    congr 2
    funext v
    by_cases h : v.1 = bridge <;> simp [h]
  unfold State.laneOpen
  rw [hfind]
  cases hv : s.delivery.views.find? fun v => v.1 == b with
  | none => rfl
  | some v =>
    have hb : v.1 = b := by simpa using List.find?_some hv
    have hl : l.toNat < 64 := l.isLt
    have hlane : lane.toNat < 64 := lane.isLt
    simp only [Option.map_some]
    by_cases h : b = bridge
    · by_cases hne : l = lane
      · simp [hb, h, hne, hlane]
      · have hne' : l.toNat ≠ lane.toNat := fun he => hne (BitVec.eq_of_toNat_eq he)
        simp [hb, h, hne, hl]
        omega
    · simp [hb, h]

theorem afterDelimiter_eq (form : Delimiter) : afterDelimiter form = match form with
    | .addressed => .ackSlot false
    | .broadcast => .gap := by
  cases form <;> rfl

/-- Settles O42: the views, and the discarded frames. -/
theorem laneViewsAndDamagedFrames : Obligations.LaneViewsAndDamagedFrames := by
  refine ⟨fun dt src openSet lane frame s => ?_, fun dt form s h => ?_⟩
  · intro ready block
    refine ⟨fun h hc => ?_, fun h hc => ?_, fun hl ha hp => ⟨?_, fun hdeaf => ?_, fun hconf hc => ?_⟩⟩
    · exact broadcast_gives h (if_neg (by rw [show (s.handing dt frame).cleared = false from hc]; decide)) rfl
    · exact broadcast_gives h (if_pos (show (s.handing dt frame).cleared = true from hc)) rfl
    · exact observed_gives hl ha hp rfl rfl
    · exact observed_gives hl ha hp (if_pos hdeaf) rfl
    · have hheard : ¬ ((s.handing dt frame).status.phase = .unconfigured ∨ (s.handing dt frame).cleared = true) :=
        not_or.mpr ⟨hconf, Bool.eq_false_iff.mp hc⟩
      obtain ⟨t, ho, ht⟩ : Result.Gives (exec (block .ack) s) _ := observed_gives (dt := dt)
        (e := { s.heard dt frame .gap with delivery :=
          { views := (s.closeLane src (takeLane lane)).delivery.views
            counts := { s.delivery.counts with foreignBlock := inc s.delivery.counts.foreignBlock } } })
        hl ha hp (if_neg hheard) rfl
      obtain ⟨-, -, -, -, -, -, -, -, -, hdel, -⟩ := id ht
      have hviews : t.delivery.views = (s.closeLane src (takeLane lane)).delivery.views := by rw [hdel]
      refine ⟨t, ho, by rwa [hviews], ?_, fun b l => ?_⟩
      · rw [hviews]
        show (s.delivery.views.map _).map _ = _
        rw [List.map_map]
        refine List.map_congr_left fun v _ => ?_
        by_cases hv : v.1 = src <;> simp [hv]
      · have hopen : t.laneOpen b l = (s.closeLane src (takeLane lane)).laneOpen b l := by
          unfold State.laneOpen
          rw [hviews]
        rw [hopen, laneOpen_closeLane]
        rfl
  · intro after ended wiped broken
    have hafter : afterDelimiter form = after := afterDelimiter_eq form
    refine ⟨command_gives_of_plain ?_, command_gives_of_plain ?_, command_gives_of_plain ?_, command_gives_of_plain ?_⟩
    · rw [if_pos (show (s.elapse dt).listening = true from h), hafter]
      rfl
    · rw [if_pos (show (s.elapse dt).listening = true from h)]
      rfl
    · rw [if_pos (show (s.elapse dt).listening = true from h)]
      rfl
    · rw [if_pos (show (s.elapse dt).listening = true from h), hafter]
      rfl

end Sys2Proof.Machine


/-! SUPPORT. Frames by source, destination and kind (R153 to R155, R158, R160, R161). -/

namespace Sys2Proof.Machine

section
variable {dt : Micros} {src : Station} {frame : List Byte} {s e : State} {owner : State → State × Bool} {taker : State → State}

theorem isAddressee_judging (ha : s.isAddressed frame) : (s.judging dt frame).isAddressee frame = true :=
  isAddressee_iff (s := s.judging dt frame).mpr ha

/-- An addressed frame gives what the decision on it makes, the slot following with it. -/
theorem addressedFrame_gives {r : State × Bool} (h : s.listening = true)
    (hr : (if (s.judging dt frame).isAddressee frame then (s.judging dt frame).judge owner else (s.judging dt frame, false)) = r)
    (he : (r.1.enterBus (.ackSlot r.2)).plain = e.plain) :
    Result.Gives (s.command dt (State.addressedFrame frame owner)) e := by
  refine command_gives_of_plain ?_
  have hframe : (s.elapse dt).addressedFrame frame owner = r.1.enterBus (.ackSlot r.2) :=
    (if_pos (show (s.elapse dt).listening = true from h)).trans (congrArg (fun q : State × Bool => q.1.enterBus (.ackSlot q.2)) hr)
  rw [hframe, he]

theorem judge_configLoad (hp : s.status.phase = .configLoad) : s.judge owner = (s, false) := if_pos hp

theorem judge_cleared (hp : s.status.phase ≠ .configLoad) (hc : s.cleared = true) :
    s.judge owner = (s.countBus fun k => { k with clearedRefused := inc k.clearedRefused }, false) :=
  (if_neg hp).trans (if_pos hc)

theorem judge_owner (hp : s.status.phase ≠ .configLoad) (hc : s.cleared = false) : s.judge owner = owner s :=
  (if_neg hp).trans (if_neg (Bool.eq_false_iff.mp hc))

/-- A frame to another station is received, nothing more, and its slot is not driven. -/
theorem addressedFrame_other_gives (h : s.listening = true) (ha : ¬ s.isAddressed frame) :
    Result.Gives (s.command dt (State.addressedFrame frame owner)) (s.heard dt frame (.ackSlot false)) := by
  have ha' : (s.judging dt frame).isAddressee frame = false :=
    Bool.eq_false_iff.mpr fun h => ha (isAddressee_iff (s := s.judging dt frame).mp h)
  exact addressedFrame_gives h (if_neg (Bool.eq_false_iff.mp ha')) rfl

theorem addressedFrame_cleared_gives (h : s.listening = true) (ha : s.isAddressed frame) (hp : s.status.phase ≠ .configLoad)
    (hc : s.cleared = true) : Result.Gives (s.command dt (State.addressedFrame frame owner))
      { s.heard dt frame (.ackSlot false) with bus := { (s.heard dt frame (.ackSlot false)).bus with
        counts := { s.bus.counts with clearedRefused := inc s.bus.counts.clearedRefused } } } :=
  addressedFrame_gives h ((if_pos (isAddressee_judging ha)).trans (judge_cleared (s := s.judging dt frame) hp hc)) rfl

theorem addressedFrame_configLoad_gives (h : s.listening = true) (hp : s.status.phase = .configLoad) :
    Result.Gives (s.command dt (State.addressedFrame frame owner)) (s.heard dt frame (.ackSlot false)) :=
  addressedFrame_gives h (r := (s.judging dt frame, false))
    (by rw [judge_configLoad (s := s.judging dt frame) hp, ite_self]) rfl

/-- An observed frame that is addressed to the 7240 itself is refused as its kind is, its slot ended. -/
theorem observedFrame_addressed_gives (h : s.listening = true) (ha : s.isAddressed frame) :
    Result.Gives (s.command dt (State.observedFrame frame taker))
      { s.heard dt frame .gap with bus := { (s.heard dt frame .gap).bus with
        counts := if s.status.phase = .configLoad then s.bus.counts
          else if s.cleared = true then { s.bus.counts with clearedRefused := inc s.bus.counts.clearedRefused }
          else { s.bus.counts with unexpectedKind := inc s.bus.counts.unexpectedKind } } } := by
  refine command_gives_of_plain ?_
  have hobs : (s.elapse dt).observedFrame frame taker = ((s.handing dt frame).judge State.refuseKind).1 :=
    (if_pos h).trans (if_pos (isAddressee_iff (s := s.handing dt frame).mpr ha))
  rw [hobs]
  by_cases hp : s.status.phase = .configLoad
  · rw [judge_configLoad (s := s.handing dt frame) hp, if_pos hp]
    rfl
  · rw [if_neg hp]
    by_cases hc : s.cleared = true
    · rw [judge_cleared (s := s.handing dt frame) hp hc, if_pos hc]
      rfl
    · rw [judge_owner (s := s.handing dt frame) hp (Bool.eq_false_iff.mpr hc), if_neg hc]
      rfl

/-- A broadcast frame of a station outside the bridge set is counted and handed to nobody. -/
theorem broadcastFrame_unknown_gives (h : s.listening = true) (hp : s.status.phase ≠ .configLoad) (hs : src ∉ s.bridges) :
    Result.Gives (s.command dt (State.broadcastFrame frame src taker))
      { s.heard dt frame .gap with bus := { (s.heard dt frame .gap).bus with
        counts := { s.bus.counts with unknownSource := inc s.bus.counts.unknownSource } } } := by
  refine command_gives_of_plain ?_
  have hs' : ¬ (s.handing dt frame).bridges.contains src = true := fun hm => hs (List.contains_iff_mem.mp hm)
  have hframe : (s.elapse dt).broadcastFrame frame src taker =
      (s.handing dt frame).countBus fun k => { k with unknownSource := inc k.unknownSource } :=
    (if_pos h).trans ((if_neg hp).trans (if_neg hs'))
  rw [hframe]
  rfl

theorem broadcastFrame_configLoad_gives (h : s.listening = true) (hp : s.status.phase = .configLoad) :
    Result.Gives (s.command dt (State.broadcastFrame frame src taker)) (s.heard dt frame .gap) := by
  refine command_gives_of_plain ?_
  have hframe : (s.elapse dt).broadcastFrame frame src taker = s.handing dt frame := (if_pos h).trans (if_pos hp)
  rw [hframe]
  rfl

end

/-! ### An addressed row and the end of its slot -/

theorem classCode_of_decodeBody {cls sub : Nat} {p : List Byte} {body : FrameBody} (h : decodeBody cls sub p = some body) :
    body.classCode = cls := by
  unfold decodeBody at h
  split at h <;> cases h <;> rfl

/-- A frame well formed at an addressed end delimiter is of an addressed kind, its destination as in its bytes (R161, R163). -/
theorem judgeFrame_addressed {bytes : List Byte} {f : WireFrame} (h : judgeFrame bytes .addressed = .wellFormed f) :
    addressing f.body.classCode = .addressed ∧ f.dest = Bytes.destination bytes := by
  unfold judgeFrame at h
  dsimp only at h
  generalize (if Bytes.broadcastFlag bytes = true then Delimiter.broadcast else Delimiter.addressed) = flag at h
  split at h
  · cases h
  split at h
  · cases h
  split at h
  · cases h
  split at h
  · cases h
  rename_i hform
  obtain ⟨hflag, hform⟩ := not_or.mp hform
  rw [not_not] at hflag hform
  split at h
  · cases h
  split at h
  · cases h
  split at h
  · cases h
  · rename_i body hbody
    cases h
    refine ⟨by rw [classCode_of_decodeBody hbody, ← hform], if_neg ?_⟩
    rw [hflag, ← hform]
    decide

/-- The decision on a frame addressed to the 7240, by its kind (R155). -/
def State.takeKind (source : Station) (body : FrameBody) (s : State) : State × Bool :=
  match body with
  | .queryStatus => s.takeQuery source
  | .serviceEnter => s.takeServiceEnter source
  | .serviceExit => s.takeServiceExit source
  | .store a d => s.takeStore source a d
  | .offer _ _ | .block _ | .endNotice _ _ _ _ _ | .storedNotice _ _ | .state _ => s.refuseKind
  | .run _ | .pause | .timing _ | .stopAll | .cue _ | .release _ | .ready _ => (s, false)

theorem takeAddressed_eq {frame : List Byte} {f : WireFrame} (hf : judgeFrame frame .addressed = .wellFormed f) (s : State) :
    s.takeAddressed frame = s.takeKind f.source f.body := by
  obtain ⟨urgency, source, dest, body⟩ := f
  rw [State.takeAddressed, hf]
  cases body <;> rfl

/-- The row of a frame addressed to the 7240 hands its bytes to the decision by their kind (R154, R155). -/
theorem exec_frameCommand {dt : Micros} {frame : List Byte} {reading : Reading} {f : WireFrame} {s : State}
    (hf : judgeFrame frame .addressed = .wellFormed f) (ha : s.isAddressed frame) :
    exec (frameCommand s.status.station dt frame .addressed reading) s =
      s.command dt (State.addressedFrame frame (State.takeKind f.source f.body)) := by
  obtain ⟨haddr, hdest⟩ := judgeFrame_addressed hf
  have hown : f.dest = s.status.station := by
    rw [hdest]
    have := isAddressee_iff.mpr ha
    simp only [State.isAddressee, Bool.and_eq_true, beq_iff_eq] at this
    exact this.2
  obtain ⟨urgency, source, dest, body⟩ := f
  unfold frameCommand
  rw [hf]
  dsimp only at hown haddr ⊢
  simp only [if_pos hown]
  cases body with
  | run => exact absurd haddr (by simp [addressing, FrameBody.classCode])
  | pause => exact absurd haddr (by simp [addressing, FrameBody.classCode])
  | timing => exact absurd haddr (by simp [addressing, FrameBody.classCode])
  | stopAll => exact absurd haddr (by simp [addressing, FrameBody.classCode])
  | cue => exact absurd haddr (by simp [addressing, FrameBody.classCode])
  | release => exact absurd haddr (by simp [addressing, FrameBody.classCode])
  | ready => exact absurd haddr (by simp [addressing, FrameBody.classCode])
  | offer => rfl
  | block => rfl
  | endNotice => rfl
  | storedNotice => rfl
  | queryStatus => rfl
  | serviceEnter => rfl
  | serviceExit => rfl
  | state => rfl
  | store => rfl

/-- The bus-stuck watch set. -/
def State.watching (s : State) (w : StuckWatch) : State := s.onBus fun b => { b with watch := w }

/-- The decision on an addressed frame does not read the watch. -/
theorem takeKind_watching (source : Station) (body : FrameBody) (s : State) (w : StuckWatch) :
    (s.watching w).takeKind source body =
      ((s.takeKind source body).1.watching w, (s.takeKind source body).2) := by
  have lift : ∀ {c : Prop} [Decidable c] (a b : State × Bool) (a' b' : State × Bool),
      a' = (a.1.watching w, a.2) → b' = (b.1.watching w, b.2) →
      (if c then a' else b') = ((if c then a else b).1.watching w, (if c then a else b).2) := by
    intro c _ a b a' b' ha hb
    split
    · exact ha
    · exact hb
  cases body with
  | queryStatus => rfl
  | serviceEnter => exact lift _ _ _ _ rfl (lift _ _ _ _ rfl rfl)
  | serviceExit => exact lift _ _ _ _ rfl rfl
  | store => exact lift _ _ _ _ rfl (lift _ _ _ _ rfl rfl)
  | _ => rfl

theorem judge_watching (source : Station) (body : FrameBody) (s : State) (w : StuckWatch) :
    (s.watching w).judge (State.takeKind source body) =
      ((s.judge (State.takeKind source body)).1.watching w, (s.judge (State.takeKind source body)).2) := by
  by_cases hp : s.status.phase = .configLoad
  · rw [judge_configLoad hp, judge_configLoad (s := s.watching w) hp]
  · by_cases hc : s.cleared = true
    · rw [judge_cleared hp hc, judge_cleared (s := s.watching w) hp hc]
      rfl
    · rw [judge_owner hp (Bool.eq_false_iff.mpr hc), judge_owner (s := s.watching w) hp (Bool.eq_false_iff.mpr hc),
        takeKind_watching]

/-- Bringing the standing conditions up to date outside FREE, as a change of nothing that `plain` shows. -/
theorem finish_plain {s : State} (h : s.bus.state ≠ .free) : s.finish.plain = s.plain := by
  obtain ⟨hstatus, hbus, hfree, hclock, hdir, hcue, hstreams, hcache, hfetch, hdelivery, hpending⟩ := finish_settles s
  rw [if_neg fun hf => h hf.1] at hfree
  obtain ⟨hstate, hbit⟩ := hfree
  rw [hstate, hbit] at hbus
  have hst : { s.finish.status with faultDriven := false, faultOnset := 0 } = { s.status with faultDriven := false, faultOnset := 0 } := by
    rw [hstatus]
  have hb : { s.finish.bus with watch := .idle } = { s.bus with watch := .idle } := by rw [hbus]
  simp only [State.plain, hst, hb, hclock, hdir, hcue, hstreams, hcache, hfetch, hdelivery, hpending]

/-- Two commands that leave the same state, the one with the bus in GAP. -/
theorem settles_gap {x y : State} (hx : x.bus.state ≠ .free)
    (h : { x.plain with bus := { x.plain.bus with state := .gap } } = y.plain) :
    Settles { x.finish with bus := { x.finish.bus with state := .gap } } y.finish := by
  refine (finish_settles y).of_plain ?_
  rw [← h, ← finish_plain hx]
  rfl

/-- The bit of one station in a set of stations. -/
theorem getLsbD_single {n j : Nat} (hj : j < 16) : (1#16 <<< n).getLsbD j = decide (j = n) := by
  rw [BitVec.getLsbD_shiftLeft, BitVec.getLsbD_one]
  by_cases h : j = n
  · subst h; simp [hj]
  · have : ¬ (n ≤ j ∧ j - n = 0) := fun ⟨h1, h2⟩ => h (by omega)
    simp [hj, h]
    omega

/-- Settles O43: the row's decision, and the same decision at the end of the slot. -/
theorem framesAnsweredBySource : Obligations.FramesAnsweredBySource := by
  refine ⟨fun dt src kind frame s => ?_, fun dt src dest kind address data frame id lane reading s h => ⟨fun ha cmd hcmd => ?_,
    fun ha => ⟨fun cmd hcmd => ?_, fun hbusy f hf => ?_⟩⟩, fun dt src value cue release openSet frame s h cmd hcmd => ?_⟩
  · intro query odd heard
    refine ⟨fun hj => ⟨?_, ?_⟩, fun h ha hp hc => ⟨?_, ?_⟩, fun h hp => ⟨?_, ?_⟩⟩
    · obtain ⟨t, ho, ht⟩ : Result.Gives (exec query s) { heard true
          { s.bus.counts with queriesTaken := inc s.bus.counts.queriesTaken } with
            bus := { (heard true { s.bus.counts with queriesTaken := inc s.bus.counts.queriesTaken }).bus with
              requests := s.bus.requests ||| (1#16 <<< src.toNat) } } := addressed_gives hj rfl rfl
      have hreq : t.bus.requests = s.bus.requests ||| (1#16 <<< src.toNat) := by rw [ht.2.1]
      refine ⟨t, ho, by rwa [hreq], fun j hj => ?_⟩
      have hsrc : src.toNat < 16 := src.isLt
      rw [hreq, BitVec.getLsbD_or, getLsbD_single hj]
    · exact addressed_gives hj rfl rfl
    · exact addressedFrame_cleared_gives h ha hp hc
    · exact addressedFrame_cleared_gives h ha hp hc
    · exact addressedFrame_configLoad_gives h hp
    · exact addressedFrame_configLoad_gives h hp
  · simp only [List.mem_cons, List.not_mem_nil, or_false] at hcmd
    rcases hcmd with rfl | rfl | rfl | rfl | rfl
    · exact addressedFrame_other_gives h ha
    · exact addressedFrame_other_gives h ha
    · exact addressedFrame_other_gives h ha
    · exact addressedFrame_other_gives h ha
    · exact addressedFrame_other_gives h ha
  · simp only [List.mem_cons, List.not_mem_nil, or_false] at hcmd
    rcases hcmd with rfl | rfl
    · exact observedFrame_addressed_gives h ha
    · exact observedFrame_addressed_gives h ha
  · let owner := State.takeKind f.source f.body
    let heardFrame : State := (s.elapse dt).received frame
    let decided := heardFrame.judge owner
    let w : StuckWatch := (s.judging dt frame).bus.watch
    have hrow : (s.elapse dt).addressedFrame frame owner = (decided.1.watching w).enterBus (.ackSlot decided.2) := by
      have hjudge : (s.judging dt frame).judge owner = (decided.1.watching w, decided.2) := judge_watching _ _ heardFrame w
      have hr : (if (s.judging dt frame).isAddressee frame = true then (s.judging dt frame).judge owner
          else (s.judging dt frame, false)) = (decided.1.watching w, decided.2) :=
        (if_pos (isAddressee_judging ha)).trans hjudge
      exact (if_pos (show (s.elapse dt).listening = true from h)).trans
        (congrArg (fun q : State × Bool => q.1.enterBus (.ackSlot q.2)) hr)
    have hslot : (s.elapse dt).receivedAtSlotEnd (some frame) = decided.1 := by
      have hb : (s.elapse dt).bus.state = .busy := hbusy
      unfold State.receivedAtSlotEnd
      rw [hb]
      show (if heardFrame.isAddressee frame = true then (heardFrame.judge (State.takeAddressed frame)).1 else heardFrame) = _
      rw [if_pos (isAddressee_iff (s := heardFrame).mpr ha), funext (takeAddressed_eq hf)]
    refine ⟨_, ((decided.1.enterBus .gap).boundary).finish, (exec_frameCommand hf ha).trans (by rw [command_eq, hrow]), ?_, ?_⟩
    · show execAckSlotEnd ⟨dt, some frame⟩ s = _
      unfold execAckSlotEnd
      rw [command_eq]
      dsimp only
      have hopen : (s.elapse dt).listening = true ∧ (s.elapse dt).bus.state ≠ .gap ∧ (s.elapse dt).bus.state ≠ .free
          ∧ (s.elapse dt).bus.state ≠ .busyDominant := by
        have hb : (s.elapse dt).bus.state = .busy := hbusy
        rw [hb]
        exact ⟨h, by decide, by decide, by decide⟩
      rw [if_pos hopen, hslot]
    · exact settles_gap (by nofun) rfl
  · simp only [List.mem_cons, List.not_mem_nil, or_false] at hcmd
    rcases hcmd with rfl | rfl | rfl | rfl | rfl | rfl | rfl
    · exact ⟨broadcastFrame_unknown_gives h, broadcastFrame_configLoad_gives h⟩
    · exact ⟨broadcastFrame_unknown_gives h, broadcastFrame_configLoad_gives h⟩
    · exact ⟨broadcastFrame_unknown_gives h, broadcastFrame_configLoad_gives h⟩
    · exact ⟨broadcastFrame_unknown_gives h, broadcastFrame_configLoad_gives h⟩
    · exact ⟨broadcastFrame_unknown_gives h, broadcastFrame_configLoad_gives h⟩
    · exact ⟨broadcastFrame_unknown_gives h, broadcastFrame_configLoad_gives h⟩
    · exact ⟨broadcastFrame_unknown_gives h, broadcastFrame_configLoad_gives h⟩

end Sys2Proof.Machine


/-! SUPPORT. The bus states, and contests begun and won (R43, R47, R52, R62, R90, R137 to R139, R146 to R151). -/

namespace Sys2Proof.Machine

/-! ### Bus states -/

/-- A state left in FREE with something to send that may contend is one with a start bit sent. -/
theorem settles_startBit {x t : State} (h : Settles x t) (hf : x.bus.state = .free) (hs : x.somethingToSend = true)
    (hm : x.mayContend = true) : Settles { x with bus := { x.bus with state := .busy, startBit := true } } t := by
  obtain ⟨hstatus, hbus, hfree, hrest⟩ := h
  rw [if_pos ⟨hf, hs, hm⟩] at hfree
  exact ⟨hstatus, hbus, by rw [if_neg fun hn => by cases hn.1]; exact hfree, hrest⟩

/-- A state left in FREE with nothing to send that may contend stays there without a start bit. -/
theorem finish_free {x : State} (hb : x.bus.startBit = false) (hf : x.bus.state = .free)
    (h : x.somethingToSend = false ∨ x.mayContend = false) : x.finish.bus.state = .free ∧ x.finish.bus.startBit = false := by
  obtain ⟨-, -, hfree, -⟩ := finish_settles x
  rw [if_neg fun hn => by rcases h with h | h <;> simp [h] at hn] at hfree
  exact ⟨hfree.1.trans hf, hfree.2.trans hb⟩

/-- A command that leaves the bus in FREE with nothing to send that may contend. -/
theorem command_frees {dt : Micros} {body : State → State} {s e : State} (h : body (s.elapse dt) = e)
    (hf : e.bus.state = .free) (hb : e.bus.startBit = false) (hn : e.somethingToSend = false ∨ e.mayContend = false) :
    ∃ t, s.command dt body = .next t ∧ Settles e t ∧ t.bus.state = .free ∧ t.bus.startBit = false :=
  ⟨_, rfl, h ▸ finish_settles _, h ▸ finish_free hb hf hn⟩

theorem receivedAtSlotEnd_slot {s : State} {frame : Option (List Byte)} (h : s.bus.state = .ackSlot true ∨ s.bus.state = .ackSlot false) :
    s.receivedAtSlotEnd frame = s := by
  unfold State.receivedAtSlotEnd
  cases frame with
  | none => rfl
  | some bytes => rcases h with h | h <;> rw [h]

theorem receivedAtSlotEnd_other {s : State} {bytes : List Byte} (h : s.bus.state = .busy) (ha : ¬ s.isAddressed bytes) :
    s.receivedAtSlotEnd (some bytes) = s.received bytes := by
  have ha' : (s.received bytes).isAddressee bytes = false :=
    Bool.eq_false_iff.mpr fun hn => ha (isAddressee_iff (s := s.received bytes).mp hn)
  unfold State.receivedAtSlotEnd
  rw [h]
  exact if_neg (Bool.eq_false_iff.mp ha')

/-- ACK_SLOT_END where a slot or a frame is in progress. -/
theorem ackSlotEnd_gives {dt : Micros} {frame : Option (List Byte)} {s e : State} (ht : s.bus.tenure = none)
    (hb : s.bus.state = .ackSlot true ∨ s.bus.state = .ackSlot false ∨ s.bus.state = .busy)
    (he : ((((s.elapse dt).receivedAtSlotEnd frame).enterBus .gap).boundary).plain = e.plain) :
    Result.Gives (exec (.ackSlotEnd ⟨dt, frame⟩) s) e := by
  show Result.Gives (execAckSlotEnd ⟨dt, frame⟩ s) _
  unfold execAckSlotEnd
  refine command_gives_of_plain ?_
  have hopen : (s.elapse dt).listening = true ∧ (s.elapse dt).bus.state ≠ .gap ∧ (s.elapse dt).bus.state ≠ .free
      ∧ (s.elapse dt).bus.state ≠ .busyDominant := by
    have hte : (s.elapse dt).bus.tenure = none := ht
    unfold State.listening
    rw [hte]
    rcases hb with h | h | h <;> rw [show (s.elapse dt).bus.state = _ from h] <;> decide
  rw [if_pos hopen, he]

/-- Settles O44: each row from its own bus state. -/
theorem busStateMoves : Obligations.BusStateMoves := by
  intro dt bytes s enters
  refine ⟨fun ht => ⟨fun hb frame => ?_, fun hb frame => ?_, fun hb => ⟨?_, fun ha => ?_⟩⟩, fun hb => ⟨fun hs hm => ?_, fun hn => ?_⟩,
    fun hb => ⟨?_, ?_, fun hs hm => ?_, fun hn => ?_⟩, fun hb => ?_, fun hb hbit ht => ?_⟩
  · refine ackSlotEnd_gives ht (hb.imp_right .inl) ?_
    rw [receivedAtSlotEnd_slot (s := s.elapse dt) hb]
    rfl
  · show Result.Gives (execAckSlotEnd ⟨dt, frame⟩ s) _
    unfold execAckSlotEnd
    exact command_gives_of_eq (if_neg fun h => h.2.2.2 hb)
  · exact ackSlotEnd_gives ht (.inr (.inr hb)) rfl
  · refine ackSlotEnd_gives ht (.inr (.inr hb)) ?_
    rw [receivedAtSlotEnd_other (s := s.elapse dt) hb ha]
    rfl
  · show Result.Gives (execGapEnd dt s) _
    unfold execGapEnd
    refine command_gives_of_eq ((if_pos hb).trans ((if_pos ?_).trans rfl))
    rw [show (s.elapse dt).somethingToSend = true from hs, show (s.elapse dt).mayContend = true from hm]
    rfl
  · show ∃ t, execGapEnd dt s = .next t ∧ _
    unfold execGapEnd
    refine command_frees ((if_pos hb).trans ((if_neg ?_).trans rfl)) rfl rfl hn
    rcases hn with h | h
    · rw [show (s.elapse dt).somethingToSend = false from h, Bool.false_and]; decide
    · rw [show (s.elapse dt).mayContend = false from h, Bool.and_false]; decide
  · show Result.Gives (execBusSync dt (.delimiter .addressed) s) _
    unfold execBusSync
    exact command_gives_of_plain ((congrArg State.plain (if_pos hb)).trans rfl)
  · show Result.Gives (execBusSync dt (.delimiter .broadcast) s) _
    unfold execBusSync
    exact command_gives_of_plain ((congrArg State.plain (if_pos hb)).trans rfl)
  · obtain ⟨t, ho, ht⟩ : Result.Gives (exec (.busSync dt .recessive) s) (enters .free) := by
      show Result.Gives (execBusSync dt .recessive s) _
      unfold execBusSync
      exact command_gives_of_eq (if_pos hb)
    exact ⟨t, ho, settles_startBit (x := enters .free) ht rfl hs hm⟩
  · show ∃ t, execBusSync dt .recessive s = .next t ∧ _
    unfold execBusSync
    exact command_frees (if_pos hb) rfl rfl hn
  · show Result.Gives (execLineGoesRecessive dt s) _
    unfold execLineGoesRecessive
    exact command_gives_of_eq (if_pos hb)
  · show Result.Gives (execEmptyContest dt s) _
    unfold execEmptyContest
    refine command_gives_of_plain ((congrArg State.plain (if_pos ⟨hb, hbit, ht⟩)).trans ?_)
    show _ = State.plain { s.later dt with bus := { s.bus with state := .gap, startBit := s.bus.startBit, counts := _ } }
    rw [hbit]
    rfl

end Sys2Proof.Machine


/-! SUPPORT. Contests: the candidate presented, the choice among the heads, and the frame sent (R43, R47, R52, R62, R90,
R137 to R140, R149 to R151). -/

namespace Sys2Proof.Machine

/-! ### The choice among the heads (R138) -/

/-- x is chosen no later than y: less slack, or the same slack and no higher stream id. -/
def chosenNoLater (sfc : Time) (x y : Nat × Context × Entry) : Prop :=
  x.2.2.slack sfc < y.2.2.slack sfc ∨ (x.2.2.slack sfc = y.2.2.slack sfc ∧ x.2.1.id ≤ y.2.1.id)

theorem chosenNoLater_refl (sfc : Time) (x : Nat × Context × Entry) : chosenNoLater sfc x x := .inr ⟨rfl, BitVec.le_refl _⟩

theorem chosenNoLater_trans {sfc : Time} {x y z : Nat × Context × Entry} (hxy : chosenNoLater sfc x y)
    (hyz : chosenNoLater sfc y z) : chosenNoLater sfc x z := by
  unfold chosenNoLater at *
  rcases hxy with h | ⟨h, hid⟩ <;> rcases hyz with h' | ⟨h', hid'⟩
  · exact .inl (by omega)
  · exact .inl (by omega)
  · exact .inl (by omega)
  · exact .inr ⟨by omega, BitVec.le_trans hid hid'⟩

theorem chosenNoLater_of_before {sfc : Time} {x y : Nat × Context × Entry} (h : chosenBefore sfc x y = true) :
    chosenNoLater sfc x y := by
  simp only [chosenBefore, Bool.or_eq_true, Bool.and_eq_true, decide_eq_true_eq] at h
  exact h.imp_right fun ⟨h1, h2⟩ => ⟨h1, BitVec.le_of_lt h2⟩

theorem chosenNoLater_of_not_before {sfc : Time} {x y : Nat × Context × Entry} (h : ¬ chosenBefore sfc y x = true) :
    chosenNoLater sfc x y := by
  simp only [chosenBefore, Bool.or_eq_true, Bool.and_eq_true, decide_eq_true_eq, not_or, not_and, not_lt] at h
  obtain ⟨h1, h2⟩ := h
  unfold chosenNoLater
  by_cases he : y.2.2.slack sfc = x.2.2.slack sfc
  · exact .inr ⟨he.symm, BitVec.not_lt.mp (h2 he)⟩
  · exact .inl (by omega)

/-- The contender chosen is one of them, and none is chosen before it. -/
theorem bestContender_least {sfc : Time} {l : List (Nat × Context × Entry)} {x : Nat × Context × Entry}
    (h : bestContender sfc l = some x) : x ∈ l ∧ ∀ y ∈ l, chosenNoLater sfc x y := by
  induction l generalizing x with
  | nil => cases h
  | cons z rest ih =>
    unfold bestContender at h
    cases hb : bestContender sfc rest with
    | none =>
      rw [hb] at h
      cases h
      have hrest : rest = [] := by
        cases rest with
        | nil => rfl
        | cons y more =>
          unfold bestContender at hb
          split at hb
          · cases hb
          · split at hb <;> cases hb
      refine ⟨by simp, fun y hy => ?_⟩
      rw [hrest, List.mem_singleton] at hy
      exact hy ▸ chosenNoLater_refl sfc y
    | some y =>
      rw [hb] at h
      obtain ⟨hy, hleast⟩ := ih hb
      dsimp only at h
      split at h
      · rename_i hbefore
        cases h
        refine ⟨by simp [hy], fun w hw => ?_⟩
        rcases List.mem_cons.mp hw with rfl | hw
        · exact chosenNoLater_of_before hbefore
        · exact hleast w hw
      · rename_i hbefore
        cases h
        refine ⟨by simp, fun w hw => ?_⟩
        rcases List.mem_cons.mp hw with rfl | hw
        · exact chosenNoLater_refl sfc w
        · exact chosenNoLater_trans (chosenNoLater_of_not_before hbefore) (hleast w hw)

theorem bestContender_isSome {sfc : Time} {l : List (Nat × Context × Entry)} {x : Nat × Context × Entry} (h : x ∈ l) :
    ∃ y, bestContender sfc l = some y := by
  cases l with
  | nil => cases h
  | cons z rest =>
    unfold bestContender
    split
    · exact ⟨_, rfl⟩
    · split
      · exact ⟨_, rfl⟩
      · exact ⟨_, rfl⟩

theorem mem_contenders_iff {s : State} {i : Nat} {c : Context} {e : Entry} : (i, c, e) ∈ s.contenders ↔
    (i, c) ∈ s.streams.contexts ∧ (∃ rest, c.window = e :: rest) ∧ s.contends c e = true := by
  unfold State.contenders
  rw [List.mem_filterMap]
  constructor
  · rintro ⟨p, hp, h⟩
    split at h
    · rename_i d rest hw
      split at h
      · rename_i hc
        cases h
        exact ⟨hp, ⟨rest, hw⟩, hc⟩
      · cases h
    · cases h
  · rintro ⟨hp, ⟨rest, hw⟩, hc⟩
    refine ⟨(i, c), hp, ?_⟩
    simp only [hw]
    exact if_pos hc

/-! ### The word presented -/

section
variable {dt : Micros} {s e : State}

/-- The state in which the 7240 forms its word. -/
def State.contesting (s : State) (dt : Micros) : State := (((s.elapse dt).enterBus .busy).boundary).discardFrame

theorem contestOpens_iff : s.contestOpens = true ↔ s.bus.state = .gap ∨ s.bus.state = .free ∨ s.bus.startBit = true := by
  simp [State.contestOpens, or_assoc]

theorem mayContend_iff' : s.mayContend = true ↔ s.cleared = false ∧ s.status.phase ≠ .configLoad := by
  simp [State.mayContend]

theorem contestStart_silent (h : s.contestOpens = true) (hm : s.mayContend = false)
    (he : (s.contesting dt).plain = e.plain) : Result.Gives (exec (.contestStart dt) s) e := by
  show Result.Gives (execContestStart dt s) _
  unfold execContestStart
  exact command_gives_of_plain ((congrArg State.plain ((if_pos h).trans (if_neg (Bool.eq_false_iff.mp hm)))).trans he)

theorem contestStart_forms (h : s.contestOpens = true) (hm : s.mayContend = true)
    (he : (s.contesting dt).formWord.plain = e.plain) : Result.Gives (exec (.contestStart dt) s) e := by
  show Result.Gives (execContestStart dt s) _
  unfold execContestStart
  exact command_gives_of_plain ((congrArg State.plain ((if_pos h).trans (if_pos hm))).trans he)

theorem formWord_of_candidate {p : OwnItem × WireFrame} (hs : s.NoHeadStale s.clock.sfc) (h : s.candidate = some p) :
    s.formWord = s.present p := by
  unfold State.formWord
  rw [staleTestAll_of_noHeadStale hs]
  simp only [h]

theorem formWord_of_none (hs : s.NoHeadStale s.clock.sfc) (h : s.candidate = none) : s.formWord = s := by
  unfold State.formWord
  rw [staleTestAll_of_noHeadStale hs]
  simp only [h]

theorem offerCandidate_nil (h : s.bus.offers = []) : s.offerCandidate = none := by
  unfold State.offerCandidate
  rw [h]

theorem offerCandidate_cons {i : Nat} {rest : List Nat} {c : Context} (h : s.bus.offers = i :: rest) (hc : s.ctx? i = some c) :
    s.offerCandidate = some (.offer i, s.offerFrame c) := by
  unfold State.offerCandidate
  rw [h]
  simp only [hc, Option.map_some]

theorem candidate_offer {p : OwnItem × WireFrame} (h : s.offerCandidate = some p) : s.candidate = some p := by
  rw [State.candidate, h]
  rfl

theorem candidate_block {p : OwnItem × WireFrame} (ho : s.offerCandidate = none) (h : s.blockCandidate = some p) :
    s.candidate = some p := by
  rw [State.candidate, ho, h]
  rfl

theorem candidate_notice {p : OwnItem × WireFrame} (ho : s.offerCandidate = none) (hb : s.blockCandidate = none)
    (h : s.noticeCandidate = some p) : s.candidate = some p := by
  rw [State.candidate, ho, hb, h]
  rfl

theorem candidate_rest (ho : s.offerCandidate = none) (hb : s.blockCandidate = none) (hn : s.noticeCandidate = none) :
    s.candidate = s.stateCandidate := by
  rw [State.candidate, ho, hb, hn]
  rfl

theorem blockCandidate_nil (h : s.contenders = []) : s.blockCandidate = none := by
  rw [State.blockCandidate, h]
  rfl

theorem noticeCandidate_cons {n : Notice} {rest : List Notice} (h : s.bus.notices = n :: rest) :
    s.noticeCandidate = some (n.item, s.noticeFrame n) := by
  rw [State.noticeCandidate, h]
  rfl

theorem noticeCandidate_nil (h : s.bus.notices = []) : s.noticeCandidate = none := by
  rw [State.noticeCandidate, h]
  rfl

theorem lowestRequest_some {requests : BitVec 16} {j : Nat} (hj : j < 16) (h : requests.getLsbD j = true)
    (hlow : ∀ k < j, requests.getLsbD k = false) : lowestRequest requests = some j := by
  rw [lowestRequest, List.find?_range_eq_some]
  exact ⟨h, List.mem_range.mpr hj, fun k hk => by rw [hlow k hk]; rfl⟩

theorem lowestRequest_zero : lowestRequest 0 = none := by decide

/-- A slack as the word carries it (R47). -/
theorem urgencyOf_eq (slack : Int) : urgencyOf slack =
    if slack < 64 then 0 else if slack ≤ 16319 then BitVec.ofNat 8 (slack / 64).toNat else 255 := by
  unfold urgencyOf
  have hle : slack < 16320 ↔ slack ≤ 16319 := by omega
  have hdiv : ¬ slack < 64 → slack.toNat / 64 = (slack / 64).toNat := fun h => by omega
  by_cases h : slack < 64
  · rw [if_pos h, if_pos h]
  · rw [if_neg h, if_neg h, hdiv h]
    simp only [hle]

end

/-- Settles O45: the candidate of each class, and the word presented. -/
theorem contestPresentsTheLowestClass : Obligations.ContestPresentsTheLowestClass := by
  intro dt s hopen hstale opened urgency pass presents
  have hopens : s.contestOpens = true := contestOpens_iff.mpr hopen
  refine ⟨fun hc => ?_, fun hc hp => ?_⟩
  · exact contestStart_silent hopens (Bool.eq_false_iff.mpr fun h => by
      have := (mayContend_iff'.mp h).1
      rw [hc] at this
      cases this) rfl
  · have hmay : s.mayContend = true := mayContend_iff'.mpr ⟨hc, hp⟩
    have hstale' : (s.contesting dt).NoHeadStale (s.contesting dt).clock.sfc := hstale
    have forms : ∀ {p : OwnItem × WireFrame} {e : State}, (s.contesting dt).candidate = some p →
        ((s.contesting dt).present p).plain = e.plain → Result.Gives (exec (.contestStart dt) s) e := fun hcand he =>
      contestStart_forms hopens hmay (by rw [formWord_of_candidate hstale' hcand, he])
    refine ⟨fun i rest c ho hctx => ?_, fun ho i c e hb => ?_, fun ho hnone => ⟨fun i id reason delivered dropped patched rest hn => ?_,
      fun dest address outcome rest hn => ?_, fun hn j hj hreq hlow => ?_, fun hn hr => ?_⟩⟩
    · exact forms (candidate_offer (offerCandidate_cons (s := s.contesting dt) ho hctx)) rfl
    · have hblock : (s.contesting dt).blockCandidate = some (.block i e.slot, (s.contesting dt).blockFrame c e) := by
        have hb' : bestContender (s.contesting dt).clock.sfc (s.contesting dt).contenders = some (i, c, e) := hb
        rw [State.blockCandidate, hb']
        rfl
      have hframe : (s.contesting dt).blockFrame c e =
          { urgency := urgency (signedDiff e.deadline s.clock.sfc), source := s.status.station
            dest := c.id.extractLsb' 12 4
            body := .block
              { id := c.id, lane := c.lane.zeroExtend 8
                flags := (if e.phantom then 0x80 else 0) ||| e.patched.zeroExtend 8
                k := BitVec.ofNat 16 e.k, pass := BitVec.ofNat 16 (pass e.part), data := [] } } := by
        rw [State.blockFrame, urgencyOf_eq]
        cases e.part <;> rfl
      rw [hframe] at hblock
      exact forms (candidate_block (offerCandidate_nil (s := s.contesting dt) ho) hblock) rfl
    · exact forms (candidate_notice (offerCandidate_nil (s := s.contesting dt) ho) (blockCandidate_nil (s := s.contesting dt) hnone)
        (noticeCandidate_cons (s := s.contesting dt) hn)) rfl
    · exact forms (candidate_notice (offerCandidate_nil (s := s.contesting dt) ho) (blockCandidate_nil (s := s.contesting dt) hnone)
        (noticeCandidate_cons (s := s.contesting dt) hn)) rfl
    · have hstate : (s.contesting dt).stateCandidate = some (.state, (s.contesting dt).stateFrame j) := by
        have hlowest : lowestRequest (s.contesting dt).bus.requests = some j := lowestRequest_some hj hreq hlow
        rw [State.stateCandidate, hlowest]
        rfl
      exact forms ((candidate_rest (offerCandidate_nil (s := s.contesting dt) ho)
        (blockCandidate_nil (s := s.contesting dt) hnone) (noticeCandidate_nil (s := s.contesting dt) hn)).trans hstate) rfl
    · have hstate : (s.contesting dt).stateCandidate = none := by
        have hlowest : lowestRequest (s.contesting dt).bus.requests = none := by
          rw [show (s.contesting dt).bus.requests = 0 from hr, lowestRequest_zero]
        rw [State.stateCandidate, hlowest]
        rfl
      refine contestStart_forms hopens hmay ?_
      rw [formWord_of_none hstale' ((candidate_rest (offerCandidate_nil (s := s.contesting dt) ho)
        (blockCandidate_nil (s := s.contesting dt) hnone) (noticeCandidate_nil (s := s.contesting dt) hn)).trans hstate)]
      rfl

/-! ### A BLOCK presented -/

section
variable {dt : Micros} {s : State}

theorem contends_iff {c : Context} {e : Entry} : s.contends c e = true ↔
    c.delivering = true ∧ signedDiff s.clock.sfc e.leaveTime < 0 ∧ e.ready = true ∧ e.isEligible s.clock.sfc = true
      ∧ s.laneOpen (stationPart c.id) c.lane = true := by
  simp [State.contends, and_assoc]

theorem isEligible_iff {e : Entry} {sfc : Time} : e.isEligible sfc = true ↔ ∀ x, e.eligible = some x → 0 ≤ signedDiff sfc x := by
  unfold Entry.isEligible
  cases e.eligible <;> simp

theorem delivering_iff {c : Context} : c.delivering = true ↔ c.state = .running ∨ c.state = .looping := by
  simp [Context.delivering]

/-- Only the delivery unit's candidate is a BLOCK. -/
theorem blockCandidate_of_block {i : Nat} {slot : Option SlotNo} {frame : WireFrame}
    (h : s.candidate = some (.block i slot, frame)) : s.blockCandidate = some (.block i slot, frame) := by
  unfold State.candidate at h
  cases ho : s.offerCandidate with
  | some p =>
    rw [ho] at h
    cases h
    unfold State.offerCandidate at ho
    split at ho
    · obtain ⟨c, -, hc⟩ := Option.map_eq_some_iff.mp ho
      cases hc
    · cases ho
  | none =>
    cases hb : s.blockCandidate with
    | some p =>
      rw [ho, hb] at h
      exact h
    | none =>
      cases hn : s.noticeCandidate with
      | some p =>
        rw [ho, hb, hn] at h
        cases h
        obtain ⟨n, -, hn'⟩ := Option.map_eq_some_iff.mp hn
        cases n <;> cases hn'
      | none =>
        rw [ho, hb, hn] at h
        obtain ⟨j, -, hj⟩ := Option.map_eq_some_iff.mp (show s.stateCandidate = _ from h)
        cases hj

/-- The contender behind a BLOCK candidate. -/
theorem contender_of_blockCandidate {i : Nat} {slot : Option SlotNo} {frame : WireFrame}
    (h : s.blockCandidate = some (.block i slot, frame)) :
    ∃ c e, bestContender s.clock.sfc s.contenders = some (i, c, e) ∧ e.slot = slot := by
  obtain ⟨x, hx, hp⟩ := Option.map_eq_some_iff.mp h
  obtain ⟨j, c, e⟩ := x
  cases hp
  exact ⟨c, e, hx, rfl⟩

theorem contestStart_eq : exec (.contestStart dt) s = .next
    (if s.contestOpens = true then if s.mayContend = true then (s.contesting dt).formWord else s.contesting dt
      else s.elapse dt).finish := rfl

theorem present_block {i : Nat} {slot : Option SlotNo} {frame : WireFrame} {p : OwnItem × WireFrame}
    (h : (s.present p).bus.tenure = some { item := .block i slot, frame := frame, sent := false }) :
    p = (.block i slot, frame) := by
  obtain ⟨item, wire⟩ := p
  cases h
  rfl

theorem staleTestAll_tenure : s.staleTestAll.bus.tenure = s.bus.tenure := by
  obtain ⟨-, -, -, -, -, -, -, l, hb⟩ := Moves.frame (Moves.staleTestAll (.refl : Moves true s s))
  rw [hb]

/-- A BLOCK in the tenure after a contest start was presented there. -/
theorem contestStart_block {i : Nat} {slot : Option SlotNo} {frame : WireFrame} {t : State} (hnone : s.bus.tenure = none)
    (h : exec (.contestStart dt) s = .next t)
    (ht : t.bus.tenure = some { item := .block i slot, frame := frame, sent := false }) :
    (s.contesting dt).staleTestAll.candidate = some (.block i slot, frame)
      ∧ t = ((s.contesting dt).staleTestAll.present (.block i slot, frame)).finish := by
  rw [contestStart_eq] at h
  cases h
  rw [finish_tenure] at ht
  split at ht
  · split at ht
    · rename_i hopen hmay
      rw [if_pos hopen, if_pos hmay]
      unfold State.formWord at ht ⊢
      dsimp only at ht ⊢
      split at ht
      · rename_i p hp
        cases present_block ht
        simp only [hp]
        exact ⟨trivial, trivial⟩
      · rw [staleTestAll_tenure, show (s.contesting dt).bus.tenure = none from hnone] at ht
        cases ht
    · rw [show (s.contesting dt).bus.tenure = none from hnone] at ht
      cases ht
  · rw [show (s.elapse dt).bus.tenure = none from hnone] at ht
    cases ht

end

theorem mem_modify {α : Type} {m : List (Nat × α)} {i j : Nat} {f : α → α} {a : α} :
    (j, a) ∈ Sparse.modify m i f ↔ ∃ b, (j, b) ∈ m ∧ a = if j = i then f b else b := by
  unfold Sparse.modify
  constructor
  · intro h
    obtain ⟨⟨k, b⟩, hb, he⟩ := List.mem_map.mp h
    dsimp only at he
    split at he
    · rename_i hk
      cases he
      exact ⟨_, hb, (if_pos hk).symm⟩
    · rename_i hk
      cases he
      exact ⟨_, hb, (if_neg hk).symm⟩
  · rintro ⟨b, hb, rfl⟩
    refine List.mem_map.mpr ⟨(j, b), hb, ?_⟩
    dsimp only
    split <;> rfl

section
variable {s : State}

theorem setHeadPhase_window {ph : BusPhase} {c : Context} {e : Entry} {rest : List Entry}
    (h : (c.setHeadPhase ph).window = e :: rest) : ∃ d, c.window = d :: rest ∧ e = { d with busPhase := ph } := by
  unfold Context.setHeadPhase at h
  split at h
  · rename_i d more hw
    cases h
    exact ⟨d, hw, rfl⟩
  · cases h

/-- A context of the state in which a BLOCK has been presented, and the context it was. -/
theorem present_block_mem {i j : Nat} {slot : Option SlotNo} {frame : WireFrame} {d : Context} {e : Entry} {rest : List Entry}
    (hd : (j, d) ∈ (s.present (.block i slot, frame)).finish.streams.contexts) (hw : d.window = e :: rest) :
    ∃ b f, (j, b) ∈ s.streams.contexts ∧ b.window = f :: rest ∧ d.id = b.id
      ∧ s.contends d e = s.contends b f ∧ e.deadline = f.deadline := by
  rw [finish_streams] at hd
  have hd : (j, d) ∈ Sparse.modify s.streams.contexts i (Context.setHeadPhase .presented) := hd
  obtain ⟨b, hb, hd'⟩ := mem_modify.mp hd
  by_cases hji : j = i
  · rw [if_pos hji] at hd'
    subst hd'
    obtain ⟨f, hf, rfl⟩ := setHeadPhase_window hw
    exact ⟨b, f, hb, hf, rfl, rfl, rfl⟩
  · rw [if_neg hji] at hd'
    subst hd'
    exact ⟨d, e, hb, hw, rfl, rfl, rfl⟩

end

/-- Settles O46: the BLOCK presented is the best contender's, and a contender has one presented. -/
theorem presentedBlockHasLeastSlack : Obligations.PresentedBlockHasLeastSlack := by
  refine ⟨fun dt i slot frame s t htable hnone h ht => ?_,
    fun dt i c e rest bridge lanes s hopen hc hp ho hstale hctx hst hw hr hleave helig hbridge hview hlane => ?_⟩
  · obtain ⟨hcand, rfl⟩ := contestStart_block hnone h ht
    obtain ⟨c, e, hbest, hslot⟩ := contender_of_blockCandidate (blockCandidate_of_block hcand)
    obtain ⟨hmem, hleast⟩ := bestContender_least hbest
    obtain ⟨hctx, ⟨rest, hw⟩, hcontends⟩ := mem_contenders_iff.mp hmem
    obtain ⟨hdel, hleave, hready, helig, hlane⟩ := contends_iff.mp hcontends
    have hwf : ((s.contesting dt).staleTestAll).TableLaw := (Moves.staleTestAll (.refl : Moves true _ _)).tableLaw htable
    refine ⟨c.setHeadPhase .presented, { e with busPhase := .presented }, rest, ?_, ?_, hslot,
      delivering_iff.mp hdel, hready, ?_, ?_, ?_, ?_⟩
    · rw [State.ctx?, finish_streams]
      refine (Sparse.get_modify _ i i _).trans ?_
      rw [if_pos rfl, (Sparse.get_eq_some_iff hwf.1).mpr hctx]
      rfl
    · rw [Context.setHeadPhase, hw]
    · rw [finish_clock]
      exact hleave
    · rw [finish_clock]
      exact isEligible_iff.mp helig
    · rw [State.laneOpen, finish_delivery]
      exact hlane
    · intro p hp e' rest' hw' hcon
      obtain ⟨b, f, hb, hf, hid, hsame, hdead⟩ := present_block_mem hp hw'
      have hcon' : (s.contesting dt).staleTestAll.contends b f = true := by
        rw [← hsame, ← hcon, State.contends, State.contends, State.laneOpen, State.laneOpen, finish_clock, finish_delivery]
        rfl
      have := hleast _ (mem_contenders_iff.mpr ⟨hb, ⟨rest', hf⟩, hcon'⟩)
      rw [finish_clock, hdead, hid]
      exact this
  · have hopens : s.contestOpens = true := contestOpens_iff.mpr hopen
    have hmay : s.mayContend = true := mayContend_iff'.mpr ⟨hc, hp⟩
    have hcon : (s.contesting dt).contends c e = true := by
      refine contends_iff.mpr ⟨delivering_iff.mpr hst, hleave, hr, isEligible_iff.mpr helig, ?_⟩
      subst hbridge
      unfold State.laneOpen
      rw [show (s.contesting dt).delivery.views.find? (fun v => v.1 == stationPart c.id) = _ from hview]
      exact hlane
    obtain ⟨⟨j, d, f⟩, hbest⟩ := bestContender_isSome (sfc := (s.contesting dt).clock.sfc) (l := (s.contesting dt).contenders)
      (mem_contenders_iff.mpr ⟨(hctx : (i, c) ∈ (s.contesting dt).streams.contexts), ⟨rest, hw⟩, hcon⟩)
    have hblock : (s.contesting dt).blockCandidate = some (.block j f.slot, (s.contesting dt).blockFrame d f) := by
      rw [State.blockCandidate, hbest]
      rfl
    have hform := formWord_of_candidate (s := s.contesting dt) hstale
      (candidate_block (offerCandidate_nil (s := s.contesting dt) ho) hblock)
    refine ⟨_, contestStart_eq, j, f.slot, (s.contesting dt).blockFrame d f, ?_⟩
    rw [if_pos hopens, if_pos hmay, hform, finish_tenure]
    rfl

/-! ### A contest won -/

section
variable {dt : Micros} {s e : State} {frame : WireFrame}

theorem contestWon_gives {item : OwnItem} (h : s.bus.tenure = some { item := item, frame := frame, sent := false })
    (he : ((s.elapse dt).winContest { item := item, frame := frame, sent := false }).plain = e.plain) :
    Result.Gives (exec (.contestWon dt) s) e := by
  show Result.Gives (execContestWon dt s) _
  unfold execContestWon
  refine command_gives_of_plain ?_
  rw [show (s.elapse dt).bus.tenure = _ from h]
  exact he

theorem blockData_length (slot : Option SlotNo) : (s.blockData slot).length = 12288 := by
  cases slot with
  | none => exact List.length_replicate
  | some n => exact Dram.readBytes_length _ _ _

/-- The bytes of a BLOCK, one by one (R111, R139). -/
theorem blockData_getElem (hs : s.MemoryLaw) (slot : Option SlotNo) (j : Nat) (h : j < (s.blockData slot).length) :
    (s.blockData slot)[j] = match (generalizing := false) slot with
      | some n => Dram.read s.cache.dram (Dram.pageAddress n 0 + j)
      | none => 0 := by
  cases slot with
  | none => exact List.getElem_replicate _
  | some n => exact Dram.readBytes_getElem hs.1 _ _ j h

end

/-- Settles O47: the item leaves its queue and its frame goes out whole. -/
theorem contestWonSendsTheFrame : Obligations.ContestWonSendsTheFrame := by
  intro dt frame s hmem won presented sends
  refine ⟨fun i h => ?_, fun i slot b h hb => ⟨s.blockData slot, blockData_length slot, blockData_getElem hmem slot, ?_⟩,
    fun i h => ?_, fun dest address outcome rest h hn => ?_, fun record h hb => ?_⟩
  · exact contestWon_gives h rfl
  · refine contestWon_gives h ?_
    obtain ⟨urgency, source, dest, body⟩ := frame
    subst hb
    rfl
  · exact contestWon_gives h rfl
  · have hrest : popStored s.bus.notices = rest := by rw [hn]; rfl
    exact contestWon_gives h (hrest ▸ rfl)
  · refine contestWon_gives h ?_
    obtain ⟨urgency, source, dest, body⟩ := frame
    subst hb
    rfl

end Sys2Proof.Machine


/-! SUPPORT. The layout of the STATE record (R173): a record as a row of numbers, each of its bytes and value. -/

namespace Sys2Proof.Bytes

/-- The numbers of a row, each a pair of bytes and value, one behind another. -/
def row (parts : List (Nat × Nat)) : List Byte := parts.flatMap fun p => be p.1 p.2

/-- The bytes of a row. -/
def width (parts : List (Nat × Nat)) : Nat := (parts.map Prod.fst).sum

/-- The numbers of a row that begins at an offset, each behind its own offset. -/
def placed : Nat → List (Nat × Nat) → List (Nat × Nat × Nat)
  | _, [] => []
  | off, p :: rest => (off, p) :: placed (off + p.1) rest

theorem row_append (l r : List (Nat × Nat)) : row (l ++ r) = row l ++ row r := List.flatMap_append

theorem row_length (parts : List (Nat × Nat)) : (row parts).length = width parts := by
  simp [row, width, List.length_flatMap]

theorem width_append (l r : List (Nat × Nat)) : width (l ++ r) = width l + width r := by simp [width]

theorem placed_append (off : Nat) (l r : List (Nat × Nat)) : placed off (l ++ r) = placed off l ++ placed (off + width l) r := by
  induction l generalizing off with
  | nil => simp [placed, width]
  | cons p rest ih => simp [placed, width, ih, Nat.add_assoc]

/-- A number of a row is read back at its offset. -/
theorem field_placed {pre : List Byte} {off : Nat} {parts : List (Nat × Nat)} {x : Nat × Nat × Nat}
    (hpre : pre.length = off) (hx : x ∈ placed off parts) : field (pre ++ row parts) x.1 x.2.1 = x.2.2 % 256 ^ x.2.1 := by
  induction parts generalizing off pre with
  | nil => cases hx
  | cons p rest ih =>
    rcases List.mem_cons.mp hx with rfl | hx
    · rw [field_append_skip (Nat.le_of_eq hpre), hpre, Nat.sub_self]
      exact field_be_append _ _ _
    · have hrow : pre ++ row (p :: rest) = (pre ++ be p.1 p.2) ++ row rest := by
        simp [row]
      rw [hrow]
      exact ih (by simp [hpre]) hx

/-- A group of counts in a row. -/
theorem placed_counts (off : Nat) (counts : List Count) : placed off (counts.map fun c => (4, c.toNat)) =
    counts.zipIdx.map fun x => (off + 4 * x.2, 4, x.1.toNat) := by
  suffices h : ∀ n, placed (off + 4 * n) (counts.map fun c => (4, c.toNat)) =
      (counts.zipIdx n).map fun x => (off + 4 * x.2, 4, x.1.toNat) from h 0
  induction counts with
  | nil => exact fun _ => rfl
  | cons c rest ih =>
    intro n
    simp only [List.map_cons, placed, List.zipIdx_cons]
    rw [← ih (n + 1)]
    rfl

theorem be_zero (n : Nat) : be n 0 = List.replicate n 0 := by
  induction n with
  | zero => rfl
  | succ n ih =>
    rw [be, ih, Nat.zero_div]
    rfl

end Sys2Proof.Bytes

namespace Sys2Proof.Machine

open Bytes

/-- A field that may be without a value, as a number. -/
theorem orNone_eq {n : Nat} (h : be n (256 ^ n - 1) = List.replicate n 0xFF) (v : Option Nat) :
    orNone n v = be n (orOnes n v) := by
  cases v with
  | none => exact h.symm
  | some v => rfl

theorem orNone_one (v : Option Nat) : orNone 1 v = be 1 (orOnes 1 v) := orNone_eq (by decide) v
theorem orNone_two (v : Option Nat) : orNone 2 v = be 2 (orOnes 2 v) := orNone_eq (by decide) v
theorem orNone_four (v : Option Nat) : orNone 4 v = be 4 (orOnes 4 v) := orNone_eq (by decide) v

theorem countBytes_eq (counts : List Count) : countBytes counts = row (counts.map fun c => (4, c.toNat)) := by
  simp [countBytes, row, List.flatMap_map]

/-- A row of single numbers and groups, taken apart from the front. -/
theorem row_cons (p : Nat × Nat) (rest : List (Nat × Nat)) : row (p :: rest) = be p.1 p.2 ++ row rest := rfl

theorem row_nil : row [] = [] := rfl

/-- The numbers of a channel's record. -/
theorem channelFields_snd (s : State) (c : ChannelNo) : (s.channelFields c).map Prod.snd =
    [(1, (s.chan c).stateCode), (1, (s.chan c).timeouts), (1, (s.chan c).partials.length), (1, 0),
      (4, orOnes 4 (s.chan c).pageCount), (4, (s.chan c).queue.length)]
      ++ (s.chan c).counts.list.map fun k => (4, k.toNat) := by
  have hcounts : (s.chan c).counts.list.map (fun k => (4, k.toNat)) =
      (s.chan c).counts.list.zipIdx.map (Prod.snd ∘ fun x => (128 + 64 * c.val + 12 + 4 * x.2, 4, x.1.toNat)) := by
    conv_lhs => rw [← List.zipIdx_map_fst 0 (s.chan c).counts.list, List.map_map]
    rfl
  rw [State.channelFields, List.map_append, List.map_map, hcounts]
  rfl

theorem channelRecord_eq (s : State) (c : ChannelNo) : (s.chan c).record = row ((s.channelFields c).map Prod.snd) := by
  rw [Channel.record, orNone_four, countBytes_eq, channelFields_snd, row_append]
  simp only [row_cons, row_nil, List.append_nil, List.append_assoc]

theorem counts_width (counts : List Count) : width (counts.map fun k => (4, k.toNat)) = 4 * counts.length := by
  induction counts with
  | nil => rfl
  | cons c rest ih =>
    rw [List.length_cons, Nat.mul_succ, ← ih, Nat.add_comm]
    rfl

theorem channelFields_placed (s : State) (c : ChannelNo) :
    placed (128 + 64 * c.val) ((s.channelFields c).map Prod.snd) = s.channelFields c := by
  rw [channelFields_snd, placed_append, placed_counts]
  rfl

theorem channelFields_width (s : State) (c : ChannelNo) : width ((s.channelFields c).map Prod.snd) = 64 := by
  have hcounts : (s.chan c).counts.list.length = 13 := rfl
  rw [channelFields_snd, width_append, counts_width, hcounts]
  rfl

/-- The numbers of the channels' records. -/
def channelParts (s : State) : List (Nat × Nat) := channels.flatMap fun c => (s.channelFields c).map Prod.snd

theorem placed_channel (s : State) (c : ChannelNo) (rest : List (Nat × Nat)) :
    placed (128 + 64 * c.val) ((s.channelFields c).map Prod.snd ++ rest) =
      s.channelFields c ++ placed (128 + 64 * c.val + 64) rest := by
  rw [placed_append, channelFields_placed, channelFields_width]

theorem channelParts_placed (s : State) : placed 128 (channelParts s) = channels.flatMap s.channelFields := by
  have h0 := placed_channel s 0
  have h1 := placed_channel s 1
  have h2 := placed_channel s 2
  have h3 := placed_channel s 3
  have h4 := placed_channel s 4
  have h5 := placed_channel s 5
  have h6 := placed_channel s 6
  have h7 := placed_channel s 7
  norm_num at h0 h1 h2 h3 h4 h5 h6 h7
  simp only [channelParts, channels, List.flatMap_cons, List.flatMap_nil]
  rw [h0, h1, h2, h3, h4, h5, h6, h7]
  rfl

/-- The numbers of the counts. -/
def countParts (s : State) : List (Nat × Nat) :=
  (s.dir.counts.list ++ s.clock.counts.list ++ s.cue.clamps.list ++ s.cue.counts.list
      ++ s.streams.counts.list ++ s.cache.counts.list ++ s.delivery.counts.list ++ s.bus.counts.list
      ++ [s.status.faultOnset]).map fun k => (4, k.toNat)

/-- The lengths of the groups of counts. -/
theorem counts_lengths (s : State) : s.dir.counts.list.length = 13 ∧ s.clock.counts.list.length = 7
    ∧ s.cue.clamps.list.length = 3 ∧ s.cue.counts.list.length = 15 ∧ s.streams.counts.list.length = 14
    ∧ s.cache.counts.list.length = 9 ∧ s.delivery.counts.list.length = 9 ∧ s.bus.counts.list.length = 21 :=
  ⟨rfl, rfl, rfl, rfl, rfl, rfl, rfl, rfl⟩

theorem countParts_placed (s : State) : placed 640 (countParts s) = s.countFields := by
  obtain ⟨h1, h2, h3, h4, h5, h6, h7, h8⟩ := counts_lengths s
  simp only [countParts, State.countFields, List.map_append, placed_append, counts_width, placed_counts,
    List.flatMap_cons, List.flatMap_nil, List.append_nil, List.append_assoc, h1, h2, h3, h4, h5, h6, h7, h8,
    Nat.reduceAdd, Nat.reduceMul]

theorem headParts_placed (s : State) : placed 0 (s.recordFields.map Prod.snd) = s.recordFields := by
  simp only [State.recordFields, List.map_cons, List.map_nil, placed, Nat.reduceAdd, Nat.zero_add]

theorem headParts_width (s : State) : width (s.recordFields.map Prod.snd) = 100 := by
  simp only [State.recordFields, List.map_cons, List.map_nil, width, List.sum_cons, List.sum_nil, Nat.reduceAdd]

theorem mem_channels (c : ChannelNo) : c ∈ channels := by
  revert c
  decide

theorem offline_any (s : State) : (channels.any fun c => (s.chan c).offline) = s.fetch.channels.toList.any Channel.offline := by
  rw [Bool.eq_iff_iff, List.any_eq_true, List.any_eq_true]
  constructor
  · rintro ⟨c, -, hc⟩
    exact ⟨s.chan c, Vector.mem_toList_iff.mpr (Vector.getElem_mem c.isLt), hc⟩
  · rintro ⟨ch, hmem, hc⟩
    obtain ⟨i, hi, rfl⟩ := Vector.mem_iff_getElem.mp (Vector.mem_toList_iff.mp hmem)
    exact ⟨⟨i, hi⟩, mem_channels _, hc⟩

theorem faultByte_eq (s : State) : s.faultByte =
    (if s.status.faultDriven then 128 else 0) + (if s.status.phase == .unconfigured then 1 else 0)
      + (if s.dir.headerFault then 2 else 0) + (if s.fetch.channels.toList.any Channel.offline then 4 else 0)
      + if s.clock.state == .lost then 8 else 0 := by
  rw [State.faultByte, State.faultCauses, offline_any]
  simp only [List.zipIdx_cons, List.zipIdx_nil, List.map_cons, List.map_nil, List.sum_cons, List.sum_nil]
  simp only [Nat.add_assoc, Nat.add_zero]
  rfl

/-- The numbers of the whole record, with its two reserved parts. -/
def recordParts (s : State) : List (Nat × Nat) :=
  s.recordFields.map Prod.snd ++ ([(28, 0)] ++ (channelParts s ++ (countParts s ++ [(16, 0)])))

/-- The part of the record before the channels. -/
def headBytes (s : State) : List Byte :=
  let config := configBytes s.status.config
  be 1 s.status.phase.code ++ be 1 s.status.station.toNat ++ be 1 s.faultByte
    ++ be 1 s.clock.state.code ++ be 4 s.clock.sfc.toNat ++ orNone 2 s.clock.interval
    ++ orNone 1 (s.dir.serviceStation.map BitVec.toNat) ++ config.1 ++ be 4 s.clock.localTime.toNat
    ++ config.2
    ++ be 2 (Config.contexts - s.streams.contexts.length) ++ be 2 (s.contextsIn .contending)
    ++ be 2 (s.contextsIn .running) ++ be 2 (s.contextsIn .looping) ++ be 2 (s.contextsIn .spent)
    ++ be 2 s.cue.demandSum
    ++ (List.range 4).flatMap (fun i => orNone 1 (s.delivery.views[i]?.map fun v => setBits v.2))
    ++ be 2 s.bus.offers.length ++ be 2 s.bus.notices.length ++ be 1 (setBits s.bus.requests)
    ++ be 3 0
    ++ be 4 (Config.slots - s.cache.slots.length) ++ be 4 (s.slotsIn .filling)
    ++ be 4 (s.slotsIn .valid) ++ be 4 (s.slotsIn .patched)
    ++ be 4 s.cache.freeLength ++ be 4 s.cache.reclaim.length
    ++ be 4 (s.cache.slots.filter fun p => p.2.refs != 0).length
    ++ be 4 s.fetch.extent ++ be 4 s.dir.table.length

theorem range_four : List.range 4 = [0, 1, 2, 3] := rfl

theorem headBytes_eq (s : State) : headBytes s = row (s.recordFields.map Prod.snd) := by
  have hzeros : List.replicate 24 (0 : Byte) = be 1 0 ++ (be 1 0 ++ (be 1 0 ++ (be 1 0 ++ (be 1 0 ++ (be 1 0 ++ (be 1 0
      ++ (be 1 0 ++ (be 2 0 ++ (be 2 0 ++ (be 2 0 ++ (be 2 0 ++ (be 3 0 ++ (be 3 0 ++ be 2 0))))))))))))) := by decide
  delta headBytes
  simp only [State.recordFields, List.map_cons, List.map_nil, row_cons, row_nil, range_four, List.flatMap_cons,
    List.flatMap_nil, List.append_nil, List.append_assoc, orNone_one, orNone_two, faultByte_eq]
  cases s.status.config with
  | none =>
    simp only [configBytes, hzeros, List.append_assoc]
    rfl
  | some c =>
    simp only [configBytes, orNone_one, range_four, List.flatMap_cons, List.flatMap_nil, List.append_nil, List.append_assoc]
    rfl

theorem record_split (s : State) : s.record = headBytes s ++ List.replicate 28 0
    ++ channels.flatMap (fun c => (s.chan c).record)
    ++ countBytes (s.dir.counts.list ++ s.clock.counts.list ++ s.cue.clamps.list ++ s.cue.counts.list
      ++ s.streams.counts.list ++ s.cache.counts.list ++ s.delivery.counts.list ++ s.bus.counts.list
      ++ [s.status.faultOnset]) ++ List.replicate 16 0 := rfl

theorem record_eq (s : State) : s.record = row (recordParts s) := by
  have hchannels : channels.flatMap (fun c => (s.chan c).record) = row (channelParts s) := by
    simp only [channelRecord_eq, channelParts, row, List.flatMap_assoc]
  rw [record_split, headBytes_eq, hchannels, countBytes_eq, ← be_zero, ← be_zero, recordParts, row_append, row_append,
    row_append, row_append]
  simp only [row_cons, row_nil, List.append_nil, List.append_assoc, countParts]

theorem channelParts_width (s : State) : width (channelParts s) = 512 := by
  simp only [channelParts, channels, List.flatMap_cons, List.flatMap_nil, width_append, channelFields_width]
  rfl

theorem countParts_width (s : State) : width (countParts s) = 368 := by
  obtain ⟨h1, h2, h3, h4, h5, h6, h7, h8⟩ := counts_lengths s
  simp only [countParts, counts_width, List.length_append, h1, h2, h3, h4, h5, h6, h7, h8, List.length_singleton,
    Nat.reduceAdd, Nat.reduceMul]

theorem recordParts_placed (s : State) : placed 0 (recordParts s) =
    s.recordFields ++ ((100, 28, 0) :: (channels.flatMap s.channelFields ++ (s.countFields ++ [(1008, 16, 0)]))) := by
  have hreserved : width [(28, 0)] = 28 := rfl
  simp only [recordParts, placed_append, headParts_placed, headParts_width, channelParts_width, countParts_width, hreserved,
    Nat.zero_add, Nat.reduceAdd, channelParts_placed, countParts_placed]
  rfl

theorem record_field (s : State) {x : Nat × Nat × Nat} (h : x ∈ placed 0 (recordParts s)) :
    field s.record x.1 x.2.1 = x.2.2 % 256 ^ x.2.1 := by
  rw [record_eq]
  exact field_placed (pre := []) rfl h

end Sys2Proof.Machine

namespace Sys2Proof.Bytes

theorem value_eq_zero {l : List Byte} (h : value l = 0) : ∀ b ∈ l, b = 0 := by
  induction l with
  | nil => simp
  | cons a rest ih =>
    rw [value_cons, Nat.add_eq_zero_iff, Nat.mul_eq_zero] at h
    obtain ⟨ha | hpow, hrest⟩ := h
    · intro b hb
      rcases List.mem_cons.mp hb with rfl | hb
      · exact BitVec.eq_of_toNat_eq ha
      · exact ih hrest b hb
    · exact absurd hpow ((Nat.pow_pos (by decide)).ne')

/-- A byte of a field that is 0 is 0. -/
theorem byteAt_of_field_zero {l : List Byte} {off n i : Nat} (h : field l off n = 0) (hlo : off ≤ i) (hhi : i < off + n) :
    byteAt l i = 0 := by
  by_cases hi : i < l.length
  · have hmem : l[i] ∈ slice l off n := by
      refine List.mem_take_iff_getElem.mpr ⟨i - off, ?_, ?_⟩
      · rw [List.length_drop]
        omega
      · rw [List.getElem_drop]
        congr 1
        omega
    rw [byteAt_eq_getElem hi, value_eq_zero h _ hmem]
    rfl
  · rw [byteAt, field, slice, List.drop_of_length_le (by omega)]
    rfl

end Sys2Proof.Bytes

namespace Sys2Proof.Machine

open Bytes

/-- Settles O60: the record is a row of numbers, and each field is one of them. -/
theorem stateRecordLayout : Obligations.StateRecordLayout := by
  intro s
  refine ⟨?_, fun x hx => record_field s ?_, fun i hi => ?_⟩
  · simp only [record_eq, row_length, recordParts, width_append, headParts_width, channelParts_width, countParts_width]
    rfl
  · rw [recordParts_placed]
    simp only [List.mem_append, List.mem_cons] at hx ⊢
    tauto
  · have hfirst : field s.record 100 28 = 0 := record_field s (x := (100, 28, 0)) (by rw [recordParts_placed]; simp)
    have hlast : field s.record 1008 16 = 0 := record_field s (x := (1008, 16, 0)) (by rw [recordParts_placed]; simp)
    rcases hi with ⟨hlo, hhi⟩ | ⟨hlo, hhi⟩
    · exact byteAt_of_field_zero hfirst hlo hhi
    · exact byteAt_of_field_zero hlast hlo hhi

end Sys2Proof.Machine


/-! SUPPORT. Stream arithmetic (R39 to R48, R75): rounding, the played sequence, and the generator that walks it. -/

namespace Sys2Proof.Machine

/-! ### Rounding -/

/-- A quotient rounded up is the one number its exact value admits. -/
theorem ceilDiv_bounds (a : Nat) {b : Nat} (h : 0 < b) : a ≤ ceilDiv a b * b ∧ ceilDiv a b * b < a + b := by
  unfold ceilDiv
  have hmod := Nat.mod_lt (a + b - 1) h
  have hdiv := Nat.div_add_mod (a + b - 1) b
  rw [Nat.mul_comm] at hdiv
  omega

theorem div_bounds (a : Nat) : a / 65536 * 65536 ≤ a ∧ a < (a / 65536 + 1) * 65536 := by omega

/-- Settles O58: the bounds of a quotient rounded up and of one rounded down. -/
theorem timesRoundUpDistancesDown : Obligations.TimesRoundUpDistancesDown := by
  intro c x t hpos hmax
  obtain ⟨hlo, hhi⟩ := ceilDiv_bounds (x.toNat * 65536) hpos
  refine ⟨⟨ceilDiv (x.toNat * 65536) c.rate, rfl, hlo, hhi⟩, fun ht => ?_, fun ht => if_pos ht⟩
  obtain ⟨n, hn⟩ := Int.eq_ofNat_of_zero_le ht.le
  have hsmall : signedDiff t c.origin < 2 ^ 31 := by
    have := BitVec.toInt_lt (x := t - c.origin)
    exact this
  have hfit : c.rate * n / 65536 < 2 ^ 48 := by
    have : c.rate * n ≤ 262144 * 2 ^ 31 := Nat.mul_le_mul hmax (by omega)
    omega
  have hdist : (c.distanceAt t).toNat = c.rate * n / 65536 := by
    rw [Context.distanceAt, if_neg (by omega), hn, Int.toNat_natCast, BitVec.toNat_ofNat,
      Nat.mod_eq_of_lt hfit]
  obtain ⟨hle, hlt⟩ := div_bounds (c.rate * n)
  rw [hdist, hn]
  exact ⟨mod_cast hle, mod_cast hlt⟩

/-! ### The blocks of the sequence -/

section
variable {c : Context} {l : Loop} {k : Nat}

theorem blockFrames_pos (c : Context) : 0 < c.blockFrames := by
  unfold Context.blockFrames
  cases c.zone.format <;> decide

theorem block_start_le (n : Nat) (h : k ≤ n / c.blockFrames) : k * c.blockFrames ≤ n :=
  (Nat.mul_le_mul_right _ h).trans (Nat.div_mul_le_self n _)

theorem block_end_gt (n : Nat) (h : n / c.blockFrames ≤ k) : n < k * c.blockFrames + c.blockFrames := by
  have := Nat.lt_mul_of_div_lt (Nat.lt_succ_of_le h) (blockFrames_pos c)
  rwa [Nat.succ_mul] at this

/-- An element runs from where its block or its part begins to where the block or the part ends. -/
theorem span_lt {lo hi : Nat} (hlo : lo / c.blockFrames ≤ k) (hhi : k ≤ (hi - 1) / c.blockFrames) (h : lo < hi) :
    max (k * c.blockFrames) lo < min ((k + 1) * c.blockFrames) hi := by
  have hend := block_end_gt lo hlo
  have hstart := block_start_le (hi - 1) hhi
  have hpos := blockFrames_pos c
  rw [Nat.succ_mul]
  omega

/-- Inside a part the next element begins where one ends. -/
theorem span_meets {lo hi : Nat} (hlo : lo / c.blockFrames ≤ k) (hhi : k < (hi - 1) / c.blockFrames) :
    min ((k + 1) * c.blockFrames) hi = max ((k + 1) * c.blockFrames) lo := by
  have hend := block_end_gt lo hlo
  have hstart := block_start_le (c := c) (k := k + 1) (hi - 1) hhi
  rw [Nat.succ_mul] at *
  omega

/-- The last element of a part ends where the part ends, the first begins where it begins. -/
theorem span_last {hi : Nat} : min (((hi - 1) / c.blockFrames + 1) * c.blockFrames) hi = hi := by
  have hend := block_end_gt (c := c) (hi - 1) (Nat.le_refl _)
  rw [Nat.succ_mul]
  omega

theorem span_first (lo : Nat) : max (lo / c.blockFrames * c.blockFrames) lo = lo := by
  have := block_start_le (c := c) lo (Nat.le_refl _)
  omega

/-! ### The played sequence -/

theorem span_none (h : c.loop? = none) (part : Part) : c.span part k =
    (k * c.blockFrames - c.start, min ((k + 1) * c.blockFrames) c.zone.length - c.start) := by
  simp only [Context.span, h]

theorem span_firstRun (h : c.loop? = some l) : c.span .first k =
    (k * c.blockFrames - c.start, min ((k + 1) * c.blockFrames) l.stop - c.start) := by
  simp only [Context.span, h]

theorem span_pass (h : c.loop? = some l) (m : Nat) : c.span (.pass m) k =
    (c.passStart l m + (max (k * c.blockFrames) l.first - l.first),
      c.passStart l m + (min ((k + 1) * c.blockFrames) l.stop - l.first)) := by
  simp only [Context.span, h]

theorem span_coda {m : Nat} (h : c.loop? = some l) (hm : c.exitPass = some m) : c.span .coda k =
    (c.passStart l (m + 1) + (max (k * c.blockFrames) l.stop - l.stop),
      c.passStart l (m + 1) + (min ((k + 1) * c.blockFrames) c.zone.length - l.stop)) := by
  simp only [Context.span, h, hm, Option.getD_some]

theorem playedAt_none (h : c.loop? = none) (j : Nat) : c.playedAt j = (.first, c.kFirst + j) := by
  simp only [Context.playedAt, h]

theorem playedAt_firstRun {j : Nat} (h : c.loop? = some l) (hj : j < c.firstCount l) :
    c.playedAt j = (.first, c.kFirst + j) := by
  simp only [Context.playedAt, h, if_pos hj]

theorem passCount_pos (c : Context) (l : Loop) : 0 < c.passCount l := Nat.succ_pos _

theorem firstCount_pos (c : Context) (l : Loop) : 0 < c.firstCount l := Nat.succ_pos _

/-- Element r of pass m + 1. -/
theorem playedAt_pass {m r : Nat} (h : c.loop? = some l) (hr : r < c.passCount l)
    (hm : ∀ x, c.exitPass = some x → m < x) :
    c.playedAt (c.firstCount l + (m * c.passCount l + r)) = (.pass (m + 1), c.kLoopFirst l + r) := by
  have hdiv : (m * c.passCount l + r) / c.passCount l = m := by
    rw [Nat.mul_comm, Nat.mul_add_div (passCount_pos c l), Nat.div_eq_of_lt hr, Nat.add_zero]
  have hmod : (m * c.passCount l + r) % c.passCount l = r := by
    rw [Nat.mul_comm, Nat.mul_add_mod, Nat.mod_eq_of_lt hr]
  simp only [Context.playedAt, h, if_neg (Nat.not_lt.mpr (Nat.le_add_right _ _)), Nat.add_sub_cancel_left, hdiv, hmod]
  cases he : c.exitPass with
  | none => rfl
  | some x =>
    have hpass : m * c.passCount l + c.passCount l ≤ x * c.passCount l := by
      rw [← Nat.succ_mul]
      exact Nat.mul_le_mul_right _ (hm x he)
    exact if_pos (by omega)

theorem playedAt_coda {m : Nat} (h : c.loop? = some l) (hm : c.exitPass = some m) (i : Nat) :
    c.playedAt (c.firstCount l + (m * c.passCount l + i)) = (.coda, l.stop / c.blockFrames + i) := by
  simp only [Context.playedAt, h, hm, if_neg (Nat.not_lt.mpr (Nat.le_add_right _ _)), Nat.add_sub_cancel_left]

theorem kLoopFirst_le (hl : l.first + 256 ≤ l.stop) : c.kLoopFirst l ≤ c.kLoopLast l := Nat.div_le_div_right (by omega)

theorem kFirst_le_kLoopLast (hl : c.start < l.stop) : c.kFirst ≤ c.kLoopLast l := Nat.div_le_div_right (by omega)

theorem passStart_one : c.passStart l 1 = l.stop - c.start := by simp [Context.passStart]

/-- A pass begins where the one before it ends. -/
theorem passStart_succ (m : Nat) : c.passStart l (m + 1 + 1) = c.passStart l (m + 1) + (l.stop - l.first) := by
  simp only [Context.passStart, Nat.add_sub_cancel, Nat.succ_mul, Loop.length]
  omega

/-- What a stream's sequence needs of an active loop (R5, R39). -/
def Context.LoopFits (c : Context) : Prop :=
  ∀ l, c.loop? = some l → c.start < l.stop ∧ l.first + 256 ≤ l.stop ∧ l.stop ≤ c.zone.length

/-- Where the element at played index j begins and ends. -/
def Context.begins (c : Context) (j : Nat) : Nat := (c.span (c.playedAt j).1 (c.playedAt j).2).1
def Context.finishes (c : Context) (j : Nat) : Nat := (c.span (c.playedAt j).1 (c.playedAt j).2).2

/-- The element at played index j ends where the next begins, and is not empty. -/
def Context.Meets (c : Context) (j : Nat) : Prop := c.finishes j = c.begins (j + 1) ∧ c.begins j < c.finishes j

theorem begins_eq {j : Nat} {x : Part × Nat} (h : c.playedAt j = x) : c.begins j = (c.span x.1 x.2).1 := by
  rw [Context.begins, h]

theorem finishes_eq {j : Nat} {x : Part × Nat} (h : c.playedAt j = x) : c.finishes j = (c.span x.1 x.2).2 := by
  rw [Context.finishes, h]

theorem begins_zero (c : Context) : c.begins 0 = 0 := by
  have hzero : c.kFirst * c.blockFrames - c.start = 0 := by
    have := block_start_le (c := c) c.start (Nat.le_refl _)
    exact Nat.sub_eq_zero_of_le this
  cases h : c.loop? with
  | none => simp only [Context.begins, playedAt_none h, span_none h, Nat.add_zero, hzero]
  | some l => simp only [Context.begins, playedAt_firstRun h (firstCount_pos c l), span_firstRun h, Nat.add_zero, hzero]

/-- The first run of a sequence without a loop. -/
theorem meets_none (h : c.loop? = none) (hstart : c.start < c.zone.length) {j : Nat} (hj : c.kFirst + j < c.kEnd) :
    c.Meets j := by
  have hlt := span_lt (c := c) (k := c.kFirst + j) (lo := c.start) (hi := c.zone.length) (Nat.le_add_right _ _) hj.le hstart
  have hmeets := span_meets (c := c) (k := c.kFirst + j) (lo := c.start) (hi := c.zone.length) (Nat.le_add_right _ _) hj
  simp only [Context.Meets, Context.begins, Context.finishes, playedAt_none h, span_none h, ← Nat.add_assoc]
  omega

/-- The element behind the first run and m passes, of the next pass or of the coda, begins where that pass does. -/
theorem begins_pass {m : Nat} (h : c.loop? = some l) (hm : ∀ x, c.exitPass = some x → m ≤ x) :
    c.begins (c.firstCount l + m * c.passCount l) = c.passStart l (m + 1) := by
  by_cases he : c.exitPass = some m
  · have hplayed := playedAt_coda h he 0
    have hfirst := span_first (c := c) l.stop
    rw [Nat.add_zero, Nat.add_zero] at hplayed
    rw [begins_eq hplayed, span_coda h he]
    dsimp only
    rw [hfirst, Nat.sub_self, Nat.add_zero]
  · have hplayed := playedAt_pass (r := 0) h (passCount_pos c l) (fun x hx => lt_of_le_of_ne (hm x hx) fun hmx => he (hmx ▸ hx))
    have hfirst : max (c.kLoopFirst l * c.blockFrames) l.first = l.first := span_first l.first
    rw [Nat.add_zero, Nat.add_zero] at hplayed
    rw [begins_eq hplayed, span_pass h]
    dsimp only
    rw [Nat.add_zero (c.kLoopFirst l), hfirst, Nat.sub_self, Nat.add_zero]

/-- The first run of a sequence with a loop. -/
theorem meets_firstRun (h : c.loop? = some l) (hstart : c.start < l.stop) {j : Nat} (hj : j < c.firstCount l) :
    c.Meets j := by
  have hlast := kFirst_le_kLoopLast hstart
  have hk : c.kFirst + j ≤ c.kLoopLast l := by
    unfold Context.firstCount at hj
    omega
  have hlt := span_lt (c := c) (k := c.kFirst + j) (lo := c.start) (hi := l.stop) (Nat.le_add_right _ _) hk hstart
  have hend : c.finishes j = min ((c.kFirst + j + 1) * c.blockFrames) l.stop - c.start := by
    rw [finishes_eq (playedAt_firstRun h hj), span_firstRun h]
  have hbegin : c.begins j = (c.kFirst + j) * c.blockFrames - c.start := by
    rw [begins_eq (playedAt_firstRun h hj), span_firstRun h]
  refine ⟨?_, by omega⟩
  by_cases hnext : j + 1 < c.firstCount l
  · have hmeets := span_meets (c := c) (k := c.kFirst + j) (lo := c.start) (hi := l.stop) (Nat.le_add_right _ _)
      (show _ < c.kLoopLast l by unfold Context.firstCount at hnext; omega)
    rw [hend, begins_eq (playedAt_firstRun h hnext), span_firstRun h, ← Nat.add_assoc]
    dsimp only
    omega
  · have hj1 : j + 1 = c.firstCount l + 0 * c.passCount l := by omega
    have hkl : c.kFirst + j = c.kLoopLast l := by
      unfold Context.firstCount at hnext
      omega
    rw [hend, hj1, begins_pass h (fun _ _ => Nat.zero_le _), passStart_one, hkl]
    exact congrArg (· - c.start) span_last

/-- A loop pass. -/
theorem meets_pass (h : c.loop? = some l) (hl : l.first + 256 ≤ l.stop) {m r : Nat} (hr : r < c.passCount l)
    (hm : ∀ x, c.exitPass = some x → m < x) : c.Meets (c.firstCount l + (m * c.passCount l + r)) := by
  have hle := kLoopFirst_le (c := c) hl
  have hk : c.kLoopFirst l + r ≤ c.kLoopLast l := by
    unfold Context.passCount at hr
    omega
  have hlo : l.first / c.blockFrames ≤ c.kLoopFirst l + r := Nat.le_add_right _ _
  have hlt := span_lt (c := c) (lo := l.first) (hi := l.stop) hlo hk (by omega)
  have hend : c.finishes (c.firstCount l + (m * c.passCount l + r)) =
      c.passStart l (m + 1) + (min ((c.kLoopFirst l + r + 1) * c.blockFrames) l.stop - l.first) := by
    rw [finishes_eq (playedAt_pass h hr hm), span_pass h]
  have hbegin : c.begins (c.firstCount l + (m * c.passCount l + r)) =
      c.passStart l (m + 1) + (max ((c.kLoopFirst l + r) * c.blockFrames) l.first - l.first) := by
    rw [begins_eq (playedAt_pass h hr hm), span_pass h]
  refine ⟨?_, by omega⟩
  by_cases hnext : r + 1 < c.passCount l
  · have hmeets := span_meets (c := c) (lo := l.first) (hi := l.stop) hlo
      (show _ < c.kLoopLast l by unfold Context.passCount at hnext; omega)
    rw [hend, hmeets, Nat.add_assoc (c.firstCount l), Nat.add_assoc (m * _), begins_eq (playedAt_pass h hnext hm), span_pass h, ← Nat.add_assoc (c.kLoopFirst l)]
  · have hindex : c.firstCount l + (m * c.passCount l + r) + 1 = c.firstCount l + (m + 1) * c.passCount l := by
      rw [Nat.succ_mul]
      omega
    have hkl : c.kLoopFirst l + r = c.kLoopLast l := by
      unfold Context.passCount at hnext
      omega
    have hlast : min ((c.kLoopLast l + 1) * c.blockFrames) l.stop = l.stop := span_last
    rw [hend, hindex, begins_pass h (fun x hx => hm x hx), passStart_succ, hkl, hlast]

/-- The coda. -/
theorem meets_coda {m : Nat} (h : c.loop? = some l) (he : c.exitPass = some m) {i : Nat}
    (hi : l.stop / c.blockFrames + i < c.kEnd) : c.Meets (c.firstCount l + (m * c.passCount l + i)) := by
  have hlo : l.stop / c.blockFrames ≤ l.stop / c.blockFrames + i := Nat.le_add_right _ _
  have hstop : l.stop < c.zone.length := by
    by_contra hge
    have : c.kEnd ≤ l.stop / c.blockFrames := Nat.div_le_div_right (by omega)
    omega
  have hlt := span_lt (c := c) (hi := c.zone.length) hlo hi.le hstop
  have hmeets := span_meets (c := c) (hi := c.zone.length) hlo hi
  have hend : c.finishes (c.firstCount l + (m * c.passCount l + i)) =
      c.passStart l (m + 1) + (min ((l.stop / c.blockFrames + i + 1) * c.blockFrames) c.zone.length - l.stop) := by
    rw [finishes_eq (playedAt_coda h he i), span_coda h he]
  have hbegin : c.begins (c.firstCount l + (m * c.passCount l + i)) =
      c.passStart l (m + 1) + (max ((l.stop / c.blockFrames + i) * c.blockFrames) l.stop - l.stop) := by
    rw [begins_eq (playedAt_coda h he i), span_coda h he]
  refine ⟨?_, by omega⟩
  rw [hend, hmeets, Nat.add_assoc (c.firstCount l), Nat.add_assoc (m * _), begins_eq (playedAt_coda h he (i + 1)),
    span_coda h he, ← Nat.add_assoc (l.stop / _)]

/-- Every element of the sequence but the last. -/
theorem played_meets {j : Nat} (hstart : c.start < c.zone.length) (hfits : c.LoopFits)
    (hnone : c.loop? = none → c.kFirst + j < c.kEnd)
    (hexit : ∀ l m, c.loop? = some l → c.exitPass = some m →
      j + 1 < c.firstCount l + m * c.passCount l
        + (if l.stop = c.zone.length then 0 else c.kEnd - l.stop / c.blockFrames + 1)) : c.Meets j := by
  cases h : c.loop? with
  | none => exact meets_none h hstart (hnone h)
  | some l =>
    obtain ⟨hbegin, hlong, hstop⟩ := hfits l h
    by_cases hj : j < c.firstCount l
    · exact meets_firstRun h hbegin hj
    · obtain ⟨i, rfl⟩ := Nat.exists_eq_add_of_le (Nat.le_of_not_lt hj)
      have hpos := passCount_pos c l
      have hsplit : i / c.passCount l * c.passCount l + i % c.passCount l = i := by
        rw [Nat.mul_comm]
        exact Nat.div_add_mod _ _
      by_cases hpass : ∀ x, c.exitPass = some x → i / c.passCount l < x
      · rw [← hsplit]
        exact meets_pass h hlong (Nat.mod_lt _ hpos) hpass
      · push Not at hpass
        obtain ⟨m, hm, hle⟩ := hpass
        obtain ⟨n, rfl⟩ := Nat.exists_eq_add_of_le ((Nat.mul_le_mul_right _ hle).trans (Nat.div_mul_le_self i (c.passCount l)))
        have hlast := hexit l m h hm
        refine meets_coda h hm ?_
        split at hlast
        · omega
        · have : l.stop / c.blockFrames ≤ c.kEnd := Nat.div_le_div_right (by omega)
          omega

/-! ### The generator -/

variable {g : Generator}

theorem closeAtCut_none (h : c.cutDistance = none) (g : Generator) : c.closeAtCut g = g := by
  simp only [Context.closeAtCut, h]

/-- The generator one element on, in the same part. -/
def Generator.on (g : Generator) : Generator := { g with k := g.k + 1, pos := g.pos + 1, index := g.index + 1 }

theorem advance_none (hc : c.cutDistance = none) (h : c.loop? = none) :
    c.advance g = if g.k < c.kEnd then g.on else { g.on with closed := true } := by
  simp only [Context.advance, closeAtCut_none hc, h, Generator.on]

theorem advance_coda (hc : c.cutDistance = none) (h : c.loop? = some l) (hg : g.part = .coda) :
    c.advance g = if g.k < c.kEnd then g.on else { g.on with closed := true } := by
  simp only [Context.advance, closeAtCut_none hc, h, hg, Generator.on]

/-- The number of loop passes behind which the part ends. -/
def Part.passes : Part → Nat
  | .pass m => m
  | _ => 0

theorem advance_looping (hc : c.cutDistance = none) (h : c.loop? = some l) (hg : g.part ≠ .coda) :
    c.advance g = if g.k < c.kLoopLast l then g.on
      else if c.exitPass = some g.part.passes then c.toCoda l g.on
      else { g.on with part := .pass (g.part.passes + 1), k := c.kLoopFirst l } := by
  cases hp : g.part with
  | first => simp only [Context.advance, closeAtCut_none hc, h, hp, Generator.on, Part.passes, Nat.zero_add]
  | pass m => simp only [Context.advance, closeAtCut_none hc, h, hp, Generator.on, Part.passes]
  | coda => exact absurd hp hg

/-- What one element on is: the next of the sequence, or past its end. -/
structure Context.Walks (c : Context) (g next : Generator) : Prop where
  pos : next.pos = g.pos + 1
  index : next.index = g.index + 1
  stands : next.closed = false → (next.part, next.k) = c.playedAt (g.index + 1)
  closes : next.closed = true ↔ (c.loop? = none ∧ g.k = c.kEnd) ∨ (g.part = .coda ∧ g.k = c.kEnd)
    ∨ ∃ l m, c.loop? = some l ∧ c.exitPass = some m ∧ l.stop = c.zone.length
        ∧ g.index + 1 = c.firstCount l + m * c.passCount l

/-- A sequence without a loop. -/
theorem advance_walks_none (hc : c.cutDistance = none) (hopen : g.closed = false) (h : c.loop? = none)
    (hg : (g.part, g.k) = c.playedAt g.index) (hk : g.k ≤ c.kEnd) : c.Walks g (c.advance g) := by
  rw [playedAt_none h, Prod.mk.injEq] at hg
  obtain ⟨hpart, hat⟩ := hg
  have hcloses : ((c.loop? = none ∧ g.k = c.kEnd) ∨ (g.part = .coda ∧ g.k = c.kEnd)
      ∨ ∃ l m, c.loop? = some l ∧ c.exitPass = some m ∧ l.stop = c.zone.length
        ∧ g.index + 1 = c.firstCount l + m * c.passCount l) ↔ g.k = c.kEnd := by
    simp [h, hpart]
  rw [advance_none hc h]
  by_cases hlt : g.k < c.kEnd
  · rw [if_pos hlt]
    refine ⟨rfl, rfl, fun _ => ?_, ?_⟩
    · rw [playedAt_none h, ← Nat.add_assoc, ← hat, ← hpart]
      rfl
    · rw [hcloses]
      exact iff_of_false (Bool.eq_false_iff.mp hopen) hlt.ne
  · rw [if_neg hlt]
    refine ⟨rfl, rfl, nofun, ?_⟩
    rw [hcloses]
    exact iff_of_true rfl (by omega)

/-- An element that is not the last of its part: the next in the part, and the sequence goes on. -/
theorem walks_on (hopen : g.closed = false) (h : c.loop? = some l) (hnext : c.playedAt (g.index + 1) = (g.part, g.k + 1))
    (hpart : g.part = .coda → g.k ≠ c.kEnd)
    (hend : ∀ m, c.exitPass = some m → l.stop = c.zone.length → g.index + 1 ≠ c.firstCount l + m * c.passCount l) :
    c.Walks g g.on := by
  refine ⟨rfl, rfl, fun _ => hnext.symm, iff_of_false (Bool.eq_false_iff.mp hopen) ?_⟩
  rintro (⟨hnone, -⟩ | ⟨hcoda, hk⟩ | ⟨l', m, hl', hm, hstop, hindex⟩)
  · rw [h] at hnone
    cases hnone
  · exact hpart hcoda hk
  · rw [h] at hl'
    cases hl'
    exact hend m hm hstop hindex

/-- The last element of the first run or of a pass. -/
theorem advance_walks_turn (hc : c.cutDistance = none) (hopen : g.closed = false) (h : c.loop? = some l)
    (hg : g.part ≠ .coda) (hk : g.k = c.kLoopLast l) (hexit : ∀ x, c.exitPass = some x → g.part.passes ≤ x)
    (hindex : g.index + 1 = c.firstCount l + g.part.passes * c.passCount l) : c.Walks g (c.advance g) := by
  have hpos := passCount_pos c l
  rw [advance_looping hc h hg, if_neg (by omega)]
  have hcloses : ((c.loop? = none ∧ g.k = c.kEnd) ∨ (g.part = .coda ∧ g.k = c.kEnd)
      ∨ ∃ l m, c.loop? = some l ∧ c.exitPass = some m ∧ l.stop = c.zone.length
        ∧ g.index + 1 = c.firstCount l + m * c.passCount l) ↔ c.exitPass = some g.part.passes ∧ l.stop = c.zone.length := by
    constructor
    · rintro (⟨hnone, -⟩ | ⟨hcoda, -⟩ | ⟨l', m, hl', hm, hstop, hi⟩)
      · rw [h] at hnone
        cases hnone
      · exact absurd hcoda hg
      · rw [h] at hl'
        cases hl'
        have : g.part.passes * c.passCount l = m * c.passCount l := by omega
        rw [Nat.eq_of_mul_eq_mul_right hpos this]
        exact ⟨hm, hstop⟩
    · rintro ⟨hm, hstop⟩
      exact .inr (.inr ⟨l, _, h, hm, hstop, hindex⟩)
  by_cases he : c.exitPass = some g.part.passes
  · rw [if_pos he, Context.toCoda]
    by_cases hstop : l.stop = c.zone.length
    · rw [if_pos hstop]
      exact ⟨rfl, rfl, nofun, by rw [hcloses]; exact iff_of_true rfl ⟨he, hstop⟩⟩
    · rw [if_neg hstop]
      refine ⟨rfl, rfl, fun _ => ?_, by rw [hcloses]; exact iff_of_false (Bool.eq_false_iff.mp hopen) fun hh => hstop hh.2⟩
      have hnext := playedAt_coda h he 0
      rw [Nat.add_zero, Nat.add_zero, ← hindex] at hnext
      exact hnext.symm
  · rw [if_neg he]
    refine ⟨rfl, rfl, fun _ => ?_, by rw [hcloses]; exact iff_of_false (Bool.eq_false_iff.mp hopen) fun hh => he hh.1⟩
    have hnext := playedAt_pass (r := 0) h hpos fun x hx => lt_of_le_of_ne (hexit x hx) fun hmx => he (hmx ▸ hx)
    rw [Nat.add_zero, Nat.add_zero, ← hindex] at hnext
    exact hnext.symm

/-- A sequence with a loop. -/
theorem advance_walks_looping (hc : c.cutDistance = none) (hopen : g.closed = false) (h : c.loop? = some l)
    (hfits : c.LoopFits) (hg : (g.part, g.k) = c.playedAt g.index) (hk : g.part = .coda → g.k ≤ c.kEnd) :
    c.Walks g (c.advance g) := by
  obtain ⟨hbegin, hlong, -⟩ := hfits l h
  have hpos := passCount_pos c l
  by_cases hj : g.index < c.firstCount l
  · rw [playedAt_firstRun h hj, Prod.mk.injEq] at hg
    obtain ⟨hpart, hat⟩ := hg
    have hcount : c.firstCount l = c.kLoopLast l - c.kFirst + 1 := rfl
    have hle := kFirst_le_kLoopLast (c := c) hbegin
    have hne : g.part ≠ .coda := by rw [hpart]; nofun
    by_cases hlt : g.k < c.kLoopLast l
    · rw [advance_looping hc h hne, if_pos hlt]
      refine walks_on hopen h ?_ (fun hcoda => absurd hcoda hne) fun m _ _ => by omega
      rw [playedAt_firstRun h (by omega), hpart, hat, Nat.add_assoc]
    · have hzero : g.part.passes = 0 := by rw [hpart]; rfl
      refine advance_walks_turn hc hopen h hne (by omega) (fun x _ => by omega) ?_
      rw [hzero]
      omega
  · obtain ⟨i, hi⟩ := Nat.exists_eq_add_of_le (Nat.le_of_not_lt hj)
    have hsplit : i / c.passCount l * c.passCount l + i % c.passCount l = i := by
      rw [Nat.mul_comm]
      exact Nat.div_add_mod _ _
    by_cases hpass : ∀ x, c.exitPass = some x → i / c.passCount l < x
    · have hr := Nat.mod_lt i hpos
      generalize i / c.passCount l = m at hsplit hpass
      generalize i % c.passCount l = r at hsplit hr
      rw [← hsplit] at hi
      rw [hi, playedAt_pass h hr hpass, Prod.mk.injEq] at hg
      obtain ⟨hpart, hat⟩ := hg
      have hcount : c.passCount l = c.kLoopLast l - c.kLoopFirst l + 1 := rfl
      have hle := kLoopFirst_le (c := c) hlong
      have hne : g.part ≠ .coda := by rw [hpart]; nofun
      by_cases hlt : g.k < c.kLoopLast l
      · rw [advance_looping hc h hne, if_pos hlt]
        refine walks_on hopen h ?_ (fun hcoda => absurd hcoda hne) fun x hx _ => ?_
        · rw [hi, Nat.add_assoc, Nat.add_assoc, playedAt_pass h (by omega) hpass, hpart, hat, Nat.add_assoc]
        · have hmore : m * c.passCount l + c.passCount l ≤ x * c.passCount l := by
            rw [← Nat.succ_mul]
            exact Nat.mul_le_mul_right _ (hpass x hx)
          omega
      · have hpasses : g.part.passes = m + 1 := by rw [hpart]; rfl
        refine advance_walks_turn hc hopen h hne (by omega) (fun x hx => ?_) ?_
        · rw [hpasses]
          exact hpass x hx
        · rw [hpasses, Nat.succ_mul]
          omega
    · push Not at hpass
      obtain ⟨m, hm, hle⟩ := hpass
      obtain ⟨n, rfl⟩ := Nat.exists_eq_add_of_le ((Nat.mul_le_mul_right _ hle).trans (Nat.div_mul_le_self i (c.passCount l)))
      rw [hi, playedAt_coda h hm, Prod.mk.injEq] at hg
      obtain ⟨hpart, hat⟩ := hg
      have hend := hk hpart
      rw [advance_coda hc h hpart]
      by_cases hlt : g.k < c.kEnd
      · rw [if_pos hlt]
        refine walks_on hopen h ?_ (fun _ => hlt.ne) fun x hx _ => ?_
        · rw [hi, Nat.add_assoc, Nat.add_assoc, playedAt_coda h hm, hpart, hat, Nat.add_assoc]
        · rw [hm] at hx
          cases hx
          omega
      · rw [if_neg hlt]
        exact ⟨rfl, rfl, nofun, iff_of_true rfl (.inr (.inl ⟨hpart, by omega⟩))⟩

end

/-- Settles O59: the elements meet, and the generator walks them. -/
theorem sequenceAndGenerator : Obligations.SequenceAndGenerator := by
  refine ⟨fun c j hstart hfits hnone hexit => ?_, fun c g hc hstart hopen hfits hg hnone hcoda => ?_⟩
  · obtain ⟨hmeets, hlt⟩ := played_meets hstart hfits hnone hexit
    exact ⟨begins_zero c, hmeets, hlt⟩
  · cases h : c.loop? with
    | none =>
      obtain ⟨hpos, hindex, hstands, hcloses⟩ := advance_walks_none hc hopen h hg (hnone h)
      exact ⟨hpos, hindex, hstands, h ▸ hcloses⟩
    | some l =>
      obtain ⟨hpos, hindex, hstands, hcloses⟩ := advance_walks_looping hc hopen h hfits hg hcoda
      exact ⟨hpos, hindex, hstands, h ▸ hcloses⟩

end Sys2Proof.Machine


/-! SUPPORT. The bus-stuck watch and the CLEAR line (R158, R159, R170). -/

namespace Sys2Proof.Machine

/-! ### The watch at the end of a command -/

/-- A watch that runs, or an episode, stands while there is something to send; one found idle starts from 0. -/
theorem finish_watch_of {u : State} (hs : u.somethingToSend = true) (hc : u.cleared = false) :
    u.finish.bus.watch = match u.bus.watch with | .idle => .running u.now | w => w := by
  have hwatch : u.startInFree.bus.watch = u.bus.watch := by
    rcases startInFree_cases u with h | ⟨-, -, -, h⟩ <;> rw [h]
    rfl
  have hnow : u.startInFree.now = u.now := by
    rcases startInFree_cases u with h | ⟨-, -, -, h⟩ <;> rw [h]
    rfl
  show (if u.startInFree.somethingToSend && !u.startInFree.cleared then
    (match u.startInFree.bus.watch with | .idle => .running u.startInFree.now | w => w) else StuckWatch.idle) = _
  rw [startInFree_somethingToSend, startInFree_cleared, hs, hc, hwatch, hnow]
  rfl

/-- Something stands in a queue of the bus port, and no CLEAR has counted. -/
def State.HasWork (s : State) : Prop :=
  (s.bus.offers ≠ [] ∨ s.bus.notices ≠ [] ∨ s.bus.requests ≠ 0) ∧ s.cleared = false

theorem finish_watch_of_hasWork {u : State} (h : u.HasWork) :
    u.finish.bus.watch = match u.bus.watch with | .idle => .running u.now | w => w := by
  obtain ⟨hq, hc⟩ := h
  refine finish_watch_of (somethingToSend_iff u |>.mpr ?_) hc
  rcases hq with h | h | h
  · exact .inl h
  · exact .inr (.inl h)
  · exact .inr (.inr (.inl h))

/-- A change of the bus port that takes nothing out of its queues and leaves the watch and the CLEAR line alone. -/
structure KeepsWork (s t : State) : Prop where
  clock : t.now = s.now
  clear : t.bus.clear = s.bus.clear
  watch : t.bus.watch = s.bus.watch
  offers : t.bus.offers = s.bus.offers
  notices : s.bus.notices ≠ [] → t.bus.notices ≠ []
  requests : s.bus.requests ≠ 0 → t.bus.requests ≠ 0

theorem KeepsWork.hasWork {s t : State} (h : KeepsWork s t) (hs : s.HasWork) : t.HasWork := by
  obtain ⟨hq, hc⟩ := hs
  refine ⟨?_, ?_⟩
  · rw [h.offers]
    exact hq.imp_right fun hq => hq.imp h.notices h.requests
  · rw [State.cleared, h.clear]
    exact hc

theorem KeepsWork.of_eq {s t : State} (hc : t.clock = s.clock)
    (hb : t.bus = { s.bus with state := t.bus.state, startBit := t.bus.startBit, tenure := t.bus.tenure, txFrame := t.bus.txFrame,
                               contestWord := t.bus.contestWord, receiveBuffer := t.bus.receiveBuffer, counts := t.bus.counts }) :
    KeepsWork s t := by
  have hnow : t.now = s.now := by rw [State.now, hc]; rfl
  refine ⟨hnow, ?_, ?_, ?_, fun h => ?_, fun h => ?_⟩
  · rw [hb]
  · rw [hb]
  · rw [hb]
  · rw [hb]; exact h
  · rw [hb]; exact h

theorem KeepsWork.trans {s t u : State} (h : KeepsWork s t) (h' : KeepsWork t u) : KeepsWork s u :=
  ⟨h'.clock.trans h.clock, h'.clear.trans h.clear, h'.watch.trans h.watch, h'.offers.trans h.offers,
    h'.notices ∘ h.notices, h'.requests ∘ h.requests⟩

/-- A command that ends at a frame boundary, or goes on from one, leaves the watch running from this moment. -/
theorem boundary_leaves {dt : Micros} {body : State → State} {s u : State} (hw : s.HasWork) (hu : KeepsWork (s.elapse dt) u)
    (h : KeepsWork u.boundary (body (s.elapse dt))) :
    ∃ t, s.command dt body = .next t ∧ t.bus.watch = .running (s.clock.localTime + dt) := by
  have hub : u.boundary.HasWork := (hu.hasWork hw : u.HasWork)
  have hnow : (body (s.elapse dt)).now = s.clock.localTime + dt := h.clock.trans hu.clock
  have hnow' : u.now = s.clock.localTime + dt := hu.clock
  refine ⟨_, rfl, ?_⟩
  rw [finish_watch_of_hasWork (h.hasWork hub), h.watch, hnow]
  show (match (match u.bus.watch with | .idle => StuckWatch.idle | _ => .running u.now) with
    | .idle => StuckWatch.running (s.clock.localTime + dt) | w => w) = _
  cases u.bus.watch with
  | idle => rfl
  | running since => rw [← hnow']
  | episode => rw [← hnow']

theorem KeepsWork.refl (s : State) : KeepsWork s s := .of_eq rfl rfl

/-! ### Frames -/

theorem takePause_keepsWork (s : State) : KeepsWork s s.takePause := by
  unfold State.takePause
  cases s.clock.state <;> exact ⟨rfl, rfl, rfl, rfl, id, id⟩

theorem transport_keepsWork {taken : State → State} (h : ∀ s, KeepsWork s (taken s)) (src : Station) (s : State) :
    KeepsWork s (s.transport src taken) := by
  unfold State.transport
  split
  · split
    · exact h s
    · exact ⟨rfl, rfl, rfl, rfl, id, id⟩
  · exact .refl s

theorem or_ne_zero {n : Nat} {x : BitVec n} (y : BitVec n) (h : x ≠ 0) : x ||| y ≠ 0 := by
  intro h0
  exact h (BitVec.or_eq_zero_iff.mp h0).1

theorem takeQuery_keepsWork (src : Station) (s : State) : KeepsWork s (s.takeQuery src).1 :=
  ⟨rfl, rfl, rfl, rfl, id, or_ne_zero _⟩

/-- The decision on an addressed frame takes nothing out of the queues. -/
theorem takeAddressed_keepsWork (bytes : List Byte) (s : State) : KeepsWork s (s.takeAddressed bytes).1 := by
  have refused : KeepsWork s s.refuseKind.1 := .of_eq rfl rfl
  unfold State.takeAddressed
  split
  · split
    · exact takeQuery_keepsWork _ s
    · unfold State.takeServiceEnter
      split
      · exact .of_eq rfl rfl
      · split <;> exact .of_eq rfl rfl
    · unfold State.takeServiceExit
      split <;> exact .of_eq rfl rfl
    · unfold State.takeStore
      split
      · exact .of_eq rfl rfl
      · split <;> exact .of_eq rfl rfl
    · exact refused
    · exact refused
    · exact refused
    · exact refused
    · exact refused
    all_goals exact .refl s
  · exact .refl s

theorem judge_keepsWork {owner : State → State × Bool} (h : ∀ s, KeepsWork s (owner s).1) (s : State) :
    KeepsWork s (s.judge owner).1 := by
  unfold State.judge
  split
  · exact .refl s
  · split
    · exact .of_eq rfl rfl
    · exact h s

/-! ### The rows that restart the watch -/

section
variable {dt : Micros} {s : State}

theorem broadcastFrame_leaves {bytes : List Byte} {src : Station} {owner : State → State} (hw : s.HasWork)
    (hl : s.listening = true) (h : ∀ s, KeepsWork s (owner s)) :
    ∃ t, s.command dt (State.broadcastFrame bytes src owner) = .next t ∧ t.bus.watch = .running (s.clock.localTime + dt) := by
  refine boundary_leaves (u := ((s.elapse dt).received bytes).enterBus .gap) hw (.of_eq rfl rfl) ?_
  rw [State.broadcastFrame, if_pos (show (s.elapse dt).listening = true from hl)]
  dsimp only
  split
  · exact .refl _
  · split
    · exact h _
    · exact .of_eq rfl rfl

theorem addressedFrame_leaves {bytes : List Byte} {owner : State → State × Bool} (hw : s.HasWork)
    (hl : s.listening = true) (h : ∀ s, KeepsWork s (owner s).1) :
    ∃ t, s.command dt (State.addressedFrame bytes owner) = .next t ∧ t.bus.watch = .running (s.clock.localTime + dt) := by
  refine boundary_leaves (u := (s.elapse dt).received bytes) hw (.of_eq rfl rfl) ?_
  rw [State.addressedFrame, if_pos (show (s.elapse dt).listening = true from hl)]
  dsimp only
  split
  · exact (judge_keepsWork h _).trans (.of_eq rfl rfl)
  · exact .of_eq rfl rfl

theorem receivedAtSlotEnd_keepsWork (frame : Option (List Byte)) (s : State) : KeepsWork s (s.receivedAtSlotEnd frame) := by
  unfold State.receivedAtSlotEnd
  split
  · rename_i bytes _
    have hreceived : KeepsWork s (s.received bytes) := .of_eq rfl rfl
    dsimp only
    split
    · exact hreceived.trans (judge_keepsWork (takeAddressed_keepsWork bytes) _)
    · exact hreceived
  · exact .refl s

theorem formWord_keepsWork (s : State) : KeepsWork s s.formWord := by
  have hstale : KeepsWork s s.staleTestAll := by
    obtain ⟨-, hclock, -, -, -, -, -, l, hb⟩ := Moves.frame (Moves.staleTestAll (.refl : Moves true s s))
    refine ⟨by rw [State.now, hclock]; rfl, by rw [hb], by rw [hb], by rw [hb], fun hn => ?_, fun hr => by rw [hb]; exact hr⟩
    rw [hb]
    exact fun h => hn (List.append_eq_nil_iff.mp h).1
  have hpresent : ∀ (p : OwnItem × WireFrame) (t : State), KeepsWork t (t.present p) := by
    rintro ⟨item, frame⟩ t
    cases item <;> exact .of_eq rfl rfl
  unfold State.formWord
  dsimp only
  split
  · exact hstale.trans (hpresent _ _)
  · exact hstale

theorem contestStart_leaves (hw : s.HasWork) (h : s.contestOpens = true) :
    ∃ t, exec (.contestStart dt) s = .next t ∧ t.bus.watch = .running (s.clock.localTime + dt) := by
  show ∃ t, s.command dt _ = .next t ∧ _
  refine boundary_leaves (u := (s.elapse dt).enterBus .busy) hw (.of_eq rfl rfl) ?_
  rw [if_pos (show (s.elapse dt).contestOpens = true from h)]
  dsimp only
  split
  · have hdiscard : ∀ u : State, KeepsWork u u.discardFrame := fun u => .of_eq rfl rfl
    exact (hdiscard _).trans (formWord_keepsWork _)
  · exact .of_eq rfl rfl

theorem ackSlotEnd_leaves {frame : Option (List Byte)} (hw : s.HasWork) (hl : s.listening = true) (hg : s.bus.state ≠ .gap)
    (hf : s.bus.state ≠ .free) (hd : s.bus.state ≠ .busyDominant) :
    ∃ t, exec (.ackSlotEnd ⟨dt, frame⟩) s = .next t ∧ t.bus.watch = .running (s.clock.localTime + dt) := by
  show ∃ t, s.command dt _ = .next t ∧ _
  refine boundary_leaves (u := ((s.elapse dt).receivedAtSlotEnd frame).enterBus .gap) hw
    ((receivedAtSlotEnd_keepsWork frame _).trans (.of_eq rfl rfl)) ?_
  rw [if_pos (show (s.elapse dt).listening = true ∧ (s.elapse dt).bus.state ≠ .gap ∧ (s.elapse dt).bus.state ≠ .free
    ∧ (s.elapse dt).bus.state ≠ .busyDominant from ⟨hl, hg, hf, hd⟩)]
  exact .refl _

theorem checkFailure_leaves {form : Delimiter} (hw : s.HasWork) (hl : s.listening = true) :
    ∃ t, exec (.checkFailure dt form) s = .next t ∧ t.bus.watch = .running (s.clock.localTime + dt) := by
  show ∃ t, s.command dt _ = .next t ∧ _
  refine boundary_leaves (u := ((((s.elapse dt).countBus fun k =>
    { k with checkFailures := inc k.checkFailures }).wipeViews).discardFrame).enterBus (afterDelimiter form)) hw (.of_eq rfl rfl) ?_
  rw [if_pos (show (s.elapse dt).listening = true from hl)]
  exact .refl _

theorem malformed_leaves {form : Delimiter} (hw : s.HasWork) (hl : s.listening = true) :
    ∃ t, exec (.malformed dt form) s = .next t ∧ t.bus.watch = .running (s.clock.localTime + dt) := by
  show ∃ t, s.command dt _ = .next t ∧ _
  refine boundary_leaves (u := (((s.elapse dt).countBus fun k =>
    { k with malformed := inc k.malformed }).discardFrame).enterBus (afterDelimiter form)) hw (.of_eq rfl rfl) ?_
  rw [if_pos (show (s.elapse dt).listening = true from hl)]
  exact .refl _

theorem storedSent_leaves {reading : Reading} {frame : WireFrame} (hw : s.HasWork)
    (h : s.bus.tenure = some { item := .stored, frame := frame, sent := true }) :
    ∃ t, exec (.storedSent dt reading) s = .next t ∧ t.bus.watch = .running (s.clock.localTime + dt) := by
  show ∃ t, execStoredSent dt reading s = .next t ∧ _
  unfold execStoredSent
  refine boundary_leaves (u := (s.elapse dt).enterBus .gap) hw (.of_eq rfl rfl) ?_
  rw [show (s.elapse dt).bus.tenure = _ from h]
  cases reading <;> exact .of_eq rfl rfl

/-- A broken frame restarts a running watch and ends no episode. -/
theorem brokenFrame_leaves {dominant : Bool} (hw : s.HasWork) (hl : s.listening = true) :
    ∃ t, exec (.brokenFrame dt dominant) s = .next t ∧ t.bus.watch = (if s.bus.watch = .episode then .episode
      else .running (s.clock.localTime + dt)) := by
  refine ⟨_, rfl, ?_⟩
  dsimp only
  rw [if_pos (show (s.elapse dt).listening = true from hl)]
  have hwork : ((((((s.elapse dt).countBus fun k =>
      { k with broken := inc k.broken, checkFailures := inc k.checkFailures }).wipeViews).discardFrame).enterBus
      (if dominant then .busyDominant else .gap)).brokenBoundary).HasWork := hw
  refine (finish_watch_of_hasWork hwork).trans ?_
  show (match (match s.bus.watch with | .running _ => StuckWatch.running (s.clock.localTime + dt) | w => w) with
    | .idle => StuckWatch.running (s.clock.localTime + dt) | w => w) = _
  cases s.bus.watch <;> rfl

end

/-! ### The rows that leave the watch alone -/

/-- No act starts an idle watch. -/
theorem Act.watchIdle {S : Special → Prop} {s t : State} (h : Act S s t) (hs : s.bus.watch = .idle) : t.bus.watch = .idle := by
  cases h with
  | inner h => obtain ⟨-, -, -, -, -, -, -, l, hbus⟩ := h.frame; rw [hbus]; exact hs
  | bus f _ h => exact h.watch.trans hs
  | watch f _ _ h => exact h hs
  | probed => rcases probeFinished_cases s with h | ⟨p, h⟩ <;> rw [h] <;> exact hs
  | clear => rcases clearAll_cases s with ⟨-, h⟩ | ⟨-, h⟩ <;> rw [h] <;> exact hs
  | _ => exact hs

theorem Act.watchSame {S : Special → Prop} (hS : ¬ S .watch) {s t : State} (h : Act S s t) : t.bus.watch = s.bus.watch := by
  cases h with
  | inner h =>
    obtain ⟨-, -, -, -, -, -, -, l, hbus⟩ := h.frame
    rw [hbus]
  | bus f _ h => exact h.watch
  | watch f _ h => exact absurd h hS
  | probed => rcases probeFinished_cases s with h | ⟨p, h⟩ <;> simp [h]
  | clear => rcases clearAll_cases s with ⟨-, h⟩ | ⟨-, h⟩ <;> rw [h] <;> rfl
  | _ => rfl

theorem Acts.watchIdle {S : Special → Prop} {s t : State} (h : Acts S s t) : s.bus.watch = .idle → t.bus.watch = .idle :=
  h.lift (P := fun s t => s.bus.watch = .idle → t.bus.watch = .idle) (fun _ => id) (fun h h' => h' ∘ h) Act.watchIdle

theorem Acts.watchSame {S : Special → Prop} (hS : ¬ S .watch) {s t : State} (h : Acts S s t) : t.bus.watch = s.bus.watch :=
  h.lift (P := fun s t => t.bus.watch = s.bus.watch) (fun _ => rfl) (fun h h' => h'.trans h) (Act.watchSame hS)

/-- The rows with acts on the watch, but for a frame boundary. -/
theorem watch_specials {c : Instr} (h : Special.watch ∈ c.specials) : c.isBoundary = true ∨ (∃ dt, c = .busStuck dt)
    ∨ ∃ dt, c = .busSync dt .recessive := by
  cases c with
  | busStuck dt => exact .inr (.inl ⟨dt, rfl⟩)
  | busSync dt cause =>
    cases cause with
    | delimiter form => exact .inl rfl
    | recessive => exact .inr (.inr ⟨dt, rfl⟩)
  | _ => simp [Instr.isBoundary] at h ⊢

theorem command_next {dt : Micros} {body : State → State} {s t : State} (h : s.command dt body = .next t) :
    t = (body (s.elapse dt)).finish := by
  rw [command_eq] at h
  cases h
  rfl

/-- The state from which a row that is no frame boundary goes on has the watch as it was. -/
theorem watch_kept {c : Instr} {s t : State} (h : exec c s = .next t) (hc : ∀ straps, c ≠ .powerOn straps)
    (hb : c.isBoundary = false) (hstuck : ∀ dt since, c = .busStuck dt → s.bus.watch = .running since →
      signedDiff (s.clock.localTime + dt) since < 10000) : ∃ u : State, t = u.finish ∧ u.bus.watch = s.bus.watch := by
  by_cases hS : Special.watch ∈ c.specials
  · rcases watch_specials hS with h' | ⟨dt, rfl⟩ | ⟨dt, rfl⟩
    · rw [hb] at h'
      cases h'
    · have h' : execBusStuck dt s = .next t := h
      unfold execBusStuck at h'
      refine ⟨_, command_next h', ?_⟩
      split
      · rename_i since hw
        rw [if_neg]
        · rfl
        · exact fun hh => absurd ((ran_iff (s.elapse dt) since Config.busStuck).mp hh) (not_le.mpr (hstuck dt since rfl hw))
      · rfl
      · rfl
    · have h' : execBusSync dt .recessive s = .next t := h
      unfold execBusSync at h'
      refine ⟨_, command_next h', ?_⟩
      split
      · rfl
      · rfl
  · obtain ⟨u, hu, rfl⟩ := exec_acts h hc
    exact ⟨u, rfl, hu.watchSame fun hmay => hmay.elim hS nofun⟩

/-- The watch has run 10,000 µs. -/
theorem busStuck_counts {dt : Micros} {since : Time} {s : State} (hw : s.bus.watch = .running since)
    (hran : 10000 ≤ signedDiff (s.clock.localTime + dt) since) (hs : s.somethingToSend = true) (hc : s.cleared = false) :
    ∃ t, exec (.busStuck dt) s = .next t ∧ t.bus.watch = .episode
      ∧ Settles { s.later dt with bus := { s.bus with counts := { s.bus.counts with busStuck := inc s.bus.counts.busStuck } } } t := by
  have hbody : exec (.busStuck dt) s = .next (((s.elapse dt).countBus fun k => { k with busStuck := inc k.busStuck }).onBus
      fun b => { b with watch := .episode }).finish := by
    show execBusStuck dt s = _
    unfold execBusStuck
    rw [command_eq, show (s.elapse dt).bus.watch = _ from hw]
    dsimp only
    rw [if_pos ((ran_iff (s.elapse dt) since Config.busStuck).mpr hran)]
  refine ⟨_, hbody, ?_, (finish_settles _).of_plain rfl⟩
  exact finish_watch_of (u := ((s.elapse dt).countBus fun k => { k with busStuck := inc k.busStuck }).onBus
    fun b => { b with watch := .episode }) hs hc

/-- Settles O56: the rows of the watch one by one, the rest by their acts, and the rows of the CLEAR line. -/
theorem busPortTimers : Obligations.BusPortTimers := by
  refine ⟨fun dt since s hw hran hs hc => busStuck_counts hw hran hs hc, ?_,
    fun c s t h hp hs hc => ⟨fun hw => ?_, fun hw hb hstuck => ?_⟩, fun dt s => ⟨fun h => ?_, fun since h hran => ?_⟩⟩
  · intro dt src form dominant bytes frame reading wire s hq hc leaves now
    have hwork : s.HasWork := ⟨hq, hc⟩
    refine ⟨contestStart_leaves hwork, fun hl => ⟨checkFailure_leaves hwork hl, malformed_leaves hwork hl,
      broadcastFrame_leaves hwork hl (transport_keepsWork takePause_keepsWork src),
      addressedFrame_leaves hwork hl (takeQuery_keepsWork src), ackSlotEnd_leaves hwork hl, fun hw => ?_, fun hw => ?_⟩,
      storedSent_leaves hwork⟩
    · have hbroken := brokenFrame_leaves (dt := dt) (dominant := dominant) hwork hl
      rwa [if_neg hw] at hbroken
    · have hbroken := brokenFrame_leaves (dt := dt) (dominant := dominant) hwork hl
      rwa [if_pos hw] at hbroken
  · obtain ⟨u, hu, rfl⟩ := exec_acts h hp
    rw [finish_somethingToSend] at hs
    rw [finish_cleared] at hc
    rw [finish_watch_of hs hc, hu.watchIdle hw, finish_clock]
    rfl
  · obtain ⟨u, rfl, hu⟩ := watch_kept h hp hb hstuck
    rw [finish_somethingToSend] at hs
    rw [finish_cleared] at hc
    rw [finish_watch_of hs hc, hu]
    split
    · rename_i hidle
      exact absurd hidle hw
    · rfl
  · show Result.Gives (execClearAsserted dt s) _
    unfold execClearAsserted
    refine command_gives_of_plain ?_
    rw [show (s.elapse dt).bus.clear = _ from h]
    rfl
  · show Result.Gives (execShortClear dt s) _
    unfold execShortClear
    refine command_gives_of_plain ?_
    rw [show (s.elapse dt).bus.clear = _ from h]
    dsimp only
    rw [if_neg fun hh => absurd ((ran_iff (s.elapse dt) since Config.clearWidth).mp hh) (not_le.mpr hran)]
    rfl

end Sys2Proof.Machine


/-! SUPPORT. A counted CLEAR (R18, R34, R71, R94, R113, R127 to R129, R136, R158, R170). -/

namespace Sys2Proof.Machine

/-- The slots that pass a test, by their numbers. -/
theorem slotsWhere_val {c : Cache} (h : ∀ p ∈ c.slots, p.1 < Config.slots) (test : Slot → Bool) :
    (c.slotsWhere test).map Fin.val = (c.slots.filter fun p => test p.2).map Prod.fst := by
  rw [Cache.slotsWhere]
  generalize c.slots = slots at h
  induction slots with
  | nil => rfl
  | cons p rest ih =>
    obtain ⟨hp, hrest⟩ := List.forall_mem_cons.mp h
    have hp' : p.1 < 262144 := hp
    rw [List.filterMap_cons, List.filter_cons, dif_pos hp']
    cases htest : test p.2 with
    | true => simp [ih hrest]
    | false => simp [ih hrest]

section
variable {dt : Micros} {since : Time} {s e : State}

theorem clearCounts_eq (h : s.bus.clear = .asserted since) (hran : 100 ≤ signedDiff (s.clock.localTime + dt) since) :
    exec (.clearCounts dt) s = .next (s.elapse dt).clearAll.finish := by
  show execClearCounts dt s = _
  unfold execClearCounts
  rw [command_eq, show (s.elapse dt).bus.clear = _ from h]
  dsimp only
  rw [if_pos ((ran_iff (s.elapse dt) since Config.clearWidth).mpr hran)]

theorem clearRelease_gives (h : s.bus.clear = .counted) (he : ((s.elapse dt).releaseClear).plain = e.plain) :
    Result.Gives (exec (.clearRelease dt) s) e := by
  show Result.Gives (execClearRelease dt s) _
  unfold execClearRelease
  refine command_gives_of_plain ?_
  rw [show (s.elapse dt).bus.clear = _ from h]
  exact he

end

theorem releaseClear_probes {s : State} (hu : s.status.phase ≠ .unconfigured) (hc : s.status.phase ≠ .configLoad) :
    s.releaseClear =
      ((s.onBus fun b => { b with clear := .released }).onClock fun c => { c with pairingOpen := false }).probeAll := by
  rw [State.releaseClear]
  cases hp : s.status.phase with
  | unconfigured => exact absurd hp hu
  | configLoad => exact absurd hp hc
  | probe => rfl
  | directoryLoad => rfl
  | serving => rfl
  | service => rfl

/-- A counted CLEAR in a phase that has blocks to clear. -/
theorem clearAll_reaches {dt : Micros} {since : Time} {s : State} (h : s.bus.clear = .asserted since)
    (hran : 100 ≤ signedDiff (s.clock.localTime + dt) since) (htable : s.TableLaw) (hp : s.status.phase ≠ .unconfigured) :
    ∃ t, exec (.clearCounts dt) s = .next t
      ∧ Settles
        { status := { s.status with phase := s.status.phase.clearCounts }
          bus := s.bus.clearCounts
          clock := (s.clock.later dt).clearCounts
          dir := s.dir.clearCounts s.status.phase
          cue := { s.cue with demandSum := 0 }
          streams := { s.streams with contexts := [] }
          cache := { s.cache.clearCounts with freeTail := t.cache.freeTail, reclaim := t.cache.reclaim }
          fetch := { s.fetch with channels := s.fetch.channels.map Channel.clearCounts }
          delivery := { s.delivery with views := s.delivery.views.map fun v => (v.1, 0) }
          pending := s.pending } t
      ∧ t.cache.freeTail.map Fin.val = s.cache.freeTail.map Fin.val
          ++ (s.cache.slots.filter fun p => p.2.state != .valid).map Prod.fst
      ∧ t.cache.reclaim.map Fin.val = s.cache.reclaim.map Fin.val
          ++ (s.cache.slots.filter fun p => p.2.state == .valid && p.2.refs != 0).map Prod.fst := by
  obtain ⟨-, -, -, hslots⟩ := htable
  have hall := (clearAll_cases (s.elapse dt)).resolve_left fun hh => hp hh.1
  have hcache : (s.elapse dt).clearAll.cache = s.cache.clearCounts := by
    rw [hall.2]
    rfl
  refine ⟨_, clearCounts_eq h hran, ?_, ?_, ?_⟩
  · rw [finish_cache, hcache]
    refine (finish_settles _).of_plain ?_
    rw [hall.2]
    rfl
  · rw [finish_cache, hcache, Cache.clearCounts, List.map_append, slotsWhere_val hslots]
  · rw [finish_cache, hcache, Cache.clearCounts, List.map_append, slotsWhere_val hslots]

/-- Settles O57: what a CLEAR does in each phase, and its release. -/
theorem clearReachesEveryBlock : Obligations.ClearReachesEveryBlock := by
  refine ⟨?_, ?_⟩
  · intro dt since s h hran htable bus numbers inSlots
    have reaches := fun hp => clearAll_reaches h hran htable hp
    refine ⟨fun hp => ?_, fun hp => ?_, fun hp => ?_, fun hp => ?_⟩
    · have := reaches (by rw [hp]; nofun)
      rw [hp] at this
      exact this
    · rcases hp with hp | hp
      · have := reaches (by rw [hp]; nofun)
        rw [hp] at this
        exact this
      · have := reaches (by rw [hp]; nofun)
        rw [hp] at this
        exact this
    · rcases hp with hp | hp
      · have := reaches (by rw [hp]; nofun)
        rw [hp] at this
        show inSlots s.dir s.status.phase
        rw [hp]
        exact this
      · have := reaches (by rw [hp]; nofun)
        rw [hp] at this
        show inSlots s.dir s.status.phase
        rw [hp]
        exact this
    · have hall := (clearAll_cases (s.elapse dt)).resolve_right fun hh => hh.1 hp
      refine ⟨_, clearCounts_eq h hran, (finish_settles _).of_plain ?_⟩
      rw [hall.2]
      rfl
  · intro dt s h released
    refine ⟨fun hu hc => ?_, fun hp => ?_, fun hp => ?_⟩
    · refine clearRelease_gives h ?_
      rw [releaseClear_probes (s := s.elapse dt) hu hc, probeAll_eq]
      have hprobed : Channel.probed (s.clock.localTime + dt) false = fun ch : Channel => if ch.op.isNone then
          { ch with offline := false, probePending := false, timeouts := 0, pageCount := none
                    op := some { kind := .probe 1, issued := s.clock.localTime + dt } }
          else { ch with probePending := true } := by
        funext ch
        rw [Channel.probed, Bool.not_false, Bool.and_true]
      rw [← hprobed]
      rfl
    · refine clearRelease_gives h ?_
      rw [State.releaseClear, show (s.elapse dt).status.phase = _ from hp]
      rfl
    · refine clearRelease_gives h ?_
      rw [State.releaseClear, show (s.elapse dt).status.phase = _ from hp]
      rfl

end Sys2Proof.Machine


/-! SUPPORT. The fetch of a slot, a reference released, and the end of a page read (R109, R110, R116 to R119, R122 to R126). -/

namespace Sys2Proof.Machine

/-! ### The fetch of a slot -/

section
variable {s t : State} {c : ChannelNo} {n : SlotNo} {f : Fetch}

theorem fetchOf_eq {ch : Channel} (hnodup : (ch.queue.map Fetch.slot).Nodup) (hf : f ∈ ch.queue) (hn : f.slot = n) :
    ch.fetchOf n = some f := by
  unfold Channel.fetchOf
  generalize ch.queue = queue at hnodup hf
  induction queue with
  | nil => cases hf
  | cons x rest ih =>
    rw [List.map_cons, List.nodup_cons] at hnodup
    obtain ⟨hx, hrest⟩ := hnodup
    rcases List.mem_cons.mp hf with rfl | hf
    · rw [List.find?_cons_of_pos (by simpa using hn)]
    · have hne : x.slot ≠ n := fun h => hx (h.trans hn.symm ▸ List.mem_map_of_mem hf)
      rw [List.find?_cons_of_neg (by simpa using hne)]
      exact ih hrest hf

theorem fetchOf_none {ch : Channel} (h : ∀ f ∈ ch.queue, f.slot ≠ n) : ch.fetchOf n = none := by
  unfold Channel.fetchOf
  rw [List.find?_eq_none]
  simpa using h

theorem mem_of_fetchOf {ch : Channel} (h : ch.fetchOf n = some f) : f ∈ ch.queue ∧ f.slot = n :=
  ⟨List.mem_of_find?_eq_some h, by simpa using List.find?_some h⟩

theorem fetchingChannel_none (h : ∀ c, ∀ f ∈ (s.chan c).queue, f.slot ≠ n) : s.fetchingChannel n = none := by
  unfold State.fetchingChannel
  rw [List.find?_eq_none]
  intro c _
  rw [fetchOf_none (h c)]
  simp

theorem fetchingChannel_eq (hlaw : s.FetchLaw) (hf : f ∈ (s.chan c).queue) (hn : f.slot = n) : s.fetchingChannel n = some c := by
  obtain ⟨-, hnodup, hone, -, -, -⟩ := hlaw
  have hsome : ((s.chan c).fetchOf n).isSome = true := by rw [fetchOf_eq (hnodup c) hf hn]; rfl
  cases hd : s.fetchingChannel n with
  | none =>
    have := (List.find?_eq_none.mp hd) c (mem_channels c)
    exact absurd hsome this
  | some d =>
    have hfound : ((s.chan d).fetchOf n).isSome = true :=
      List.find?_some (p := fun c => ((s.chan c).fetchOf n).isSome) hd
    obtain ⟨g, hg⟩ := Option.isSome_iff_exists.mp hfound
    obtain ⟨hgq, hgn⟩ := mem_of_fetchOf hg
    rw [hone d c g hgq f hf (hgn.trans hn.symm)]

theorem fetchingChannel_of_fetch (h : t.fetch = s.fetch) : t.fetchingChannel n = s.fetchingChannel n := by
  unfold State.fetchingChannel State.chan
  rw [h]

theorem reading_iff {ch : Channel} : ch.reading n = true ↔ ∃ op, ch.op = some op ∧ op.kind = .fetchPage n := by
  unfold Channel.reading
  cases ch.op <;> simp

/-- The fetch taken out, as one change of the channel and one of the cache. -/
theorem removeFetch_eq : s.removeFetch c n = ({ s with cache := { s.cache with
      slots := Sparse.erase s.cache.slots n.val, freeTail := s.cache.freeTail ++ [n]
      counts := { s.cache.counts with cancel := inc s.cache.counts.cancel } } }).updChan c fun ch =>
        { ch with queue := ch.queue.filter fun x => x.slot != n, counts := { ch.counts with cancels := inc ch.counts.cancels } } := by
  unfold State.removeFetch State.countChan
  rw [updChan_updChan]
  rfl

end

/-! ### A reference released -/

section
variable {s : State} {e : Entry} {n : SlotNo} {slot : Slot}

theorem releaseRef_shared (h : s.slot? n = some slot) (hr : 1 < slot.refs) :
    s.releaseRef n = s.updSlot n fun x => { x with refs := x.refs - 1 } := by
  simp only [State.releaseRef, h, if_neg (not_le.mpr hr)]

theorem emptySlot_updSlot (f : Slot → Slot) : (s.updSlot n f).emptySlot n = s.emptySlot n := by
  have herase := Sparse.erase_modify s.cache.slots n.val f
  show { s with cache := { s.cache with slots := Sparse.erase (Sparse.modify s.cache.slots n.val f) n.val
                                        freeTail := s.cache.freeTail ++ [n] } } = _
  rw [herase]
  rfl

theorem removeFetch_updSlot {c : ChannelNo} (f : Slot → Slot) : (s.updSlot n f).removeFetch c n = s.removeFetch c n := by
  rw [removeFetch_eq, removeFetch_eq]
  have herase := Sparse.erase_modify s.cache.slots n.val f
  show State.updChan c _ { s with cache := { s.cache with slots := Sparse.erase (Sparse.modify s.cache.slots n.val f) n.val
                                                          freeTail := s.cache.freeTail ++ [n]
                                                          counts := { s.cache.counts with cancel := inc s.cache.counts.cancel } } } = _
  rw [herase]

theorem cancelFetch_none (h : s.fetchingChannel n = none) : s.cancelFetch n = s := by
  simp only [State.cancelFetch, h]

theorem cancelFetch_eq {c : ChannelNo} {f : Fetch} (h : s.fetchingChannel n = some c) (hf : (s.chan c).fetchOf n = some f) :
    s.cancelFetch n = if (s.chan c).reading n then
      if f.pagesDone < 2 then s.updChan c (Channel.mapFetch n fun x => { x with cancelPending := true }) else s
      else s.removeFetch c n := by
  simp only [State.cancelFetch, h, hf]

end

/-! ### The end of a page read -/

/-- What a page's end hands on: the bytes read, or none where the page is reported patched. -/
def PageEnd.data : PageEnd → Option (List Byte)
  | .answer out => pageData out
  | .timeout => none
  | .late _ => none

theorem PageEnd.data_isNone (how : PageEnd) : how.data.isNone = how.patched := by
  cases how with
  | answer out => cases out <;> rfl
  | timeout => rfl
  | late out => rfl

/-- The state when a page read on channel ch has ended so: the outcome counted, the channel free. -/
def State.readEnded (s : State) (ch : ChannelNo) (how : PageEnd) : State :=
  s.updChan ch fun k => { how.counted k with op := none }

section
variable {s : State} {ch : ChannelNo} {n : SlotNo} {how : PageEnd} {dt : Micros} {issued : Time}

theorem answered_ended (out : PageOutcome) :
    (s.updChan ch (Channel.countAnswer out)).endOp ch = s.readEnded ch (.answer out) := by
  rw [State.endOp, updChan_updChan]
  cases out <;> rfl

theorem timedOut_ended (h : (s.chan ch).timeouts < 2) : s.updChan ch Channel.countTimeout = s.readEnded ch .timeout := by
  refine updChan_congr s ch ?_
  have hmin : min 3 ((s.chan ch).timeouts + 1) = (s.chan ch).timeouts + 1 := by omega
  simp only [Channel.countTimeout, hmin, PageEnd.counted]

theorem fetchPageDone_timeouts (data : Option (List Byte)) (d : ChannelNo) :
    ((s.fetchPageDone ch n data).chan d).timeouts = (s.chan d).timeouts := by
  have hmoves : Moves true s (s.fetchPageDone ch n data) := by
    unfold State.fetchPageDone
    split
    · split
      · exact Moves.removeFetch .refl
      · exact Moves.completePage .refl
    · exact .refl
  exact hmoves.timeouts d

theorem offlineAtThird_of_lt (h : (s.chan ch).timeouts < 3) : s.offlineAtThird ch = s := if_neg (by omega)

/-- A read of a fetch's page that times out and leaves the channel out of OFFLINE. -/
theorem timedOut_fetchPage (h : (s.chan ch).timeouts < 2) :
    s.timedOut ch (.fetchPage n) = ((s.readEnded ch .timeout).fetchPageDone ch n none).afterOperation ch := by
  have hlt : (((s.readEnded ch .timeout).fetchPageDone ch n none).chan ch).timeouts < 3 := by
    rw [fetchPageDone_timeouts, State.readEnded, chan_updChan_self]
    show (s.chan ch).timeouts + 1 < 3
    omega
  simp only [State.timedOut, timedOut_ended h, offlineAtThird_of_lt hlt]

theorem answered_fetchPage (out : PageOutcome) : s.answered ch (.fetchPage n) out =
    ((s.readEnded ch (.answer out)).fetchPageDone ch n (pageData out)).afterOperation ch := by
  simp only [State.answered, answered_ended]

/-- The command that ends a fetch's page read. -/
theorem fetchPage_ends (h : (s.chan ch).op = some { kind := .fetchPage n, issued := issued })
    (hend : s.CanEnd dt ch issued how) : exec (how.ofFetch dt ch) s =
      .next ((((s.elapse dt).readEnded ch how).fetchPageDone ch n how.data).afterOperation ch).finish := by
  have hop : ((s.elapse dt).chan ch).op = some { kind := .fetchPage n, issued := issued } := h
  cases how with
  | answer out =>
    have hwait : signedDiff (s.clock.localTime + dt) issued ≤ 2000 := by
      cases out with
      | good bytes => exact hend.1
      | corrected bytes => exact hend.1
      | uncorrectable => exact hend
    show execFetchPageRead dt ch out s = _
    unfold execFetchPageRead
    rw [command_eq, hop]
    dsimp only
    rw [if_pos (show (OperationKind.fetchPage n).readsFetch = true from rfl), State.takeAnswer, answerLate_elapse_false (op := { kind := .fetchPage n, issued := issued }) hwait]
    exact congrArg (fun u => Host.Outcome.next (State.finish u)) (answered_fetchPage out)
  | timeout =>
    obtain ⟨hwait, ht⟩ := hend
    show execPageTimeout dt ch s = _
    unfold execPageTimeout
    rw [command_eq, hop]
    dsimp only
    rw [if_pos ((ran_iff (s.elapse dt) issued Config.pageTimeout).mpr hwait), timedOut_fetchPage (s := s.elapse dt) ht]
    rfl
  | late out =>
    obtain ⟨hwait, ht⟩ := hend
    show execFetchPageRead dt ch out s = _
    unfold execFetchPageRead
    rw [command_eq, hop]
    dsimp only
    rw [if_pos (show (OperationKind.fetchPage n).readsFetch = true from rfl), State.takeAnswer, (answerLate_elapse_iff dt s { kind := .fetchPage n, issued := issued }).mpr hwait, if_pos rfl, timedOut_fetchPage (s := s.elapse dt) ht]
    rfl

end

section
variable {s : State} {e : Entry} {n : SlotNo} {slot : Slot}

theorem releaseEntry_some (he : e.slot = some n) : s.releaseEntry e = s.releaseRef n := by
  simp only [State.releaseEntry, he]

theorem releaseRef_valid (h : s.slot? n = some slot) (hr : slot.refs = 1) (hst : slot.state = .valid) :
    s.releaseRef n = (s.updSlot n fun x => { x with refs := x.refs - 1 }).toReclaim n := by
  simp only [State.releaseRef, h, hst, if_pos (show slot.refs ≤ 1 from hr.le)]

theorem releaseRef_patched (h : s.slot? n = some slot) (hr : slot.refs = 1) (hst : slot.state = .patched) :
    s.releaseRef n = (s.emptySlot n).countCache fun k => { k with patchedRelease := inc k.patchedRelease } := by
  simp only [State.releaseRef, h, hst, if_pos (show slot.refs ≤ 1 from hr.le), emptySlot_updSlot]

theorem releaseRef_filling (h : s.slot? n = some slot) (hr : slot.refs = 1) (hst : slot.state = .filling) :
    s.releaseRef n = (s.updSlot n fun x => { x with refs := x.refs - 1 }).cancelFetch n := by
  simp only [State.releaseRef, h, hst, if_pos (show slot.refs ≤ 1 from hr.le)]

end

/-- The end of a page read of a fetch that awaits cancellation, alone in its channel's queue. -/
theorem fetchPageDone_cancelled {s : State} {ch : ChannelNo} {n : SlotNo} {f : Fetch} {data : Option (List Byte)}
    (hq : (s.chan ch).queue = [f]) (hn : f.slot = n) (hc : f.cancelPending = true) :
    s.fetchPageDone ch n data = s.removeFetch ch n := by
  have hf : (s.chan ch).fetchOf n = some f :=
    fetchOf_eq (by simp [hq]) (by simp [hq]) hn
  simp only [State.fetchPageDone, hf, hc, if_true]

theorem counted_queue (how : PageEnd) (k : Channel) : (how.counted k).queue = k.queue
    ∧ (how.counted k).offline = k.offline ∧ (how.counted k).probePending = k.probePending
    ∧ (how.counted k).pageCount = k.pageCount ∧ (how.counted k).nextOrder = k.nextOrder
    ∧ (how.counted k).counts.cancels = k.counts.cancels ∧ (how.counted k).counts.patchedPages = k.counts.patchedPages
    ∧ (how.counted k).counts.begun = k.counts.begun ∧ (how.counted k).counts.breakIns = k.counts.breakIns
    ∧ (how.counted k).counts.completed = k.counts.completed := by
  cases how with
  | answer out => cases out <;> exact ⟨rfl, rfl, rfl, rfl, rfl, rfl, rfl, rfl, rfl, rfl⟩
  | timeout => exact ⟨rfl, rfl, rfl, rfl, rfl, rfl, rfl, rfl, rfl, rfl⟩
  | late out => exact ⟨rfl, rfl, rfl, rfl, rfl, rfl, rfl, rfl, rfl, rfl⟩

/-- Settles O53: a reference released, and the fetch of a slot with none. -/
theorem referenceReleased : Obligations.ReferenceReleased := by
  refine ⟨fun e s he => ?_, ?_, ?_⟩
  · simp only [State.releaseEntry, he]
  · intro e n slot s he hs less emptied leaves
    have hleaves : ∀ {cache : Cache}, s.releaseRef n = { s with cache := cache } → leaves cache := fun h =>
      (releaseEntry_some he).trans h
    refine ⟨fun hr => hleaves (releaseRef_shared hs hr), fun hr => ⟨fun hst => hleaves (releaseRef_valid hs hr hst),
      fun hst => hleaves (releaseRef_patched hs hr hst), fun hst => ⟨fun hno => hleaves ?_, fun hlaw c f hf hn => ?_⟩⟩⟩
    · have hnone : (s.updSlot n fun x => { x with refs := x.refs - 1 }).fetchingChannel n = none :=
        (fetchingChannel_of_fetch (s := s) rfl).trans (fetchingChannel_none hno)
      rw [releaseRef_filling hs hr hst, cancelFetch_none hnone]
      rfl
    · have hchan : (s.updSlot n fun x => { x with refs := x.refs - 1 }).fetchingChannel n = some c :=
        (fetchingChannel_of_fetch (s := s) rfl).trans (fetchingChannel_eq hlaw hf hn)
      have hof : (s.chan c).fetchOf n = some f := fetchOf_eq (hlaw.2.1 c) hf hn
      have hrelease : s.releaseEntry e = _ :=
        (releaseEntry_some he).trans ((releaseRef_filling hs hr hst).trans (cancelFetch_eq hchan hof))
      refine ⟨fun hidle => ?_, fun issued hop => ⟨fun hdone => ?_, fun hdone => hleaves ?_⟩⟩
      · have hnot : ¬ (s.chan c).reading n = true := fun h => by
          obtain ⟨op, hop, hk⟩ := reading_iff.mp h
          exact hidle op hop hk
        rw [hrelease]
        refine (if_neg hnot).trans ?_
        rw [removeFetch_updSlot, removeFetch_eq]
      · have hread : (s.chan c).reading n = true := reading_iff.mpr ⟨_, hop, rfl⟩
        rw [hrelease]
        exact (if_pos hread).trans (if_pos hdone)
      · have hread : (s.chan c).reading n = true := reading_iff.mpr ⟨_, hop, rfl⟩
        rw [releaseRef_filling hs hr hst, cancelFetch_eq hchan hof]
        exact (if_pos hread).trans (if_neg (by omega))
  · intro dt ch how n f issued s hop hend hq hn hc hoff hprobe hclear hp hl
    obtain ⟨h1, h2, h3, -, -, h6, -⟩ := counted_queue how (s.chan ch)
    have hqueue : (((s.elapse dt).readEnded ch how).chan ch).queue = [f] := by
      rw [State.readEnded, chan_updChan_self]
      exact h1.trans hq
    have hdone := fetchPageDone_cancelled (data := how.data) hqueue hn hc
    have hremoved : ((s.elapse dt).readEnded ch how).removeFetch ch n =
        ({ s.later dt with cache := { s.cache with
          slots := Sparse.erase s.cache.slots n.val, freeTail := s.cache.freeTail ++ [n]
          counts := { s.cache.counts with cancel := inc s.cache.counts.cancel } } }).updChan ch fun k =>
        { how.counted k with
          op := none, queue := []
          counts := { (how.counted k).counts with cancels := inc k.counts.cancels } } := by
      rw [removeFetch_eq]
      show State.updChan ch _ (State.updChan ch (fun k => { how.counted k with op := none })
        { s.elapse dt with cache := { s.cache with
          slots := Sparse.erase s.cache.slots n.val, freeTail := s.cache.freeTail ++ [n]
          counts := { s.cache.counts with cancel := inc s.cache.counts.cancel } } }) = _
      rw [updChan_updChan]
      refine updChan_congr _ ch ?_
      have hfilter : (how.counted (s.chan ch)).queue.filter (fun x => x.slot != n) = [] := by
        rw [h1, hq]
        simp [hn]
      show ({ how.counted (s.chan ch) with
        op := none, queue := (how.counted (s.chan ch)).queue.filter fun x => x.slot != n
        counts := { (how.counted (s.chan ch)).counts with cancels := inc (how.counted (s.chan ch)).counts.cancels } } : Channel) = _
      rw [hfilter, h6]
      rfl
    refine ⟨_, fetchPage_ends hop hend, (finish_settles _).of_plain ?_⟩
    rw [hdone, hremoved, afterOperation_idle]
    · rw [chan_updChan_self]
      exact h3.trans hprobe
    · rw [chan_updChan_self]
      exact h2.trans hoff
    · exact hp
    · exact hl
    · rw [chan_updChan_self]

end Sys2Proof.Machine


/-! SUPPORT. A page of a fetch written and reported, and the channel's next page chosen (R106, R118 to R120). -/

namespace Sys2Proof.Machine

section
variable {s : State} {c : ChannelNo} {n : SlotNo} {f next : Fetch} {breakIn : Bool} {data : Option (List Byte)}

/-! ### The page written -/

/-- The bytes a page's end writes (R119). -/
def pageBytes : Option (List Byte) → List Byte
  | some bytes => bytes.take Config.pageBytes
  | none => List.replicate Config.pageBytes 0

/-- The cache after page j of a slot has been written and reported (R106, R119). -/
def Cache.withPage (k : Cache) (n : SlotNo) (j : Nat) (data : Option (List Byte)) : Cache :=
  { k with
    dram := Dram.write k.dram (Dram.pageAddress n j) (pageBytes data)
    slots := Sparse.modify k.slots n.val fun x =>
      { x with pagesDone := x.pagesDone + 1, patched := if data.isNone then x.patched ||| onlyPage j else x.patched } }

theorem reportPage_eq (j : Nat) : s.reportPage n j data = { s with cache := s.cache.withPage n j data } := by
  cases data <;> rfl

/-- A channel after a page of its fetch has been counted. -/
def Channel.pageCounted (data : Option (List Byte)) (k : Channel) : Channel :=
  { k with counts := { k.counts with
      patchedPages := if data.isNone then inc k.counts.patchedPages else k.counts.patchedPages } }

theorem reportPage_updChan (g : Channel → Channel) (j : Nat) :
    (s.updChan c g).reportPage n j data = (s.reportPage n j data).updChan c g := rfl

@[simp] theorem chan_reportPage (j : Nat) (d : ChannelNo) : (s.reportPage n j data).chan d = s.chan d := rfl

theorem countPatched_eq : (if data.isNone = true then s.countChan c fun k => { k with patchedPages := inc k.patchedPages } else s) =
    s.updChan c (Channel.pageCounted data) := by
  cases data with
  | none => rfl
  | some bytes => exact (updChan_id s c rfl).symm

/-- Page 0 or 1 of a fetch. -/
theorem completePage_early (hf : (s.chan c).fetchOf n = some f) (hd : f.pagesDone < 2) : s.completePage c n data =
    (s.reportPage n f.pagesDone data).updChan c fun k =>
      (k.pageCounted data).mapFetch n fun x => { x with pagesDone := x.pagesDone + 1 } := by
  simp only [State.completePage, hf, if_pos hd, countPatched_eq, reportPage_updChan, updChan_updChan]

/-- The third page of a fetch. -/
theorem completePage_third (hf : (s.chan c).fetchOf n = some f) (hd : ¬ f.pagesDone < 2) : s.completePage c n data =
    ((s.reportPage n f.pagesDone data).updChan c fun k =>
      { (k.pageCounted data).dropFetch n with
        counts := { (k.pageCounted data).counts with completed := inc k.counts.completed } }).fillComplete n := by
  simp only [State.completePage, hf, if_neg hd, countPatched_eq, reportPage_updChan]
  simp only [State.countChan, updChan_updChan]
  rfl

/-! ### The choice -/

theorem nextFetch_eq (ch : Channel) (margin : Nat) : ch.nextFetch margin = choiceOf ch.queue margin := by
  rw [Channel.nextFetch, choiceOf, Channel.partials, ← List.head?_filter]
  cases ch.queue.filter fun f => f.pagesDone == 1 || f.pagesDone == 2 with
  | nil => cases ch.queue.filter fun f => f.pagesDone == 0 <;> rfl
  | cons p rest => cases ch.queue.filter fun f => f.pagesDone == 0 <;> rfl

/-- A channel as its choice of a page leaves it. -/
def Channel.choosing (now : Time) (next : Fetch) (breakIn : Bool) (k : Channel) : Channel :=
  { k with op := some { kind := .fetchPage next.slot, issued := now }, counts := k.counts.countChoice next breakIn }

theorem readNext_reads (h : choiceOf (s.chan c).queue s.margin = some (next, breakIn))
    (hpage : (s.chan c).holdsPage (channelPage next.block next.pagesDone) = true) :
    s.readNext c = (s.updChan c (Channel.choosing s.now next breakIn), none) := by
  have hnext : (s.chan c).nextFetch s.margin = some (next, breakIn) := (nextFetch_eq _ _).trans h
  simp only [State.readNext, hnext, if_pos hpage, State.issue, State.countChan, updChan_updChan]
  rfl

/-- A channel out of OFFLINE, with no other work waiting, reads the page chosen. -/
theorem afterOperation_reads (hclear : s.cleared = false) (hprobe : (s.chan c).probePending = false)
    (hoff : (s.chan c).offline = false) (hp : s.dir.program = none) (hl : s.dir.load = none) (hop : (s.chan c).op = none)
    (h : choiceOf (s.chan c).queue s.margin = some (next, breakIn))
    (hpage : (s.chan c).holdsPage (channelPage next.block next.pagesDone) = true) :
    s.afterOperation c = s.updChan c (Channel.choosing s.now next breakIn) := by
  have hchoose : s.choose c = s.updChan c (Channel.choosing s.now next breakIn) := by
    unfold State.choose
    rw [waitingProgram_of_program hp]
    simp only [takeWaitingPage_of_load hl, hop, Option.isSome_none]
    exact chooseFetch_of_read (readNext_reads h hpage) _
  simp [State.afterOperation, hclear, hprobe, hoff, hchoose]

theorem holdsPage_of {k : Channel} {m page : Nat} (h : k.pageCount = some m) (hlt : page < m) : k.holdsPage page = true := by
  simp [Channel.holdsPage, h, hlt]

end

/-- The bytes of a page as it was read, or zeros. -/
theorem PageEnd.bytes {how : PageEnd} {s : State} {dt : Micros} {ch : ChannelNo} {issued : Time}
    (h : s.CanEnd dt ch issued how) : (pageBytes how.data).length = 4096
    ∧ ∀ i (hi : i < (pageBytes how.data).length), (pageBytes how.data)[i] = how.byte i := by
  have whole : ∀ bytes : List Byte, bytes.length = 4096 → (pageBytes (some bytes)).length = 4096
      ∧ ∀ i (hi : i < (pageBytes (some bytes)).length), (pageBytes (some bytes))[i] = bytes[i]?.getD 0 := by
    intro bytes hlen
    have htake : pageBytes (some bytes) = bytes := List.take_of_length_le (by rw [hlen]; decide)
    rw [htake]
    refine ⟨hlen, fun i hi => ?_⟩
    rw [List.getElem?_eq_getElem hi]
    rfl
  have zeros : (pageBytes none).length = 4096 ∧ ∀ i (hi : i < (pageBytes none).length), (pageBytes none)[i] = 0 :=
    ⟨List.length_replicate, fun i hi => List.getElem_replicate _⟩
  cases how with
  | answer out =>
    cases out with
    | good bytes => exact whole bytes h.2
    | corrected bytes => exact whole bytes h.2
    | uncorrectable => exact zeros
  | timeout => exact zeros
  | late out => exact zeros

/-- What a page's end writes, byte by byte. -/
theorem withPage_dram {how : PageEnd} {s : State} {dt : Micros} {ch : ChannelNo} {issued : Time} (k : Cache) (n : SlotNo)
    (j : Nat) (h : s.CanEnd dt ch issued how) :
    (∀ i < 4096, Dram.read (k.withPage n j how.data).dram (Dram.pageAddress n j + i) = how.byte i)
    ∧ ∀ a, a < Dram.pageAddress n j ∨ Dram.pageAddress n j + 4096 ≤ a →
        Dram.read (k.withPage n j how.data).dram a = Dram.read k.dram a := by
  obtain ⟨hlen, hbytes⟩ := PageEnd.bytes h
  refine ⟨fun i hi => ?_, fun a ha => ?_⟩
  · exact (Dram.read_write_inside k.dram _ _ i (by rw [hlen]; exact hi)).trans (hbytes i _)
  · exact Dram.read_write_outside k.dram _ _ a (by rw [hlen]; exact ha)

/-- Settles O23: the page written and reported, the next one chosen. -/
theorem fetchPageWritten : Obligations.FetchPageWritten := by
  intro dt ch how n f next breakIn issued m s hop hend hf hn hnodup hc hd hoff hprobe hclear hp hl hmem queue hchoice hm hpage
  obtain ⟨h1, h2, h3, h4, -, -, h7, h8, h9, -⟩ := counted_queue how (s.chan ch)
  have hchan : ((s.elapse dt).readEnded ch how).chan ch = { how.counted (s.chan ch) with op := none } := by
    rw [State.readEnded, chan_updChan_self]
    rfl
  have hof : (((s.elapse dt).readEnded ch how).chan ch).fetchOf n = some f := by
    refine fetchOf_eq ?_ ?_ hn
    · rw [hchan]
      exact h1 ▸ hnodup
    · rw [hchan]
      exact h1 ▸ hf
  have hdone : ((s.elapse dt).readEnded ch how).fetchPageDone ch n how.data =
      ((s.elapse dt).reportPage n f.pagesDone how.data).updChan ch fun k =>
        (({ how.counted k with op := none } : Channel).pageCounted how.data).mapFetch n fun x =>
          { x with pagesDone := x.pagesDone + 1 } := by
    simp only [State.fetchPageDone, hof, hc]
    rw [if_neg (by decide), completePage_early hof hd, State.readEnded, reportPage_updChan, updChan_updChan]
  have hread : (((s.elapse dt).readEnded ch how).fetchPageDone ch n how.data).afterOperation ch =
      ((s.elapse dt).reportPage n f.pagesDone how.data).updChan ch fun k =>
        Channel.choosing (s.clock.localTime + dt) next breakIn
          ((({ how.counted k with op := none } : Channel).pageCounted how.data).mapFetch n fun x =>
            { x with pagesDone := x.pagesDone + 1 }) := by
    rw [hdone]
    refine (afterOperation_reads (next := next) (breakIn := breakIn) ?_ ?_ ?_ ?_ ?_ ?_ ?_ ?_).trans (updChan_updChan _ ch _ _)
    · exact hclear
    · rw [chan_updChan_self]
      exact h3.trans hprobe
    · rw [chan_updChan_self]
      exact h2.trans hoff
    · exact hp
    · exact hl
    · rw [chan_updChan_self]
      rfl
    · rw [chan_updChan_self]
      exact (congrArg (fun q : List Fetch => choiceOf (q.map fun x =>
        if x.slot = n then { x with pagesDone := x.pagesDone + 1 } else x) s.margin) h1).trans hchoice
    · rw [chan_updChan_self]
      exact holdsPage_of (h4.trans hm) hpage
  refine ⟨_, fetchPage_ends hop hend, ?_⟩
  rw [hread, finish_cache]
  refine ⟨(withPage_dram s.cache n f.pagesDone hend).1, (withPage_dram s.cache n f.pagesDone hend).2,
    (finish_settles _).of_plain ?_⟩
  have hslots : (s.cache.withPage n f.pagesDone how.data).slots = Sparse.modify s.cache.slots n.val fun x =>
      { x with pagesDone := x.pagesDone + 1
               patched := if how.patched = true then x.patched ||| (1#3 <<< f.pagesDone) else x.patched } := by
    rw [← how.data_isNone]
    rfl
  rw [← hslots]
  refine congrArg State.plain (updChan_congr _ ch ?_)
  show Channel.choosing _ next breakIn (Channel.mapFetch n _ (Channel.pageCounted how.data _)) = _
  simp only [Channel.choosing, Channel.mapFetch, Channel.pageCounted, ChannelCounts.countChoice, how.data_isNone]
  show ({ how.counted (s.chan ch) with
    queue := (how.counted (s.chan ch)).queue.map _, op := some _
    counts := { (how.counted (s.chan ch)).counts with
      patchedPages := if how.patched = true then inc (how.counted (s.chan ch)).counts.patchedPages
        else (how.counted (s.chan ch)).counts.patchedPages
      begun := if next.pagesDone = 0 then inc (how.counted (s.chan ch)).counts.begun else (how.counted (s.chan ch)).counts.begun
      breakIns := if breakIn = true then inc (how.counted (s.chan ch)).counts.breakIns
        else (how.counted (s.chan ch)).counts.breakIns } } : Channel) = _
  rw [h1, h7, h8, h9]
  rfl

end Sys2Proof.Machine


/-! SUPPORT. The completion of a fill, in the cache and in the windows (R77, R82, R107). -/

namespace Sys2Proof.Machine

/-! ### The windows -/

/-- A context as the completion of a slot's fill leaves it, where no patched head ends it. -/
def Context.filled (n : SlotNo) (set : PageSet) (c : Context) : Context :=
  { c with
    window := c.window.map (Entry.fill n set)
    patched := if set ≠ 0 ∧ c.window.head?.bind Entry.slot = some n then inc c.patched else c.patched }

/-- The state with every context changed. -/
def State.mapCtx (f : Context → Context) (s : State) : State :=
  s.onStreams fun e => { e with contexts := e.contexts.map fun p => (p.1, f p.2) }

section
variable {s : State} {i : Nat} {n : SlotNo} {set : PageSet} {c : Context}

theorem fillContext_eq (ht : Sparse.wf s.streams.contexts) (h : s.ctx? i = some c) (hp : set = 0 ∨ c.policy = .tolerant) :
    s.fillContext n set i = s.updCtx i (Context.filled n set) := by
  rw [updCtx_eq_withStream ht h]
  unfold State.fillContext
  simp only [h]
  rw [updCtx_eq_withStream ht h]
  cases hw : c.window with
  | nil =>
    simp only [Context.filled, hw]
    simp
  | cons e rest =>
    dsimp only
    by_cases he : e.slot = some n
    · rw [if_pos he]
      have hwin : ({ c with window := (e :: rest).map (Entry.fill n set) } : Context).window =
          { e with ready := true, patched := set } :: rest.map (Entry.fill n set) := by
        rw [List.map_cons, Entry.fill, if_pos he]
      by_cases hset : set = 0
      · rw [policyTest_clean h hwin (by simp [hset])]
        simp [Context.filled, hw, hset]
      · have hhead : set ≠ 0 ∧ c.window.head?.bind Entry.slot = some n := ⟨hset, by rw [hw]; exact he⟩
        rw [policyTest_tolerant h hwin ⟨rfl, hset⟩ (hp.resolve_left hset), Context.filled, if_pos hhead, hw]
    · rw [if_neg he]
      simp [Context.filled, hw, he]

theorem ctx?_updCtx_other {j : Nat} (hj : j ≠ i) (f : Context → Context) : (s.updCtx i f).ctx? j = s.ctx? j := by
  have := Sparse.get_modify s.streams.contexts i j f
  rw [if_neg (Ne.symm hj)] at this
  exact this

theorem foldl_updCtx (f : Context → Context) (l : List Nat) : l.foldl (fun t j => t.updCtx j f) s =
    s.onStreams fun e => { e with contexts := l.foldl (fun m j => Sparse.modify m j f) e.contexts } := by
  induction l generalizing s with
  | nil => rfl
  | cons j rest ih => exact ih

/-- Each context in turn. -/
theorem foldl_fillContext {l : List Nat} (hl : l.Nodup) (ht : Sparse.wf s.streams.contexts)
    (h : ∀ j ∈ l, ∃ c, s.ctx? j = some c ∧ (set = 0 ∨ c.policy = .tolerant)) :
    l.foldl (State.fillContext n set) s = l.foldl (fun t j => t.updCtx j (Context.filled n set)) s := by
  induction l generalizing s with
  | nil => rfl
  | cons j rest ih =>
    obtain ⟨hj, hrest⟩ := List.nodup_cons.mp hl
    obtain ⟨c, hc, hp⟩ := h j (by simp)
    rw [List.foldl_cons, List.foldl_cons, fillContext_eq ht hc hp]
    refine ih hrest (Sparse.modify_wf ht _ _) fun k hk => ?_
    rw [ctx?_updCtx_other (fun hkj : k = j => hj (hkj ▸ hk))]
    exact h k (by simp [hk])

theorem Sparse.foldl_modify {α : Type} (f : α → α) (l : List Nat) (hl : l.Nodup) (m : List (Nat × α)) :
    l.foldl (fun m j => Sparse.modify m j f) m = m.map fun p => if p.1 ∈ l then (p.1, f p.2) else p := by
  induction l generalizing m with
  | nil => simp
  | cons j rest ih =>
    obtain ⟨hj, hrest⟩ := List.nodup_cons.mp hl
    rw [List.foldl_cons, ih hrest, Sparse.modify, List.map_map]
    refine List.map_congr_left fun p _ => ?_
    by_cases hp : p.1 = j
    · have hnot : p.1 ∉ rest := hp ▸ hj
      simp [hp, hj]
    · simp [hp]

theorem live_nodup (ht : Sparse.wf s.streams.contexts) : s.live.Nodup := (Sparse.wf_iff_keys.mp ht).imp fun h => Nat.ne_of_lt h

/-- The completion of a fill in every window, where no patched head ends a stream. -/
theorem fillWindows (ht : Sparse.wf s.streams.contexts) (h : ∀ p ∈ s.streams.contexts, set = 0 ∨ p.2.policy = .tolerant) :
    s.live.foldl (State.fillContext n set) s = s.mapCtx (Context.filled n set) := by
  rw [foldl_fillContext (live_nodup ht) ht, foldl_updCtx]
  · have hmap : s.live.foldl (fun m j => Sparse.modify m j (Context.filled n set)) s.streams.contexts =
        s.streams.contexts.map fun p => (p.1, p.2.filled n set) := by
      rw [Sparse.foldl_modify _ _ (live_nodup ht)]
      refine List.map_congr_left fun p hp => if_pos (List.mem_map_of_mem hp)
    show { s with streams := { s.streams with contexts := _ } } = _
    rw [hmap]
    rfl
  · intro j hj
    obtain ⟨p, hp, rfl⟩ := List.mem_map.mp hj
    exact ⟨p.2, (Sparse.get_eq_some_iff ht).mpr hp, h p hp⟩

/-! ### A patched head of a STRICT stream -/

theorem fill_other {e : Entry} (h : e.slot ≠ some n) : Entry.fill n set e = e := if_neg h

theorem fillContext_still (ht : Sparse.wf s.streams.contexts)
    (h : ∀ c, s.ctx? i = some c → ∀ e ∈ c.window, e.slot ≠ some n) : s.fillContext n set i = s := by
  unfold State.fillContext
  cases hc : s.ctx? i with
  | none => rfl
  | some c =>
    have hwin : c.window.map (Entry.fill n set) = c.window :=
      (List.map_congr_left fun e he => fill_other (h c hc e he)).trans (List.map_id _)
    have hself : s.updCtx i (fun x => { x with window := x.window.map (Entry.fill n set) }) = s := by
      rw [updCtx_eq_withStream ht hc, hwin]
      exact (eq_withStream ht hc).symm
    dsimp only
    rw [hself]
    cases hw : c.window with
    | nil => rfl
    | cons e rest => exact if_neg (h c hc e (by simp [hw]))

theorem foldl_fillContext_still {l : List Nat} (ht : Sparse.wf s.streams.contexts)
    (h : ∀ j ∈ l, ∀ c, s.ctx? j = some c → ∀ e ∈ c.window, e.slot ≠ some n) : l.foldl (State.fillContext n set) s = s := by
  induction l with
  | nil => rfl
  | cons j rest ih =>
    rw [List.foldl_cons, fillContext_still ht (h j (by simp))]
    exact ih fun k hk => h k (by simp [hk])

/-- s after the patched head of the STRICT stream of context i has ended it (R82, R83, R89, R90). -/
def State.faulted (s : State) (i : Nat) (c : Context) : State :=
  { s with
    bus := { s.bus with notices := s.bus.notices ++ [.ended i c.id .fault c.delivered c.dropped (inc c.patched)] }
    streams :=
      { contexts := Sparse.modify s.streams.contexts i fun x =>
          { x with patched := inc x.patched, state := .spent, window := []
                   gen := { x.gen with closed := true }, endReason := some .fault, offer := none }
        counts := { s.streams.counts with
          withdrawn := addCount s.streams.counts.withdrawn c.window.length
          endFault := inc s.streams.counts.endFault } } }

/-- The completion of a patched fill in the one STRICT stream whose head refers to the slot. -/
theorem fillContext_strict {e : Entry} {rest : List Entry} (ht : Sparse.wf s.streams.contexts) (h : s.ctx? i = some c)
    (hp : c.policy = .strict) (hw : c.window = e :: rest) (he : e.slot = some n) (hset : set ≠ 0) :
    s.fillContext n set i = (s.faulted i c).released c.window := by
  obtain ⟨y, hy⟩ : ∃ y : Context, y = { c with window := c.window.map (Entry.fill n set) } := ⟨_, rfl⟩
  have hwin : y.window = { e with ready := true, patched := set } :: rest.map (Entry.fill n set) := by
    rw [hy, hw, List.map_cons, Entry.fill, if_pos he]
  have hlength : y.window.length = c.window.length := by rw [hy, List.length_map]
  have hrel : s.released y.window = s.released c.window := by
    refine released_congr ?_ s
    rw [hy, List.map_map]
    refine List.map_congr_left fun x _ => ?_
    simp only [Function.comp, Entry.fill]
    split <;> rfl
  have hstep : s.fillContext n set i = (s.withStream i y s.streams.counts).policyTest i := by
    unfold State.fillContext
    simp only [h]
    rw [updCtx_eq_withStream ht h, ← hy]
    simp only [hw]
    exact if_pos he
  have hfaulted : s.faulted i c = (s.onBus fun b =>
      { b with notices := b.notices ++ [.ended i c.id .fault c.delivered c.dropped (inc c.patched)] }).withStream i
      { c with patched := inc c.patched, state := .spent, window := [], gen := { c.gen with closed := true }
               endReason := some .fault, offer := none }
      { s.streams.counts with withdrawn := addCount s.streams.counts.withdrawn c.window.length
                              endFault := inc s.streams.counts.endFault } := by
    have hctx := Sparse.modify_congr ht (n := i) (f := fun x : Context =>
        { x with patched := inc x.patched, state := .spent, window := []
                 gen := { x.gen with closed := true }, endReason := some .fault, offer := none })
      (g := fun _ => { c with patched := inc c.patched, state := .spent, window := [], gen := { c.gen with closed := true }
                              endReason := some .fault, offer := none }) fun a ha => by
        rw [Option.some.inj (ha.symm.trans h)]
    rw [State.faulted, hctx]
    rfl
  rw [hstep, policyTest_strict h hwin ⟨rfl, hset⟩ (by rw [hy]; exact hp), withStream_enterSpent h]
  show (State.onBus _ (s.released y.window)).withStream i _
    (StreamCounts.countEnd .fault { s.streams.counts with withdrawn := addCount _ y.window.length }) = _
  rw [hrel, hlength, released_onBus, ← withStream_released, hfaulted]
  subst hy
  rfl

end

end Sys2Proof.Machine


/-! SUPPORT. The third page of a fetch: the slot VALID or PATCHED, and the entries that wait for it (R77, R107). -/

namespace Sys2Proof.Machine

section
variable {s : State} {n : SlotNo} {slot : Slot}

/-- The slot in a state, the fill counted. -/
def State.validFilled (s : State) (n : SlotNo) : State :=
  (s.updSlot n fun x => { x with state := .valid }).countCache fun k => { k with validFill := inc k.validFill }

def State.patchedFilled (s : State) (n : SlotNo) : State :=
  (s.updSlot n fun x => { x with state := .patched }).countCache fun k => { k with patchedFill := inc k.patchedFill }

theorem fillComplete_valid_unused (h : s.slot? n = some slot) (hp : slot.patched = 0) (hr : slot.refs = 0) :
    s.fillComplete n = (s.validFilled n).toReclaim n := by
  simp only [State.fillComplete, h, if_pos hp, if_pos hr]
  rfl

theorem fillComplete_valid_used (h : s.slot? n = some slot) (hp : slot.patched = 0) (hr : slot.refs ≠ 0)
    (ht : Sparse.wf s.streams.contexts) : s.fillComplete n = (s.validFilled n).mapCtx (Context.filled n 0) := by
  simp only [State.fillComplete, h, if_neg hr, hp]
  exact fillWindows (s := s.validFilled n) ht fun _ _ => .inl rfl

theorem fillComplete_patched_unused (h : s.slot? n = some slot) (hp : slot.patched ≠ 0) (hr : slot.refs = 0) :
    s.fillComplete n = ((s.patchedFilled n).emptySlot n).countCache fun k => { k with patchedRelease := inc k.patchedRelease } := by
  simp only [State.fillComplete, h, if_neg hp, if_pos hr]
  rfl

theorem fillComplete_patched_used (h : s.slot? n = some slot) (hp : slot.patched ≠ 0) (hr : slot.refs ≠ 0)
    (ht : Sparse.wf s.streams.contexts) (htol : ∀ p ∈ s.streams.contexts, p.2.policy = .tolerant) :
    s.fillComplete n = (s.patchedFilled n).mapCtx (Context.filled n slot.patched) := by
  simp only [State.fillComplete, h, if_neg hp, if_neg hr]
  exact fillWindows (s := s.patchedFilled n) ht fun p hp => .inr (htol p hp)

theorem faulted_wf {i : Nat} {c : Context} (ht : Sparse.wf s.streams.contexts) : Sparse.wf (s.faulted i c).streams.contexts := by
  rw [State.faulted]
  dsimp only
  exact Sparse.modify_wf ht i _

theorem fillComplete_patched_strict {i : Nat} {c : Context} {e : Entry} {rest : List Entry} (h : s.slot? n = some slot)
    (hp : slot.patched ≠ 0) (hr : slot.refs ≠ 0) (ht : Sparse.wf s.streams.contexts) (hc : s.ctx? i = some c)
    (hpolicy : c.policy = .strict) (hw : c.window = e :: rest) (he : e.slot = some n)
    (hothers : ∀ p ∈ s.streams.contexts, p.1 ≠ i → ∀ x ∈ p.2.window, x.slot ≠ some n) :
    s.fillComplete n = ((s.patchedFilled n).faulted i c).released c.window := by
  simp only [State.fillComplete, h, if_neg hp, if_neg hr]
  have hmem : i ∈ s.live := List.mem_map_of_mem (f := Prod.fst) (Sparse.mem_of_get hc)
  obtain ⟨before, after, hl⟩ := List.append_of_mem hmem
  have hnodup := live_nodup ht
  rw [hl] at hnodup
  have hb : ∀ j ∈ before, j ≠ i := fun j hj he => (List.nodup_append.mp hnodup).2.2 j hj i (by simp) he
  have ha : ∀ j ∈ after, j ≠ i := fun j hj he => (List.nodup_cons.mp (List.nodup_append.mp hnodup).2.1).1 (he ▸ hj)
  have hstill : ∀ j, j ≠ i → ∀ d, s.ctx? j = some d → ∀ x ∈ d.window, x.slot ≠ some n := fun j hj d hd =>
    hothers (j, d) (Sparse.mem_of_get hd) hj
  show (s.patchedFilled n).live.foldl (State.fillContext n slot.patched) (s.patchedFilled n) = _
  rw [show (s.patchedFilled n).live = before ++ i :: after from hl, List.foldl_append, List.foldl_cons,
    foldl_fillContext_still (s := s.patchedFilled n) ht fun j hj => hstill j (hb j hj),
    fillContext_strict (s := s.patchedFilled n) ht hc hpolicy hw he hp]
  refine foldl_fillContext_still ?_ fun j hj d hd => ?_
  · rw [released_streams]
    exact faulted_wf ht
  · rw [released_ctx?] at hd
    refine hstill j (ha j hj) d ?_
    rw [← hd]
    exact (ctx?_updCtx_other (s := s) (ha j hj) _).symm

/-! ### What a release leaves of a channel -/

/-- A channel that releases have gone over: its work and its flags stay, and its queue only loses fetches. -/
structure ReleasedChannel (c d : Channel) : Prop where
  offline : d.offline = c.offline
  op : d.op = c.op
  probePending : d.probePending = c.probePending
  kept : ∀ f ∈ d.queue, ∃ g ∈ c.queue, g.slot = f.slot ∧ g.pagesDone = f.pagesDone
  partials : d.partials.length ≤ c.partials.length

theorem ReleasedChannel.refl (c : Channel) : ReleasedChannel c c := ⟨rfl, rfl, rfl, fun f hf => ⟨f, hf, rfl, rfl⟩, Nat.le_refl _⟩

theorem ReleasedChannel.trans {a b c : Channel} (h : ReleasedChannel a b) (h' : ReleasedChannel b c) : ReleasedChannel a c :=
  ⟨h'.offline.trans h.offline, h'.op.trans h.op, h'.probePending.trans h.probePending, fun f hf => by
    obtain ⟨g, hg, hgf⟩ := h'.kept f hf
    obtain ⟨x, hx, hxg⟩ := h.kept g hg
    exact ⟨x, hx, hxg.1.trans hgf.1, hxg.2.trans hgf.2⟩, h'.partials.trans h.partials⟩

theorem ReleasedChannel.queue {a b : Channel} (h : ReleasedChannel a b) (ha : a.queue = []) : b.queue = [] :=
  List.eq_nil_iff_forall_not_mem.mpr fun f hf => by
    obtain ⟨g, hg, -⟩ := h.kept f hf
    rw [ha] at hg
    cases hg

/-- A change of a slot's fetch that keeps its slot and its pages done. -/
theorem partials_mapFetch {g : Fetch → Fetch} (hg : ∀ x, (g x).pagesDone = x.pagesDone) (k : Channel) :
    (k.mapFetch n g).partials.length = k.partials.length := by
  rw [Channel.partials, Channel.mapFetch, List.filter_map, List.length_map, Channel.partials]
  refine congrArg List.length (List.filter_congr fun x _ => ?_)
  rw [Function.comp]
  split
  · rw [hg]
  · rfl

theorem releasedChannel_updChan {c : ChannelNo} {f : Channel → Channel} (h : ∀ k, ReleasedChannel k (f k)) (d : ChannelNo) :
    ReleasedChannel (s.chan d) ((s.updChan c f).chan d) := by
  rw [chan_updChan]
  split
  · rename_i hd
    exact hd ▸ h _
  · exact .refl _

theorem releasedChannel_cache {t : State} {k : Channel} {d : ChannelNo} (h : t.fetch = s.fetch)
    (hk : ReleasedChannel (t.chan d) k) : ReleasedChannel (s.chan d) k := by
  unfold State.chan at *
  rwa [h] at hk

theorem cancelFetch_channel (d : ChannelNo) : ReleasedChannel (s.chan d) ((s.cancelFetch n).chan d) := by
  unfold State.cancelFetch
  split
  · exact .refl _
  · split
    · exact .refl _
    · split
      · split
        · refine releasedChannel_updChan ?_ d
          refine fun k => ⟨rfl, rfl, rfl, fun f hf => ?_, (partials_mapFetch (g := fun x => { x with cancelPending := true }) (fun _ => rfl) k).le⟩
          obtain ⟨x, hx, rfl⟩ := List.mem_map.mp hf
          refine ⟨x, hx, ?_⟩
          split <;> exact ⟨rfl, rfl⟩
        · exact .refl _
      · rw [removeFetch_eq]
        refine releasedChannel_cache ?_ (releasedChannel_updChan ?_ d)
        · rfl
        exact fun k => ⟨rfl, rfl, rfl, fun f hf => ⟨f, (List.mem_filter.mp hf).1, rfl, rfl⟩, (List.filter_sublist.filter _).length_le⟩

theorem releaseEntry_channel (e : Entry) (d : ChannelNo) : ReleasedChannel (s.chan d) ((s.releaseEntry e).chan d) := by
  unfold State.releaseEntry
  split
  · rename_i m _
    unfold State.releaseRef
    split
    · exact .refl _
    · dsimp only
      split
      · split
        · exact .refl _
        · exact .refl _
        · exact cancelFetch_channel (s := s.updSlot m fun x => { x with refs := x.refs - 1 }) d
      · exact .refl _
  · exact .refl _

/-- What a fill's completion leaves: the directory, the bytes of the DRAM, and each channel as releases leave it. -/
structure KeepsReads (s t : State) : Prop where
  dir : t.dir = s.dir
  dram : t.cache.dram = s.cache.dram
  chan : ∀ d, ReleasedChannel (s.chan d) (t.chan d)

theorem KeepsReads.refl (s : State) : KeepsReads s s := ⟨rfl, rfl, fun _ => .refl _⟩

theorem KeepsReads.trans {t u : State} (h : KeepsReads s t) (h' : KeepsReads t u) : KeepsReads s u :=
  ⟨h'.dir.trans h.dir, h'.dram.trans h.dram, fun d => (h.chan d).trans (h'.chan d)⟩

theorem KeepsReads.same {t u : State} (h : KeepsReads s t) (hdir : u.dir = t.dir) (hdram : u.cache.dram = t.cache.dram)
    (hfetch : u.fetch = t.fetch) : KeepsReads s u :=
  ⟨hdir.trans h.dir, hdram.trans h.dram, fun d => by
    rw [show u.chan d = t.chan d by rw [State.chan, State.chan, hfetch]]
    exact h.chan d⟩

theorem cancelFetch_dram : (s.cancelFetch n).cache.dram = s.cache.dram := by
  unfold State.cancelFetch
  split
  · rfl
  · split
    · rfl
    · split
      · split <;> rfl
      · rfl

theorem releaseEntry_dram (e : Entry) : (s.releaseEntry e).cache.dram = s.cache.dram := by
  unfold State.releaseEntry
  split
  · rename_i m _
    unfold State.releaseRef
    split
    · rfl
    · dsimp only
      split
      · split
        · rfl
        · rfl
        · exact cancelFetch_dram (s := s.updSlot m fun x => { x with refs := x.refs - 1 })
      · rfl
  · rfl

theorem releaseEntry_keepsReads (e : Entry) : KeepsReads s (s.releaseEntry e) :=
  ⟨(Moves.frame (Moves.releaseEntry (g := true) .refl)).2.2.1, releaseEntry_dram e, releaseEntry_channel e⟩

end

section
variable {s t : State} {n : SlotNo}

theorem KeepsReads.foldl {α : Type} {f : State → α → State} (h : ∀ (u : State) (a : α), KeepsReads u (f u a)) (l : List α)
    (ht : KeepsReads s t) : KeepsReads s (l.foldl f t) := by
  induction l generalizing t with
  | nil => exact ht
  | cons a rest ih => exact ih (ht.trans (h t a))

theorem KeepsReads.countStreams {f : StreamCounts → StreamCounts} (ht : KeepsReads s t) : KeepsReads s (t.countStreams f) :=
  ht.same rfl rfl rfl

theorem KeepsReads.updCtx {i : Nat} {f : Context → Context} (ht : KeepsReads s t) : KeepsReads s (t.updCtx i f) :=
  ht.same rfl rfl rfl

theorem KeepsReads.onBus {f : BusPort → BusPort} (ht : KeepsReads s t) : KeepsReads s (t.onBus f) := ht.same rfl rfl rfl

theorem KeepsReads.withdraw (entries : List Entry) (ht : KeepsReads s t) : KeepsReads s (t.withdraw entries) :=
  KeepsReads.foldl (fun _ e => .countStreams (releaseEntry_keepsReads e)) entries ht

theorem KeepsReads.enterSpent (i : Nat) (reason : EndReason) (ht : KeepsReads s t) : KeepsReads s (t.enterSpent i reason) := by
  unfold State.enterSpent
  split
  · exact ht
  · exact .onBus (.countStreams (.withdraw _ (.updCtx ht)))

theorem KeepsReads.policyTest (i : Nat) (ht : KeepsReads s t) : KeepsReads s (t.policyTest i) := by
  unfold State.policyTest
  split
  · exact ht
  · split
    · exact ht
    · split
      · dsimp only
        split
        · exact .enterSpent i _ (.updCtx ht)
        · exact ht.same rfl rfl rfl
      · exact ht

theorem KeepsReads.fillContext (set : PageSet) (i : Nat) (ht : KeepsReads s t) : KeepsReads s (t.fillContext n set i) := by
  unfold State.fillContext
  split
  · exact ht
  · dsimp only
    split
    · exact ht.same rfl rfl rfl
    · split
      · exact .policyTest i (.updCtx ht)
      · exact ht.same rfl rfl rfl

theorem KeepsReads.fillComplete (ht : KeepsReads s t) : KeepsReads s (t.fillComplete n) := by
  unfold State.fillComplete
  split
  · exact ht
  · rename_i slot _
    dsimp only
    have hwindows : ∀ {u : State}, KeepsReads s u → KeepsReads s (u.live.foldl (State.fillContext n slot.patched) u) :=
      fun hu => hu.foldl (fun _ i => (KeepsReads.refl _).fillContext slot.patched i) _
    by_cases hp : slot.patched = 0
    · rw [if_pos hp]
      split
      · exact ht.same rfl rfl rfl
      · exact hwindows (ht.same rfl rfl rfl)
    · rw [if_neg hp]
      split
      · exact ht.same rfl rfl rfl
      · exact hwindows (ht.same rfl rfl rfl)

end

/-- Settles O24: the page written, the fetch finished, and what the completion of the fill does. -/
theorem fillMakesEntriesReady : Obligations.FillMakesEntriesReady := by
  intro dt ch how n f slot issued s hop hend hq hn hc hd hs hoff hprobe hclear hp hl htable hmem
  obtain ⟨h1, h2, h3, -, -, -, h7, -, -, h10⟩ := counted_queue how (s.chan ch)
  have hqueue : (((s.elapse dt).readEnded ch how).chan ch).queue = [f] := by
    rw [State.readEnded, chan_updChan_self]
    exact h1.trans hq
  have hof : (((s.elapse dt).readEnded ch how).chan ch).fetchOf n = some f := fetchOf_eq (by simp [hqueue]) (by simp [hqueue]) hn
  obtain ⟨g, hg⟩ : ∃ g : Channel → Channel, g = fun k => { how.counted k with
      queue := [], op := none
      counts := { (how.counted k).counts with
        patchedPages := if how.patched = true then inc k.counts.patchedPages else k.counts.patchedPages
        completed := inc k.counts.completed } } := ⟨_, rfl⟩
  obtain ⟨u, hu⟩ : ∃ u : State, u = ((s.elapse dt).reportPage n 2 how.data).updChan ch g := ⟨_, rfl⟩
  have hdone : ((s.elapse dt).readEnded ch how).fetchPageDone ch n how.data = u.fillComplete n := by
    simp only [State.fetchPageDone, hof, hc]
    rw [if_neg (by decide), completePage_third hof (by omega), State.readEnded, reportPage_updChan, updChan_updChan, hu, hd]
    refine congrArg (State.fillComplete n) (updChan_congr _ ch ?_)
    have hfilter : (how.counted (s.chan ch)).queue.filter (fun x => x.slot != n) = [] := by
      rw [h1, hq]
      simp [hn]
    show ({ how.counted (s.chan ch) with
      op := none, queue := (how.counted (s.chan ch)).queue.filter fun x => x.slot != n
      counts := { (how.counted (s.chan ch)).counts with
        patchedPages := if how.data.isNone = true then inc (how.counted (s.chan ch)).counts.patchedPages
          else (how.counted (s.chan ch)).counts.patchedPages
        completed := inc (how.counted (s.chan ch)).counts.completed } } : Channel) = _
    rw [hfilter, h7, h10, how.data_isNone, hg]
    rfl
  have huc : u.chan ch = g (s.chan ch) := by rw [hu, chan_updChan_self]; rfl
  have hgq : (g (s.chan ch)).queue = [] ∧ (g (s.chan ch)).offline = false ∧ (g (s.chan ch)).probePending = false := by
    rw [hg]
    exact ⟨rfl, h2.trans hoff, h3.trans hprobe⟩
  obtain ⟨hgqueue, hgoff, hgprobe⟩ := hgq
  have hkeeps : KeepsReads u (u.fillComplete n) := .fillComplete (.refl u)
  have hidle : (u.fillComplete n).afterOperation ch = u.fillComplete n := by
    have hdir : (u.fillComplete n).dir = s.dir := hkeeps.dir.trans (by rw [hu]; rfl)
    have hch := hkeeps.chan ch
    rw [huc] at hch
    exact afterOperation_idle (hch.probePending.trans hgprobe) (hch.offline.trans hgoff) (by rw [hdir]; exact hp)
      (by rw [hdir]; exact hl) (hch.queue hgqueue)
  have hexec : exec (how.ofFetch dt ch) s = .next (u.fillComplete n).finish := by
    rw [fetchPage_ends hop hend, hdone, hidle]
  have hset : (if how.data.isNone then slot.patched ||| onlyPage 2 else slot.patched) =
      if how.patched = true then slot.patched ||| 4#3 else slot.patched := by
    rw [how.data_isNone]
    rfl
  have hslots : u.cache.slots = Sparse.modify s.cache.slots n.val fun x : Slot =>
      { x with pagesDone := x.pagesDone + 1, patched := if how.data.isNone then x.patched ||| onlyPage 2 else x.patched } := by
    rw [hu]
    rfl
  have hslot : u.slot? n = some { slot with
      pagesDone := slot.pagesDone + 1, patched := if how.patched = true then slot.patched ||| 4#3 else slot.patched } := by
    rw [State.slot?, hslots, Sparse.get_modify, if_pos rfl, show Sparse.get s.cache.slots n.val = some slot from hs, ← hset]
    rfl
  obtain ⟨set, hsetdef⟩ : ∃ set : PageSet, set = if how.patched = true then slot.patched ||| 4#3 else slot.patched := ⟨_, rfl⟩
  rw [← hsetdef] at hslot hset ⊢
  have hfull : ∀ state : SlotState, Sparse.modify u.cache.slots n.val (fun x : Slot => { x with state := state }) =
      Sparse.modify s.cache.slots n.val fun x => { x with pagesDone := x.pagesDone + 1, state := state, patched := set } := fun state => by
    rw [hslots, Sparse.modify_modify]
    refine Sparse.modify_congr htable.2.2.1 fun a ha => ?_
    rw [Option.some.inj (ha.symm.trans hs), ← hset]
  have hdram : (u.fillComplete n).finish.cache.dram = (s.cache.withPage n 2 how.data).dram := by
    rw [finish_cache, hkeeps.dram, hu]
    rfl
  obtain ⟨hinside, houtside⟩ := withPage_dram s.cache n 2 hend
  have hwf : Sparse.wf u.streams.contexts := by rw [hu]; exact htable.1
  refine ⟨_, hexec, by rw [hdram]; exact hinside, by rw [hdram]; exact houtside, ?_⟩
  rw [hdram]
  intro seteq done full filled seen counts patched
  refine ⟨fun hzero => (finish_settles _).of_plain ?_, fun hne hr => (finish_settles _).of_plain ?_,
    fun hne hr => ⟨fun htol => (finish_settles _).of_plain ?_, fun i c e rest hc hstrict hw he hothers => ?_⟩⟩
  · by_cases hr : slot.refs = 0
    · rw [fillComplete_valid_unused hslot hzero hr]
      simp only [done, full, if_pos hr]
      rw [← hfull .valid, hu, hg]
      rfl
    · have hctx : s.streams.contexts.map (fun p => (p.1, seen p.2)) =
          s.streams.contexts.map fun p => (p.1, p.2.filled n 0) := List.map_congr_left fun p _ => by
        simp [seen, filled, seteq, Context.filled, Entry.fill, hzero]
      rw [fillComplete_valid_used hslot hzero hr hwf]
      simp only [done, full, if_neg hr]
      rw [hctx, ← hfull .valid, hu, hg]
      rfl
  · have herase : Sparse.erase (Sparse.modify u.cache.slots n.val fun x : Slot => { x with state := .patched }) n.val =
        Sparse.erase s.cache.slots n.val := by rw [Sparse.erase_modify, hslots, Sparse.erase_modify]
    rw [fillComplete_patched_unused hslot hne hr]
    simp only [done, counts]
    rw [← herase, hu, hg]
    rfl
  · have hctx : (s.streams.contexts.map fun p => (p.1, { seen p.2 with
          patched := if p.2.window.head?.bind Entry.slot = some n then inc p.2.patched else p.2.patched })) =
        s.streams.contexts.map fun p => (p.1, p.2.filled n set) := List.map_congr_left fun p _ => by
      simp [seen, filled, seteq, Context.filled, Entry.fill, show ¬ set = 0#3 from hne]
    rw [fillComplete_patched_used hslot hne hr hwf (by rw [hu]; exact htol)]
    simp only [done, full, patched, counts]
    rw [hctx, ← hfull .patched, hu, hg]
    rfl
  · intro ended
    have hctx : u.ctx? i = some c := by rw [hu]; exact hc
    rw [fillComplete_patched_strict hslot hne hr hwf hctx hstrict hw he (by rw [hu]; exact hothers)]
    have hplain : ((u.patchedFilled n).faulted i c).plain = ({ ended with bus := { s.bus with
        notices := s.bus.notices ++ [Notice.ended i c.id .fault c.delivered c.dropped (inc c.patched)] } } : State).plain := by
      simp only [ended, done, full, patched, counts]
      rw [← hfull .patched, hu, hg]
      rfl
    exact (finish_settles _).of_plain (by rw [released_plain, hplain, ← released_plain])

end Sys2Proof.Machine


/-! SUPPORT. The queue of a channel that goes OFFLINE, completed patched fetch by fetch (R107, R119, R123). -/

namespace Sys2Proof.Machine

/-! ### The windows and the slots of a completed queue -/

/-- The patched-page set of a fetch's slot once its remaining pages are patched. -/
def State.fullSet (s : State) (f : Fetch) : PageSet := ((s.slot? f.slot).map Slot.patched).getD 0 ||| (7#3 <<< f.pagesDone)

/-- The set that the completion of a queue gives an entry: that of the fetch of the entry's slot. -/
def State.setFor (s : State) (queue : List Fetch) (e : Entry) : Option PageSet :=
  (queue.find? fun f => decide (e.slot = some f.slot)).map s.fullSet

/-- An entry that becomes ready with a set, or stays. -/
def Entry.marked (e : Entry) : Option PageSet → Entry
  | some set => { e with ready := true, patched := set }
  | none => e

/-- A context of a TOLERANT stream whose entries become ready with their sets. -/
def Context.marked (set : Entry → Option PageSet) (c : Context) : Context :=
  { c with
    window := c.window.map fun e => e.marked (set e)
    patched := if (c.window.head?.bind set).isSome then inc c.patched else c.patched }

/-- The fetches of a queue whose slots nothing refers to. -/
def State.unused (s : State) (queue : List Fetch) : List Fetch :=
  queue.filter fun f => decide ((s.slot? f.slot).map Slot.refs = some 0)

/-- The slot of a fetch, completed patched. -/
def State.slotPatched (s : State) (f : Fetch) (slot : Slot) : Option Slot :=
  if slot.refs = 0 then none
  else some { slot with state := .patched, pagesDone := slot.pagesDone + (3 - f.pagesDone), patched := s.fullSet f }

/-- The completion of a queue patched, in the cache and the windows: what the obligations say of it, in named parts. -/
structure PatchRun (queue : List Fetch) (s t : State) : Prop where
  zero : ∀ f ∈ queue, ∀ a, Dram.pageAddress f.slot f.pagesDone ≤ a → a < Dram.pageAddress f.slot 3 → Dram.read t.cache.dram a = 0
  same : ∀ a, (∀ f ∈ queue, a < Dram.pageAddress f.slot f.pagesDone ∨ Dram.pageAddress f.slot 3 ≤ a) →
    Dram.read t.cache.dram a = Dram.read s.cache.dram a
  slot : ∀ f ∈ queue, ∀ slot, s.slot? f.slot = some slot → t.slot? f.slot = s.slotPatched f slot
  other : ∀ n, (∀ f ∈ queue, f.slot ≠ n) → t.slot? n = s.slot? n
  reclaim : t.cache.reclaim = s.cache.reclaim
  freeNext : t.cache.freeNext = s.cache.freeNext
  freeTail : ∃ joined, t.cache.freeTail = s.cache.freeTail ++ joined ∧ joined.Perm ((s.unused queue).map Fetch.slot)
  counts : t.cache.counts = { s.cache.counts with
    patchedFill := addCount s.cache.counts.patchedFill queue.length
    patchedRelease := addCount s.cache.counts.patchedRelease (s.unused queue).length }
  streams : t.streams = { s.streams with contexts := s.streams.contexts.map fun p => (p.1, p.2.marked (s.setFor queue)) }

section
variable {s t u : State} {f : Fetch} {queue : List Fetch}

theorem PatchRun.queuePatched (h : PatchRun queue s t) : QueuePatched queue s t := by
  refine ⟨h.zero, h.same, h.slot, h.other, h.reclaim, h.freeNext, h.freeTail, h.counts, h.streams.trans ?_⟩
  refine congrArg (fun l => { s.streams with contexts := l }) (List.map_congr_left fun p _ => ?_)
  have hentry : ∀ e : Entry, e.marked (s.setFor queue e) = e.marked
      ((queue.find? fun f => decide (e.slot = some f.slot)).map s.fullSet) := fun _ => rfl
  have hhead : (p.2.window.head?.bind (s.setFor queue)).isSome =
      (p.2.window.head?.bind fun e => queue.find? fun f => decide (e.slot = some f.slot)).isSome := by
    cases p.2.window.head? <;> simp [State.setFor]
  rw [Context.marked, hhead]
  refine congrArg (Prod.mk p.1) (congrArg (fun w => ({ p.2 with window := w, patched := _ } : Context))
    (List.map_congr_left fun e _ => ?_))
  rw [hentry]
  dsimp only
  cases queue.find? fun f => decide (e.slot = some f.slot) <;> rfl

theorem PatchRun.congr {t' : State} (h : PatchRun queue s t) (hcache : t'.cache = t.cache) (hstreams : t'.streams = t.streams) :
    PatchRun queue s t' where
  zero := by rw [hcache]; exact h.zero
  same := by rw [hcache]; exact h.same
  slot := by unfold State.slot?; rw [hcache]; exact h.slot
  other := by unfold State.slot?; rw [hcache]; exact h.other
  reclaim := by rw [hcache]; exact h.reclaim
  freeNext := by rw [hcache]; exact h.freeNext
  freeTail := by rw [hcache]; exact h.freeTail
  counts := by rw [hcache]; exact h.counts
  streams := hstreams.trans h.streams

theorem marked_still {set : Entry → Option PageSet} {c : Context} (h : ∀ e ∈ c.window, set e = none) : c.marked set = c := by
  have hwindow : (c.window.map fun e => e.marked (set e)) = c.window :=
    (List.map_congr_left fun e he => by rw [h e he]; rfl).trans (List.map_id _)
  have hhead : c.window.head?.bind set = none := by
    cases hw : c.window with
    | nil => rfl
    | cons e rest => exact h e (by simp [hw])
  rw [Context.marked, hwindow, hhead]
  rfl

theorem map_marked_still {set : Entry → Option PageSet} {l : List (Nat × Context)}
    (h : ∀ p ∈ l, ∀ e ∈ p.2.window, set e = none) : (l.map fun p => (p.1, p.2.marked set)) = l :=
  (List.map_congr_left fun p hp => by rw [marked_still (h p hp)]; rfl).trans (List.map_id _)

theorem PatchRun.nil : PatchRun [] s s where
  zero := by simp
  same := by simp
  slot := by simp
  other := by simp
  reclaim := rfl
  freeNext := rfl
  freeTail := ⟨[], by simp, by simp [State.unused]⟩
  counts := by simp [State.unused]
  streams := by
    rw [map_marked_still (set := s.setFor []) fun _ _ _ _ => rfl]

/-! ### The order of the fetches -/

theorem setFor_eq_some (hnodup : (queue.map Fetch.slot).Nodup) {e : Entry} {set : PageSet} :
    s.setFor queue e = some set ↔ ∃ f ∈ queue, e.slot = some f.slot ∧ s.fullSet f = set := by
  induction queue with
  | nil => simp [State.setFor]
  | cons f rest ih =>
    obtain ⟨hf, hrest⟩ := List.nodup_cons.mp hnodup
    by_cases he : e.slot = some f.slot
    · have hno : ∀ g ∈ rest, e.slot ≠ some g.slot := fun g hg h =>
        hf (Option.some.inj (he.symm.trans h) ▸ List.mem_map_of_mem hg)
      rw [State.setFor, List.find?_cons_of_pos (by simpa using he)]
      constructor
      · exact fun h => ⟨f, List.mem_cons_self, he, Option.some.inj h⟩
      · rintro ⟨g, hg, hge, rfl⟩
        rcases List.mem_cons.mp hg with rfl | hg
        · rfl
        · exact absurd hge (hno g hg)
    · rw [State.setFor, List.find?_cons_of_neg (by simpa using he)]
      refine (ih hrest).trans ⟨fun ⟨g, hg, h⟩ => ⟨g, List.mem_cons_of_mem _ hg, h⟩, fun ⟨g, hg, h⟩ => ?_⟩
      rcases List.mem_cons.mp hg with rfl | hg
      · exact absurd h.1 he
      · exact ⟨g, hg, h⟩

theorem setFor_perm {q : List Fetch} (hnodup : (queue.map Fetch.slot).Nodup) (h : queue.Perm q) :
    s.setFor queue = s.setFor q := by
  ext e set
  rw [setFor_eq_some hnodup, setFor_eq_some ((h.map Fetch.slot).nodup hnodup)]
  simp only [h.mem_iff]

theorem PatchRun.perm {q : List Fetch} (hnodup : (queue.map Fetch.slot).Nodup) (h : PatchRun queue s t) (hq : queue.Perm q) :
    PatchRun q s t where
  zero f hf := h.zero f (hq.mem_iff.mpr hf)
  same a ha := h.same a fun f hf => ha f (hq.mem_iff.mp hf)
  slot f hf := h.slot f (hq.mem_iff.mpr hf)
  other n hn := h.other n fun f hf => hn f (hq.mem_iff.mp hf)
  reclaim := h.reclaim
  freeNext := h.freeNext
  freeTail := by
    obtain ⟨joined, htail, hjoined⟩ := h.freeTail
    exact ⟨joined, htail, hjoined.trans ((hq.filter _).map _)⟩
  counts := by rw [h.counts, hq.length_eq, State.unused, State.unused, (hq.filter _).length_eq]
  streams := by rw [h.streams, setFor_perm hnodup hq]

/-! ### One fetch, and then the others -/

/-- The pages of two slots lie apart. -/
theorem pages_apart {n m : SlotNo} {i j a : Nat} (h : n ≠ m) (hlo : Dram.pageAddress n i ≤ a) (hhi : a < Dram.pageAddress n 3) :
    a < Dram.pageAddress m j ∨ Dram.pageAddress m 3 ≤ a := by
  have hne : n.val ≠ m.val := fun he => h (Fin.ext he)
  simp only [Dram.pageAddress, show Config.blockBytes = 12288 from rfl, show Config.pageBytes = 4096 from rfl] at *
  omega

theorem marked_slot (e : Entry) (set : Option PageSet) : (e.marked set).slot = e.slot := by cases set <;> rfl

theorem setFor_slot {e e' : Entry} (h : e.slot = e'.slot) : s.setFor queue e = s.setFor queue e' := by
  rw [State.setFor, State.setFor, h]

theorem marked_marked {a b : Entry → Option PageSet} (hb : ∀ e e' : Entry, e.slot = e'.slot → b e = b e')
    (hab : ∀ e, a e ≠ none → b e = none) (c : Context) :
    (c.marked a).marked b = c.marked fun e => (a e).or (b e) := by
  have hentry : ∀ e : Entry, (e.marked (a e)).marked (b (e.marked (a e))) = e.marked ((a e).or (b e)) := fun e => by
    rw [hb (e.marked (a e)) e (marked_slot e _)]
    cases ha : a e with
    | none => rfl
    | some set => rw [hab e (by simp [ha])]; rfl
  simp only [Context.marked, List.map_map, List.head?_map]
  congr 1
  · exact List.map_congr_left fun e _ => hentry e
  · cases c.window.head? with
    | none => rfl
    | some e =>
      simp only [Option.map_some, Option.bind_some]
      rw [hb (e.marked (a e)) e (marked_slot e _)]
      by_cases ha : a e = none
      · simp [ha]
      · obtain ⟨set, hset⟩ := Option.ne_none_iff_exists'.mp ha
        simp [hset, hab e ha]

theorem PatchRun.cons (hf : ∀ g ∈ queue, g.slot ≠ f.slot) (h : PatchRun [f] s t) (h' : PatchRun queue t u) :
    PatchRun (f :: queue) s u := by
  have hstill : ∀ g ∈ queue, t.slot? g.slot = s.slot? g.slot := fun g hg =>
    h.other g.slot fun x hx => by rw [List.mem_singleton.mp hx]; exact (hf g hg).symm
  have hunused : t.unused queue = s.unused queue := List.filter_congr fun g hg => by rw [hstill g hg]
  have hfull : ∀ g ∈ queue, t.fullSet g = s.fullSet g := fun g hg => by rw [State.fullSet, State.fullSet, hstill g hg]
  have hsplit : s.unused (f :: queue) = s.unused [f] ++ s.unused queue := List.filter_append (l₁ := [f]) (l₂ := queue)
  have hset : t.setFor queue = s.setFor queue := by
    funext e
    rw [State.setFor, State.setFor]
    cases hfind : queue.find? fun f => decide (e.slot = some f.slot) with
    | none => rfl
    | some g => exact congrArg some (hfull g (List.mem_of_find?_eq_some hfind))
  have hown : ∀ e : Entry, s.setFor [f] e ≠ none → s.setFor queue e = none := fun e he => by
    have hslot : e.slot = some f.slot := by
      by_contra hne
      exact he (by rw [State.setFor, List.find?_cons_of_neg (by simpa using hne)]; rfl)
    rw [State.setFor, List.find?_eq_none.mpr fun g hg => ?_]
    · rfl
    · rw [hslot]
      simpa using (hf g hg).symm
  have hjoint : s.setFor (f :: queue) = fun e => (s.setFor [f] e).or (s.setFor queue e) := by
    funext e
    by_cases he : e.slot = some f.slot
    · simp [State.setFor, he]
    · simp [State.setFor, he]
  refine ⟨?_, ?_, ?_, ?_, h'.reclaim.trans h.reclaim, h'.freeNext.trans h.freeNext, ?_, ?_, ?_⟩
  · intro g hg a hlo hhi
    rcases List.mem_cons.mp hg with rfl | hg
    · rw [h'.same a fun x hx => pages_apart (hf x hx).symm hlo hhi]
      exact h.zero g (by simp) a hlo hhi
    · exact h'.zero g hg a hlo hhi
  · intro a ha
    exact (h'.same a fun g hg => ha g (List.mem_cons_of_mem _ hg)).trans
      (h.same a fun g hg => ha g (List.mem_singleton.mp hg ▸ List.mem_cons_self))
  · intro g hg slot hslot
    rcases List.mem_cons.mp hg with rfl | hg
    · exact (h'.other g.slot fun x hx => hf x hx).trans (h.slot g (by simp) slot hslot)
    · rw [h'.slot g hg slot ((hstill g hg).trans hslot), State.slotPatched, State.slotPatched, hfull g hg]
  · intro n hn
    exact (h'.other n fun g hg => hn g (List.mem_cons_of_mem _ hg)).trans
      (h.other n fun g hg => hn g (List.mem_singleton.mp hg ▸ List.mem_cons_self))
  · obtain ⟨joined, htail, hjoined⟩ := h.freeTail
    obtain ⟨joined', htail', hjoined'⟩ := h'.freeTail
    refine ⟨joined ++ joined', by rw [htail', htail, List.append_assoc], ?_⟩
    rw [hsplit, List.map_append]
    exact hjoined.append (hunused ▸ hjoined')
  · rw [h'.counts, h.counts, hsplit, hunused, List.length_append]
    simp only [addCount_addCount, List.length_cons, List.length_nil, Nat.zero_add, Nat.add_comm queue.length]
  · rw [h'.streams, h.streams, hset, List.map_map, hjoint]
    refine congrArg (fun l => { s.streams with contexts := l }) (List.map_congr_left fun p _ => ?_)
    exact congrArg (Prod.mk p.1) (marked_marked (fun e e' he => setFor_slot he) hown p.2)

/-! ### A page reported patched, and the fetch that has it behind it -/

theorem slot?_reportPage (n m : SlotNo) (j : Nat) : (s.reportPage n j none).slot? m = if n = m
    then (s.slot? m).map fun x => { x with pagesDone := x.pagesDone + 1, patched := x.patched ||| onlyPage j } else s.slot? m := by
  rw [reportPage_eq]
  simp only [State.slot?, Cache.withPage, Sparse.get_modify, Option.isNone_none, if_true]
  by_cases h : n = m
  · rw [if_pos h, if_pos (congrArg Fin.val h)]
  · rw [if_neg h, if_neg fun he => h (Fin.ext he)]

theorem reportPage_zeros (n : SlotNo) (j a : Nat) : Dram.read (s.reportPage n j none).cache.dram a =
    if Dram.pageAddress n j ≤ a ∧ a < Dram.pageAddress n (j + 1) then 0 else Dram.read s.cache.dram a := by
  rw [reportPage_eq]
  show Dram.read (Dram.write s.cache.dram _ (List.replicate 4096 0)) a = _
  have hpage : Dram.pageAddress n (j + 1) = Dram.pageAddress n j + 4096 := by
    simp only [Dram.pageAddress, show Config.blockBytes = 12288 from rfl, show Config.pageBytes = 4096 from rfl]
    omega
  split
  · rename_i h
    obtain ⟨i, rfl⟩ := Nat.exists_eq_add_of_le h.1
    rw [Dram.read_write_inside _ _ _ i (by rw [List.length_replicate]; omega), List.getElem_replicate]
  · rename_i h
    exact Dram.read_write_outside _ _ _ a (by rw [List.length_replicate]; omega)

/-- The sets that remain to be patched, the next page reported. -/
theorem pages_left (set : PageSet) {j : Nat} (h : j < 3) : (set ||| onlyPage j) ||| 7#3 <<< (j + 1) = set ||| 7#3 <<< j := by
  rw [BitVec.or_assoc]
  refine congrArg (set ||| ·) ?_
  interval_cases j <;> rfl

theorem PatchRun.reported {slot : Slot} (hs : s.slot? f.slot = some slot) (hd : f.pagesDone < 3) (hf : ∀ g ∈ queue, g.slot ≠ f.slot)
    (h : PatchRun ({ f with pagesDone := f.pagesDone + 1 } :: queue) (s.reportPage f.slot f.pagesDone none) t) :
    PatchRun (f :: queue) s t := by
  obtain ⟨g, hg⟩ : ∃ g : Fetch, g = { f with pagesDone := f.pagesDone + 1 } := ⟨_, rfl⟩
  obtain ⟨r, hr⟩ : ∃ r : State, r = s.reportPage f.slot f.pagesDone none := ⟨_, rfl⟩
  rw [← hg, ← hr] at h
  have hown : r.slot? f.slot = some { slot with pagesDone := slot.pagesDone + 1, patched := slot.patched ||| onlyPage f.pagesDone } := by
    rw [hr, slot?_reportPage, if_pos rfl, hs]
    rfl
  have hother : ∀ n, n ≠ f.slot → r.slot? n = s.slot? n := fun n hn => by rw [hr, slot?_reportPage, if_neg hn.symm]
  have hgslot : g.slot = f.slot := by rw [hg]
  have hfull : r.fullSet g = s.fullSet f := by
    rw [State.fullSet, State.fullSet, hgslot, hown, hs, hg]
    exact pages_left slot.patched hd
  have hfulls : ∀ x ∈ queue, r.fullSet x = s.fullSet x := fun x hx => by
    rw [State.fullSet, State.fullSet, hother _ (hf x hx)]
  have hunused : (r.unused (g :: queue)).map Fetch.slot = (s.unused (f :: queue)).map Fetch.slot := by
    have hrest : r.unused queue = s.unused queue := List.filter_congr fun x hx => by rw [hother _ (hf x hx)]
    simp only [State.unused, List.filter_cons, hgslot, hown, hs, Option.map_some] at hrest ⊢
    split <;> simp only [List.map_cons, hrest, hgslot]
  have hset : r.setFor (g :: queue) = s.setFor (f :: queue) := by
    funext e
    by_cases he : e.slot = some f.slot
    · simp [State.setFor, he, hgslot, hfull]
    · simp only [State.setFor, List.find?_cons, hgslot, he, decide_false]
      cases hfind : queue.find? fun f => decide (e.slot = some f.slot) with
      | none => rfl
      | some x => exact congrArg some (hfulls x (List.mem_of_find?_eq_some hfind))
  have hlength : (r.unused (g :: queue)).length = (s.unused (f :: queue)).length := by
    simpa using congrArg List.length hunused
  have hread : ∀ a, Dram.read r.cache.dram a = if Dram.pageAddress f.slot f.pagesDone ≤ a
      ∧ a < Dram.pageAddress f.slot (f.pagesDone + 1) then 0 else Dram.read s.cache.dram a := fun a => by
    rw [hr, reportPage_zeros]
  have hpages : g.pagesDone = f.pagesDone + 1 := by rw [hg]
  have hpage : ∀ j k, Dram.pageAddress f.slot (j + k) = Dram.pageAddress f.slot j + 4096 * k := fun j k => by
    simp only [Dram.pageAddress, show Config.blockBytes = 12288 from rfl, show Config.pageBytes = 4096 from rfl]
    omega
  have hone := hpage f.pagesDone 1
  have hthird := hpage (f.pagesDone + 1) (3 - (f.pagesDone + 1))
  rw [show f.pagesDone + 1 + (3 - (f.pagesDone + 1)) = 3 by omega] at hthird
  have hrcache : r.cache.reclaim = s.cache.reclaim ∧ r.cache.freeNext = s.cache.freeNext ∧ r.cache.freeTail = s.cache.freeTail
      ∧ r.cache.counts = s.cache.counts ∧ r.streams = s.streams := by rw [hr]; exact ⟨rfl, rfl, rfl, rfl, rfl⟩
  obtain ⟨hrec, hnext, htail, hcounts, hstreams⟩ := hrcache
  refine ⟨?_, ?_, ?_, ?_, h.reclaim.trans hrec, h.freeNext.trans hnext, ?_, ?_, ?_⟩
  · intro x hx a hlo hhi
    rcases List.mem_cons.mp hx with rfl | hx
    · by_cases hin : Dram.pageAddress x.slot (x.pagesDone + 1) ≤ a
      · refine h.zero g (by simp) a ?_ ?_
        · rwa [hgslot, hpages]
        · rwa [hgslot]
      · rw [h.same a fun y hy => ?_, hread, if_pos ⟨hlo, by omega⟩]
        rcases List.mem_cons.mp hy with rfl | hy
        · rw [hgslot, hpages]
          omega
        · exact pages_apart (hf y hy).symm hlo hhi
    · exact h.zero x (List.mem_cons_of_mem _ hx) a hlo hhi
  · intro a ha
    have hout := ha f (by simp)
    rw [h.same a fun y hy => ?_, hread, if_neg (by omega)]
    rcases List.mem_cons.mp hy with rfl | hy
    · rw [hgslot, hpages]
      omega
    · exact ha y (List.mem_cons_of_mem _ hy)
  · intro x hx y hy
    rcases List.mem_cons.mp hx with rfl | hx
    · obtain rfl := Option.some.inj (hs.symm.trans hy)
      have := h.slot g (by simp) _ (hgslot ▸ hown)
      rw [hgslot] at this
      rw [this, State.slotPatched, State.slotPatched, hfull, hpages]
      simp only [show slot.pagesDone + 1 + (3 - (x.pagesDone + 1)) = slot.pagesDone + (3 - x.pagesDone) by omega]
    · rw [h.slot x (List.mem_cons_of_mem _ hx) y ((hother _ (hf x hx)).trans hy), State.slotPatched, State.slotPatched, hfulls x hx]
  · intro n hn
    refine (h.other n fun x hx => ?_).trans (hother n (hn f (by simp)).symm)
    rcases List.mem_cons.mp hx with rfl | hx
    · rw [hgslot]
      exact hn f (by simp)
    · exact hn x (List.mem_cons_of_mem _ hx)
  · obtain ⟨joined, hj, hperm⟩ := h.freeTail
    exact ⟨joined, by rw [hj, htail], hunused ▸ hperm⟩
  · rw [h.counts, hcounts, hlength]
    rfl
  · rw [h.streams, hset, hstreams]

/-- The fetch's slot is in the table, and where its reference count is 0 no entry refers to it. -/
def State.Fills (s : State) (f : Fetch) : Prop :=
  ∃ slot, s.slot? f.slot = some slot ∧ (slot.refs = 0 → ∀ p ∈ s.streams.contexts, ∀ e ∈ p.2.window, e.slot ≠ some f.slot)

theorem filled_eq_marked (s : State) (f : Fetch) (c : Context) (h : s.fullSet f ≠ 0) :
    c.filled f.slot (s.fullSet f) = c.marked (s.setFor [f]) := by
  have hset : ∀ e : Entry, s.setFor [f] e = if e.slot = some f.slot then some (s.fullSet f) else none := fun e => by
    by_cases he : e.slot = some f.slot <;> simp [State.setFor, he]
  have hentry : ∀ e : Entry, e.fill f.slot (s.fullSet f) = e.marked (s.setFor [f] e) := fun e => by
    rw [hset, Entry.fill]
    split <;> rfl
  rw [Context.filled, Context.marked, List.map_congr_left fun e _ => hentry e]
  congr 1
  cases c.window.head? with
  | none => simp
  | some e =>
    simp only [Option.bind_some, hset, h, ne_eq, not_false_eq_true, true_and]
    split <;> simp [*]

/-- A fill whose third page has been reported patched, in its slot and the windows. -/
theorem PatchRun.filled {slot : Slot} (hs : s.slot? f.slot = some slot) (hf : s.Fills f) (hd : f.pagesDone = 3)
    (hp : slot.patched ≠ 0) (ht : Sparse.wf s.streams.contexts)
    (htol : ∀ p ∈ s.streams.contexts, p.2.policy = .tolerant) : PatchRun [f] s (s.fillComplete f.slot) := by
  have hfull : s.fullSet f = slot.patched := by
    rw [State.fullSet, hs, hd]
    simp
  have hne : s.fullSet f ≠ 0 := hfull ▸ hp
  have hmem : ∀ {x : Fetch}, x ∈ [f] → x = f := fun h => List.mem_singleton.mp h
  have hpages : Dram.pageAddress f.slot f.pagesDone = Dram.pageAddress f.slot 3 := by rw [hd]
  have hempty : ∀ x ∈ [f], ∀ a, Dram.pageAddress x.slot x.pagesDone ≤ a → ¬ a < Dram.pageAddress x.slot 3 := fun x hx a hlo => by
    rw [hmem hx] at hlo ⊢
    omega
  by_cases hr : slot.refs = 0
  · rw [fillComplete_patched_unused hs hp hr]
    have hget : ∀ n : SlotNo, (((s.patchedFilled f.slot).emptySlot f.slot).countCache fun k =>
        { k with patchedRelease := inc k.patchedRelease }).slot? n = if f.slot = n then none else s.slot? n := fun n => by
      show Sparse.get (Sparse.erase (Sparse.modify s.cache.slots f.slot.val fun x : Slot => { x with state := .patched }) f.slot.val) n.val = _
      rw [Sparse.erase_modify, Sparse.get_erase]
      by_cases h : f.slot = n
      · rw [if_pos h, if_pos (congrArg Fin.val h)]
      · rw [if_neg h, if_neg fun he => h (Fin.ext he)]
        rfl
    have hunused : s.unused [f] = [f] := by simp [State.unused, hs, hr]
    refine ⟨fun x hx a hlo hhi => absurd hhi (hempty x hx a hlo), fun _ _ => rfl, fun x hx y hy => ?_, fun n hn => ?_, rfl, rfl,
      ⟨[f.slot], rfl, by rw [hunused]; rfl⟩, by rw [hunused]; rfl, ?_⟩
    · rw [hmem hx] at hy ⊢
      rw [hget, if_pos rfl, State.slotPatched, if_pos (Option.some.inj (hs.symm.trans hy) ▸ hr)]
    · rw [hget, if_neg (hn f (by simp))]
    · obtain ⟨other, hother, hrefs⟩ := hf
      have hnone := hrefs (Option.some.inj (hs.symm.trans hother) ▸ hr)
      rw [map_marked_still fun p hp e he => ?_]
      · rfl
      · simp [State.setFor, hnone p hp e he]
  · rw [fillComplete_patched_used hs hp hr ht htol]
    have hget : ∀ n : SlotNo, ((s.patchedFilled f.slot).mapCtx (Context.filled f.slot slot.patched)).slot? n =
        if f.slot = n then (s.slot? n).map fun x => { x with state := .patched } else s.slot? n := fun n => by
      show Sparse.get (Sparse.modify s.cache.slots f.slot.val fun x : Slot => { x with state := .patched }) n.val = _
      rw [Sparse.get_modify]
      by_cases h : f.slot = n
      · rw [if_pos h, if_pos (congrArg Fin.val h)]
        rfl
      · rw [if_neg h, if_neg fun he => h (Fin.ext he)]
        rfl
    have hunused : s.unused [f] = [] := by simp [State.unused, hs, hr]
    refine ⟨fun x hx a hlo hhi => absurd hhi (hempty x hx a hlo), fun _ _ => rfl, fun x hx y hy => ?_, fun n hn => ?_, rfl, rfl,
      ⟨[], (List.append_nil _).symm, by rw [hunused]; rfl⟩, ?_, ?_⟩
    · rw [hmem hx] at hy ⊢
      obtain rfl := Option.some.inj (hs.symm.trans hy)
      rw [hget, if_pos rfl, hs, State.slotPatched, if_neg hr, hfull, hd]
      rfl
    · rw [hget, if_neg (hn f (by simp))]
    · rw [hunused, List.length_nil, addCount_zero]
      rfl
    · refine congrArg (fun l => { s.streams with contexts := l }) (List.map_congr_left fun p _ => ?_)
      rw [← filled_eq_marked s f p.2 hne, hfull]

/-! ### The remaining pages of a fetch, and of a queue -/

theorem reportPage_fills (h : s.Fills f) (j : Nat) : (s.reportPage f.slot j none).Fills { f with pagesDone := j + 1 } := by
  obtain ⟨slot, hs, hrefs⟩ := h
  exact ⟨{ slot with pagesDone := slot.pagesDone + 1, patched := slot.patched ||| onlyPage j },
    by rw [slot?_reportPage, if_pos rfl, hs]; rfl, hrefs⟩

theorem onlyPage_ne_zero {j : Nat} (h : j < 3) : onlyPage j ≠ 0 := by
  interval_cases j <;> decide

theorem or_eq_zero {a b : PageSet} (h : a ||| b = 0) : b = 0 := by
  have := BitVec.or_eq_zero_iff.mp h
  exact this.2

/-- The pages a fetch has left, reported patched one after another, and the fill completed. -/
theorem PatchRun.pages {left : Nat} (hf : s.Fills f) (hd : f.pagesDone + left = 3)
    (hp : left = 0 → (s.slot? f.slot).map Slot.patched ≠ some 0)
    (ht : Sparse.wf s.streams.contexts) (htol : ∀ p ∈ s.streams.contexts, p.2.policy = .tolerant) :
    ∃ cache streams, PatchRun [f] s { s with cache := cache, streams := streams } ∧ ∀ (c : ChannelNo) (g : Channel → Channel),
      (((List.range left).foldl (fun t i => t.reportPage f.slot (f.pagesDone + i) none) s).updChan c g).fillComplete f.slot =
        ({ s with cache := cache, streams := streams }).updChan c g := by
  induction left generalizing s f with
  | zero =>
    obtain ⟨slot, hs, hrefs⟩ := hf
    have hpatched : slot.patched ≠ 0 := fun h => hp rfl (by rw [hs, ← h]; rfl)
    have hrun := PatchRun.filled (f := f) hs ⟨slot, hs, hrefs⟩ (by omega) hpatched ht htol
    have hgives : ∃ cache streams, ∀ (c : ChannelNo) (g : Channel → Channel), (s.updChan c g).fillComplete f.slot =
        ({ s with cache := cache, streams := streams }).updChan c g ∧ s.fillComplete f.slot = { s with cache := cache, streams := streams } := by
      by_cases hr : slot.refs = 0
      · rw [fillComplete_patched_unused hs hpatched hr]
        obtain ⟨u, hu⟩ : ∃ u : State, u = ((s.patchedFilled f.slot).emptySlot f.slot).countCache fun k =>
            { k with patchedRelease := inc k.patchedRelease } := ⟨_, rfl⟩
        exact ⟨u.cache, u.streams, fun c g => ⟨(fillComplete_patched_unused (s := s.updChan c g) hs hpatched hr).trans (by rw [hu]; rfl), by rw [hu]; rfl⟩⟩
      · rw [fillComplete_patched_used hs hpatched hr ht htol]
        obtain ⟨u, hu⟩ : ∃ u : State, u = (s.patchedFilled f.slot).mapCtx (Context.filled f.slot slot.patched) := ⟨_, rfl⟩
        exact ⟨u.cache, u.streams, fun c g => ⟨(fillComplete_patched_used (s := s.updChan c g) hs hpatched hr ht htol).trans (by rw [hu]; rfl), by rw [hu]; rfl⟩⟩
    obtain ⟨cache, streams, hgives⟩ := hgives
    exact ⟨cache, streams, (hgives 0 id).2 ▸ hrun, fun c g => (hgives c g).1⟩
  | succ left ih =>
    obtain ⟨r, hr⟩ : ∃ r : State, r = s.reportPage f.slot f.pagesDone none := ⟨_, rfl⟩
    obtain ⟨slot, hs, -⟩ := id hf
    have hset : slot.patched ||| onlyPage f.pagesDone ≠ 0 := fun h => onlyPage_ne_zero (by omega) (or_eq_zero h)
    have hpatched : (r.slot? f.slot).map Slot.patched ≠ some 0 := by
      rw [hr, slot?_reportPage, if_pos rfl, hs]
      exact fun h => hset (Option.some.inj h)
    obtain ⟨cache, streams, hrun, hgives⟩ := ih (s := r) (f := { f with pagesDone := f.pagesDone + 1 })
      (hr ▸ reportPage_fills hf _) (by dsimp only; omega) (fun _ => hpatched) (by rw [hr]; exact ht) (by rw [hr]; exact htol)
    · refine ⟨cache, streams, PatchRun.reported hs (by omega) (by simp) (hr ▸ hrun.congr ?_ ?_), fun c g => ?_⟩
      · rfl
      · rfl
      · rw [List.range_succ_eq_map, List.foldl_cons, List.foldl_map, Nat.add_zero, ← hr]
        have hstep : (fun (t : State) i => t.reportPage f.slot (f.pagesDone + Nat.succ i) none) =
            fun (t : State) i => t.reportPage f.slot (f.pagesDone + 1 + i) none := by
          funext t i
          rw [Nat.succ_eq_add_one, Nat.add_right_comm, Nat.add_assoc]
        rw [hstep]
        refine (hgives c g).trans ?_
        rw [hr]
        rfl

/-! ### A queue, fetch by fetch -/

theorem PatchRun.of_updChan {c : ChannelNo} {g : Channel → Channel} (h : PatchRun queue (s.updChan c g) t) : PatchRun queue s t :=
  ⟨h.zero, h.same, h.slot, h.other, h.reclaim, h.freeNext, h.freeTail, h.counts, h.streams⟩

/-- What a queue's completion needs of the state: a canonical context table of TOLERANT streams, and each fetch's slot. -/
structure Fillable (queue : List Fetch) (s : State) : Prop where
  wf : Sparse.wf s.streams.contexts
  tolerant : ∀ p ∈ s.streams.contexts, p.2.policy = .tolerant
  fills : ∀ f ∈ queue, s.Fills f
  pages : ∀ f ∈ queue, f.pagesDone < 3
  nodup : (queue.map Fetch.slot).Nodup

theorem Fillable.updChan {c : ChannelNo} {g : Channel → Channel} (h : Fillable queue s) : Fillable queue (s.updChan c g) :=
  ⟨h.wf, h.tolerant, h.fills, h.pages, h.nodup⟩

theorem Fillable.tail (h : Fillable (f :: queue) s) : Fillable queue s ∧ ∀ g ∈ queue, g.slot ≠ f.slot :=
  ⟨⟨h.wf, h.tolerant, fun g hg => h.fills g (List.mem_cons_of_mem _ hg), fun g hg => h.pages g (List.mem_cons_of_mem _ hg),
    (List.nodup_cons.mp h.nodup).2⟩, fun _ hg he => (List.nodup_cons.mp h.nodup).1 (he ▸ List.mem_map_of_mem hg)⟩

theorem Fillable.perm {q : List Fetch} (h : Fillable queue s) (hq : queue.Perm q) : Fillable q s :=
  ⟨h.wf, h.tolerant, fun f hf => h.fills f (hq.mem_iff.mpr hf), fun f hf => h.pages f (hq.mem_iff.mpr hf),
    (hq.map _).nodup h.nodup⟩

theorem Fillable.reported (h : Fillable queue s) (hf : ∀ g ∈ queue, g.slot ≠ f.slot) (j : Nat) :
    Fillable queue (s.reportPage f.slot j none) :=
  ⟨h.wf, h.tolerant, fun g hg => by
    obtain ⟨slot, hslot, hrefs⟩ := h.fills g hg
    exact ⟨slot, by rw [slot?_reportPage, if_neg (hf g hg).symm, hslot], hrefs⟩, h.pages, h.nodup⟩

theorem PatchRun.fillable (hrun : PatchRun [f] s t) (hf : ∀ g ∈ queue, g.slot ≠ f.slot) (h : Fillable queue s) :
    Fillable queue t := by
  refine ⟨?_, ?_, fun g hg => ?_, h.pages, h.nodup⟩
  · rw [Sparse.wf_iff_keys, hrun.streams, List.map_map]
    exact Sparse.wf_iff_keys.mp h.wf
  · rw [hrun.streams]
    intro p hp
    obtain ⟨q, hq, rfl⟩ := List.mem_map.mp hp
    exact h.tolerant q hq
  · obtain ⟨slot, hslot, hrefs⟩ := h.fills g hg
    refine ⟨slot, ?_, fun hr p hp e he => ?_⟩
    · rw [hrun.other g.slot fun x hx => ?_, hslot]
      rw [List.mem_singleton.mp hx]
      exact (hf g hg).symm
    · rw [hrun.streams] at hp
      obtain ⟨q, hq, rfl⟩ := List.mem_map.mp hp
      obtain ⟨e', he', rfl⟩ := List.mem_map.mp he
      rw [marked_slot]
      exact hrefs hr q hq e' he'

/-- A channel's counts after a queue has completed patched for OFFLINE. -/
def Channel.patchedFor (queue : List Fetch) (k : Channel) : Channel :=
  { k with counts := { k.counts with
      offlinePatched := addCount k.counts.offlinePatched (queue.map fun f => 3 - f.pagesDone).sum
      patchedPages := addCount k.counts.patchedPages (queue.map fun f => 3 - f.pagesDone).sum
      completed := addCount k.counts.completed queue.length } }

theorem finishPatched_run (c : ChannelNo) (h : Fillable (f :: queue) s) : ∃ cache streams,
    PatchRun [f] s { s with cache := cache, streams := streams }
      ∧ s.finishPatched c f = ({ s with cache := cache, streams := streams }).updChan c (Channel.patchedFor [f]) := by
  have hd := h.pages f List.mem_cons_self
  obtain ⟨cache, streams, hrun, hgives⟩ := PatchRun.pages (left := 3 - f.pagesDone) (h.fills f List.mem_cons_self) (by omega)
    (fun h0 => absurd h0 (by omega)) h.wf h.tolerant
  refine ⟨cache, streams, hrun, (hgives c _).trans (updChan_congr _ c ?_)⟩
  simp only [Channel.patchedFor, List.map_cons, List.map_nil, List.sum_cons, List.sum_nil, Nat.add_zero]
  rfl

theorem finishPatched_fold (c : ChannelNo) (h : Fillable queue s) : ∃ cache streams,
    PatchRun queue s { s with cache := cache, streams := streams }
      ∧ queue.foldl (State.finishPatched c) s =
        ({ s with cache := cache, streams := streams }).updChan c (Channel.patchedFor queue) := by
  induction queue generalizing s with
  | nil =>
    refine ⟨s.cache, s.streams, .nil, (updChan_id s c ?_).symm⟩
    simp [Channel.patchedFor]
  | cons f rest ih =>
    obtain ⟨hrest, hother⟩ := h.tail
    obtain ⟨cache, streams, hrun, hstep⟩ := finishPatched_run c h
    obtain ⟨v, hv⟩ : ∃ v : State, v = { s with cache := cache, streams := streams } := ⟨_, rfl⟩
    rw [← hv] at hrun hstep
    obtain ⟨cache', streams', hrun', hfold⟩ := ih (hrun.fillable hother hrest).updChan (s := v.updChan c (Channel.patchedFor [f]))
    refine ⟨cache', streams', (hrun.cons hother hrun'.of_updChan).congr rfl rfl, ?_⟩
    rw [List.foldl_cons, hstep, hfold]
    show State.updChan c _ (State.updChan c _ { v with cache := cache', streams := streams' }) = _
    rw [updChan_updChan, hv]
    refine updChan_congr _ c ?_
    simp only [Channel.patchedFor, addCount_addCount, List.map_cons, List.map_nil, List.sum_cons, List.sum_nil, Nat.add_zero,
      List.length_cons, List.length_nil, Nat.zero_add, Nat.add_comm rest.length]

end

end Sys2Proof.Machine


/-! SUPPORT. A page read's third timeout in a row, and the queue it completes (R122, R123, R129, R175). -/

namespace Sys2Proof.Machine

section
variable {dt : Micros} {ch : ChannelNo} {kind : OperationKind} {issued : Time} {cmd : Instr} {out : PageOutcome} {s w : State}

/-- The command that ends a fetch's read as a timeout. -/
theorem timesOut_exec (hop : (s.chan ch).op = some { kind := kind, issued := issued }) (hreads : kind.readsFetch = true)
    (hcmd : (cmd = .pageTimeout dt ch ∧ 2000 ≤ signedDiff (s.clock.localTime + dt) issued)
      ∨ (cmd = .fetchPageRead dt ch out ∧ 2000 < signedDiff (s.clock.localTime + dt) issued)) :
    exec cmd s = .next ((s.elapse dt).timedOut ch kind).finish := by
  have hop' : ((s.elapse dt).chan ch).op = some { kind := kind, issued := issued } := hop
  rcases hcmd with ⟨rfl, hwait⟩ | ⟨rfl, hwait⟩
  · show execPageTimeout dt ch s = _
    unfold execPageTimeout
    rw [command_eq, hop']
    dsimp only
    rw [if_pos ((ran_iff (s.elapse dt) issued Config.pageTimeout).mpr hwait)]
  · show execFetchPageRead dt ch out s = _
    unfold execFetchPageRead
    rw [command_eq, hop']
    dsimp only
    rw [if_pos hreads, State.takeAnswer, (answerLate_elapse_iff dt s { kind := kind, issued := issued }).mpr hwait, if_pos rfl]

/-- A channel that a probe takes out of OFFLINE. -/
def Channel.reprobed (now : Time) (k : Channel) : Channel :=
  { k with timeouts := 0, offline := false, probePending := false, pageCount := none, op := some { kind := .probe 1, issued := now } }

/-- A channel out of every work, where its operation has ended, or OFFLINE: its pending probe begins, or nothing does. -/
theorem afterOperation_probe (hclear : w.cleared = false) (hp : w.dir.program = none) (hl : w.dir.load = none)
    (hq : (w.chan ch).queue = []) : w.afterOperation ch =
      w.updChan ch fun k => if (w.chan ch).probePending = true then k.reprobed w.now else k := by
  by_cases hprobe : (w.chan ch).probePending = true
  · simp only [State.afterOperation, hclear, hprobe, if_true, State.beginProbe, State.issue, updChan_updChan]
    rfl
  · have hsame : (w.updChan ch fun k => if (w.chan ch).probePending = true then k.reprobed w.now else k) = w :=
      updChan_id w ch (if_neg hprobe)
    rw [hsame]
    by_cases hoff : (w.chan ch).offline = true
    · simp [State.afterOperation, hclear, hprobe, hoff, takeWaitingPage_of_load hl]
    · simp [State.afterOperation, hclear, hprobe, hoff, choose_idle hp hl hq]

/-! ### The channel goes OFFLINE -/

/-- A channel as it enters OFFLINE, its fetches not yet counted. -/
def Channel.enters (k : Channel) : Channel :=
  { k with offline := true, op := none, queue := [], counts := { k.counts with offlineEntries := inc k.counts.offlineEntries } }

theorem goOffline_run (c : ChannelNo) (h : Fillable (s.chan c).queue s) : ∃ cache streams,
    PatchRun (s.chan c).queue s { s with cache := cache, streams := streams }
      ∧ s.goOffline c = ({ s with cache := cache, streams := streams }).updChan c fun k => k.enters.patchedFor (s.chan c).queue := by
  obtain ⟨cache, streams, hrun, hfold⟩ := finishPatched_fold c (h.updChan (c := c) (g := Channel.enters))
  refine ⟨cache, streams, hrun.of_updChan.congr rfl rfl, ?_⟩
  refine Eq.trans hfold ?_
  show State.updChan c _ (State.updChan c _ { s with cache := cache, streams := streams }) = _
  rw [updChan_updChan]

/-- The pages a queue has left to be reported. -/
def pagesLeft (queue : List Fetch) : Nat := (queue.map fun f => 3 - f.pagesDone).sum

/-- A channel that a third timeout has taken OFFLINE: of the pages patched, `own` have timed out and the others are patched for
OFFLINE. -/
def Channel.tookOffline (queue : List Fetch) (own : Nat) (k : Channel) : Channel :=
  { k with timeouts := 3, op := none, queue := [], offline := true
           counts := { k.counts with
             timeout := inc k.counts.timeout, offlineEntries := inc k.counts.offlineEntries
             offlinePatched := addCount k.counts.offlinePatched (pagesLeft queue - own)
             patchedPages := addCount k.counts.patchedPages (pagesLeft queue)
             completed := addCount k.counts.completed queue.length } }

/-- What the third timeout in a row has done when the channel has gone OFFLINE. -/
def TookOffline (ch : ChannelNo) (own : Nat) (s w : State) : Prop := ∃ cache streams,
  PatchRun (s.chan ch).queue s { s with cache := cache, streams := streams }
    ∧ w = ({ s with cache := cache, streams := streams }).updChan ch (Channel.tookOffline (s.chan ch).queue own)

theorem third_discarded (ht : (s.chan ch).timeouts = 2) (h : Fillable (s.chan ch).queue s) :
    TookOffline ch 0 s ((s.updChan ch Channel.countTimeout).goOffline ch) := by
  have hq : ((s.updChan ch Channel.countTimeout).chan ch).queue = (s.chan ch).queue := by rw [chan_updChan_self]; rfl
  obtain ⟨cache, streams, hrun, hgives⟩ := goOffline_run (s := s.updChan ch Channel.countTimeout) ch (by rw [hq]; exact h.updChan)
  rw [hq] at hrun hgives
  refine ⟨cache, streams, hrun.of_updChan.congr rfl rfl, hgives.trans ?_⟩
  show State.updChan ch _ (State.updChan ch _ { s with cache := cache, streams := streams }) = _
  rw [updChan_updChan]
  refine updChan_congr _ ch ?_
  show Channel.patchedFor _ (Channel.enters (Channel.countTimeout (s.chan ch))) = Channel.tookOffline _ 0 (s.chan ch)
  simp only [Channel.patchedFor, Channel.enters, Channel.countTimeout, Channel.tookOffline, ht, pagesLeft, Nat.sub_zero]
  rfl

theorem third_fetch {f : Fetch} (ht : (s.chan ch).timeouts = 2) (h : Fillable (s.chan ch).queue s) (hf : f ∈ (s.chan ch).queue)
    (hc : f.cancelPending = false) :
    TookOffline ch 1 s (((s.updChan ch Channel.countTimeout).fetchPageDone ch f.slot none).goOffline ch) := by
  obtain ⟨before, after, hsplit⟩ := List.append_of_mem hf
  have hq : ((s.updChan ch Channel.countTimeout).chan ch).queue = (s.chan ch).queue := by rw [chan_updChan_self]; rfl
  have hof : ((s.updChan ch Channel.countTimeout).chan ch).fetchOf f.slot = some f :=
    fetchOf_eq (by rw [hq]; exact h.nodup) (by rw [hq]; exact hf) rfl
  have hperm : (s.chan ch).queue.Perm (f :: (before ++ after)) := hsplit ▸ List.perm_middle
  obtain ⟨hothers, hne⟩ := (h.perm hperm).tail
  obtain ⟨slot, hslot, -⟩ := h.fills f hf
  have hd := h.pages f hf
  obtain ⟨r, hr⟩ : ∃ r : State, r = s.reportPage f.slot f.pagesDone none := ⟨_, rfl⟩
  have hrest : Fillable (before ++ after) r := hr ▸ hothers.reported hne f.pagesDone
  obtain ⟨f', hf'⟩ : ∃ f' : Fetch, f' = { f with pagesDone := f.pagesDone + 1 } := ⟨_, rfl⟩
  have hfslot : f'.slot = f.slot := by rw [hf']
  have hfills : r.Fills f' := by rw [hr, hf']; exact reportPage_fills (h.fills f hf) _
  have hdone : (s.updChan ch Channel.countTimeout).fetchPageDone ch f.slot none =
      (s.updChan ch Channel.countTimeout).completePage ch f.slot none := by
    simp only [State.fetchPageDone, hof, hc]
    rw [if_neg (by decide)]
  have hback : ∀ {cache : Cache} {streams : StreamEngine},
      PatchRun (f' :: (before ++ after)) r { s with cache := cache, streams := streams } →
      PatchRun (s.chan ch).queue s { s with cache := cache, streams := streams } := fun hrun => by
    rw [hr, hf'] at hrun
    exact (hrun.reported hslot hd hne).perm (hperm.map _ |>.nodup h.nodup) hperm.symm
  have hleft : pagesLeft (s.chan ch).queue = 3 - f.pagesDone + pagesLeft (before ++ after) := by
    rw [pagesLeft, (hperm.map _).sum_eq, List.map_cons, List.sum_cons]
    rfl
  have hlength : (s.chan ch).queue.length = (before ++ after).length + 1 := by rw [hperm.length_eq, List.length_cons]
  rw [hdone]
  by_cases hearly : f.pagesDone < 2
  · obtain ⟨g, hg⟩ : ∃ g : Channel → Channel, g = fun k => ((k.countTimeout).pageCounted none).mapFetch f.slot fun x =>
        { x with pagesDone := x.pagesDone + 1 } := ⟨_, rfl⟩
    have hpage : (s.updChan ch Channel.countTimeout).completePage ch f.slot none = r.updChan ch g := by
      rw [completePage_early hof hearly, reportPage_updChan, updChan_updChan, hr, hg]
    have hmap : (s.chan ch).queue.map (fun x => if x.slot = f.slot then { x with pagesDone := x.pagesDone + 1 } else x) =
        before ++ f' :: after := by
      have hstay : ∀ l : List Fetch, (∀ x ∈ l, x.slot ≠ f.slot) →
          l.map (fun x => if x.slot = f.slot then { x with pagesDone := x.pagesDone + 1 } else x) = l := fun l hl =>
        (List.map_congr_left fun x hx => if_neg (hl x hx)).trans (List.map_id _)
      rw [hsplit, List.map_append, List.map_cons, if_pos rfl, hstay before fun x hx => hne x (List.mem_append_left _ hx),
        hstay after fun x hx => hne x (List.mem_append_right _ hx), hf']
    have hqueue : ((r.updChan ch g).chan ch).queue = before ++ f' :: after := by
      rw [chan_updChan_self, hr, hg, ← hmap]
      rfl
    have hfull : Fillable (f' :: (before ++ after)) r :=
      ⟨hrest.wf, hrest.tolerant, List.forall_mem_cons.mpr ⟨hfills, hrest.fills⟩,
        List.forall_mem_cons.mpr ⟨by rw [hf']; exact Nat.succ_lt_succ hearly, hrest.pages⟩,
        List.nodup_cons.mpr ⟨fun hin => by
          obtain ⟨x, hx, he⟩ := List.mem_map.mp hin
          exact hne x hx (he.trans hfslot), hrest.nodup⟩⟩
    have hmiddle : Fillable (before ++ f' :: after) r := hfull.perm List.perm_middle.symm
    obtain ⟨cache, streams, hrun, hgives⟩ := goOffline_run (s := r.updChan ch g) ch (by rw [hqueue]; exact hmiddle.updChan)
    rw [hqueue] at hrun hgives
    refine ⟨cache, streams, hback ((hrun.of_updChan.perm hmiddle.nodup List.perm_middle).congr rfl rfl), ?_⟩
    rw [hpage, hgives]
    show State.updChan ch _ (State.updChan ch g { r with cache := cache, streams := streams }) = _
    rw [updChan_updChan, hr]
    refine updChan_congr _ ch ?_
    have hleft' : (List.map (fun f => 3 - f.pagesDone) (before ++ f' :: after)).sum = pagesLeft (s.chan ch).queue - 1 := by
      rw [(List.perm_middle.map _).sum_eq, List.map_cons, List.sum_cons, hleft, hf']
      dsimp only [pagesLeft]
      omega
    show Channel.patchedFor _ (Channel.enters (g (s.chan ch))) = Channel.tookOffline _ 1 (s.chan ch)
    simp only [Channel.patchedFor, hleft', Channel.tookOffline, hg, Channel.enters, Channel.pageCounted, Channel.mapFetch,
      Channel.countTimeout, ht, Option.isNone_none, if_true, addCount_inc]
    rw [show pagesLeft (s.chan ch).queue - 1 + 1 = pagesLeft (s.chan ch).queue by omega,
      show (before ++ f' :: after).length = (s.chan ch).queue.length by rw [hlength]; simp; omega]
    rfl
  · have hset : slot.patched ||| onlyPage f.pagesDone ≠ 0 := fun h0 => onlyPage_ne_zero hd (or_eq_zero h0)
    have hpatched : (r.slot? f'.slot).map Slot.patched ≠ some 0 := by
      rw [hfslot, hr, slot?_reportPage, if_pos rfl, hslot]
      exact fun h0 => hset (Option.some.inj h0)
    obtain ⟨cache, streams, hrun, hgives⟩ := PatchRun.pages (left := 0) hfills (by rw [hf']; dsimp only; omega)
      (fun _ => hpatched) hrest.wf hrest.tolerant
    obtain ⟨g, hg⟩ : ∃ g : Channel → Channel, g = fun k => { (k.countTimeout.pageCounted none).dropFetch f.slot with
        counts := { (k.countTimeout.pageCounted none).counts with completed := inc k.countTimeout.counts.completed } } := ⟨_, rfl⟩
    obtain ⟨v, hv⟩ : ∃ v : State, v = { r with cache := cache, streams := streams } := ⟨_, rfl⟩
    have hpage : (s.updChan ch Channel.countTimeout).completePage ch f.slot none = v.updChan ch g := by
      rw [completePage_third hof hearly, reportPage_updChan, updChan_updChan, ← hr, hv]
      have := hgives ch g
      rw [hfslot, hg] at this
      rw [hg]
      exact this
    rw [← hv] at hrun
    have hqueue : ((v.updChan ch g).chan ch).queue = before ++ after := by
      rw [chan_updChan_self, hv, hr, hg]
      show (s.chan ch).queue.filter (fun x => x.slot != f.slot) = _
      rw [hsplit, List.filter_append, List.filter_cons_of_neg (by simp), ← List.filter_append]
      exact List.filter_eq_self.mpr fun x hx => by simpa using hne x hx
    have hne' : ∀ x ∈ before ++ after, x.slot ≠ f'.slot := fun x hx => hfslot ▸ hne x hx
    obtain ⟨cache', streams', hrun', hgives'⟩ := goOffline_run (s := v.updChan ch g) ch
      (by rw [hqueue]; exact (hrun.fillable hne' hrest).updChan)
    rw [hqueue] at hrun' hgives'
    refine ⟨cache', streams', hback ((hrun.cons hne' hrun'.of_updChan).congr rfl rfl), ?_⟩
    rw [hpage, hgives']
    show State.updChan ch _ (State.updChan ch g { v with cache := cache', streams := streams' }) = _
    rw [updChan_updChan, hv, hr]
    refine updChan_congr _ ch ?_
    have hleft' : (List.map (fun f => 3 - f.pagesDone) (before ++ after)).sum = pagesLeft (s.chan ch).queue - 1 := by
      rw [hleft]
      dsimp only [pagesLeft]
      omega
    show Channel.patchedFor _ (Channel.enters (g (s.chan ch))) = Channel.tookOffline _ 1 (s.chan ch)
    simp only [Channel.patchedFor, hleft', Channel.tookOffline, hg, Channel.enters, Channel.pageCounted, Channel.dropFetch,
      Channel.countTimeout, ht, Option.isNone_none, if_true, addCount_inc]
    rw [show pagesLeft (s.chan ch).queue - 1 + 1 = pagesLeft (s.chan ch).queue by omega, ← hlength]
    rfl

/-- The third timeout in a row of a fetch's page or of a discarded read takes the channel OFFLINE. -/
theorem timedOut_third {own : Nat} (ht : (s.chan ch).timeouts = 2) (h : Fillable (s.chan ch).queue s)
    (hkind : (kind = .discardedFetchPage ∧ own = 0)
      ∨ ∃ f ∈ (s.chan ch).queue, kind = .fetchPage f.slot ∧ f.cancelPending = false ∧ own = 1) :
    ∃ w, TookOffline ch own s w ∧ s.timedOut ch kind = w.updateFault.afterOperation ch := by
  have hthree : ((s.updChan ch Channel.countTimeout).chan ch).timeouts = 3 := by
    rw [chan_updChan_self]
    show min 3 ((s.chan ch).timeouts + 1) = 3
    omega
  rcases hkind with ⟨rfl, rfl⟩ | ⟨f, hf, rfl, hc, rfl⟩
  · refine ⟨_, third_discarded ht h, ?_⟩
    simp only [State.timedOut, State.offlineAtThird, hthree, le_refl, if_true, State.enterOffline]
  · refine ⟨_, third_fetch ht h hf hc, ?_⟩
    simp only [State.timedOut, State.offlineAtThird, fetchPageDone_timeouts, hthree, le_refl, if_true, State.enterOffline]

/-- The laws give what the completion of a queue needs. -/
theorem fillable_of_laws (htable : s.TableLaw) (hcache : s.CacheLaw) (hfetch : s.FetchLaw)
    (htol : ∀ p ∈ s.streams.contexts, p.2.policy = .tolerant) (c : ChannelNo) : Fillable (s.chan c).queue s := by
  obtain ⟨hqueue, hnodup, -⟩ := hfetch
  obtain ⟨-, hrefs, -⟩ := hcache
  refine ⟨htable.1, htol, fun f hf => ?_, fun f hf => (hqueue c f hf).2.1, hnodup c⟩
  obtain ⟨-, -, slot, hslot, -⟩ := hqueue c f hf
  refine ⟨slot, hslot, fun hr p hp e he hes => ?_⟩
  have hsum : s.refsTo f.slot.val = 0 := (hrefs _ (Sparse.mem_of_get hslot)).symm.trans hr
  have hzero := List.sum_eq_zero_iff.mp hsum _ (List.mem_map_of_mem hp)
  have hin : e ∈ p.2.window.filter fun e => e.slot.map Fin.val == some f.slot.val :=
    List.mem_filter.mpr ⟨he, by simp [hes]⟩
  rw [List.length_eq_zero_iff.mp hzero] at hin
  cases hin

/-- What follows a timeout on a channel that it leaves without work. -/
theorem afterOperation_emptied {g : Channel → Channel} (hclear : w.cleared = false) (hp : w.dir.program = none)
    (hl : w.dir.load = none) (hq : (g (w.chan ch)).queue = [])
    (hprobe : (g (w.chan ch)).probePending = (w.chan ch).probePending) : (w.updChan ch g).afterOperation ch =
      w.updChan ch fun k => if (w.chan ch).probePending = true then (g k).reprobed w.now else g k := by
  have hchan := chan_updChan_self w ch g
  rw [afterOperation_probe (w := w.updChan ch g) hclear hp hl (by rw [hchan]; exact hq), updChan_updChan, hchan, hprobe]
  rfl

theorem updateFault_updChan {g : Channel → Channel} : (w.updChan ch g).updateFault =
    ({ w with status := (w.updChan ch g).updateFault.status }).updChan ch g := rfl

end

/-- Settles O25: a read's timeout counted, and the third in a row with what it completes. -/
theorem pageTimeoutCounts : Obligations.PageTimeoutCounts := by
  intro dt ch kind issued cmd out s hop waited hcmd hoff hclear hp hl queue left offline probed
  constructor
  · intro hkind hqueue after ht
    have hexec := timesOut_exec hop (by rw [hkind]; rfl) hcmd
    rw [hexec]
    refine ⟨_, rfl, (finish_settles _).of_plain ?_⟩
    by_cases hlt : (s.chan ch).timeouts < 2
    · have hcount : Channel.countTimeout (s.chan ch) = after (s.chan ch) := by
        show Channel.countTimeout (s.chan ch) = if (s.chan ch).timeouts < 2 then _ else _
        rw [if_pos hlt, Channel.countTimeout, show min 3 ((s.chan ch).timeouts + 1) = (s.chan ch).timeouts + 1 by omega]
        rfl
      have hthird : ((s.elapse dt).updChan ch Channel.countTimeout).offlineAtThird ch = (s.elapse dt).updChan ch after := by
        rw [offlineAtThird_of_lt]
        · exact updChan_congr _ ch hcount
        · rw [chan_updChan_self]
          show min 3 ((s.chan ch).timeouts + 1) < 3
          omega
      have hempty : (after (s.chan ch)).queue = [] := by rw [← hcount]; exact hqueue
      have hprobe : (after (s.chan ch)).probePending = (s.chan ch).probePending := by rw [← hcount]; rfl
      simp only [hkind, State.timedOut, hthird]
      rw [afterOperation_emptied (w := s.elapse dt) hclear hp hl hempty hprobe]
      rfl
    · have hcount : (Channel.countTimeout (s.chan ch)).enters = after (s.chan ch) := by
        show (Channel.countTimeout (s.chan ch)).enters = if (s.chan ch).timeouts < 2 then _ else _
        rw [if_neg hlt]
        simp only [Channel.countTimeout, Channel.enters, offline, left, hqueue, List.map_nil, List.sum_nil, List.length_nil,
          addCount_zero, Nat.sub_zero, show min 3 ((s.chan ch).timeouts + 1) = 3 by omega]
      have hthree : ¬ (((s.elapse dt).updChan ch Channel.countTimeout).chan ch).timeouts < 3 := by
        rw [chan_updChan_self]
        show ¬ min 3 ((s.chan ch).timeouts + 1) < 3
        omega
      have hqueue' : (((s.elapse dt).updChan ch Channel.countTimeout).chan ch).queue = [] := by
        rw [chan_updChan_self]
        exact hqueue
      have hthird : ((s.elapse dt).updChan ch Channel.countTimeout).offlineAtThird ch =
          ((s.elapse dt).updChan ch after).updateFault := by
        rw [State.offlineAtThird, if_pos (not_lt.mp hthree), State.enterOffline, goOffline_of_queue hqueue', updChan_updChan]
        exact congrArg State.updateFault (updChan_congr _ ch hcount)
      have hempty : (after (s.chan ch)).queue = [] := by rw [← hcount]; rfl
      have hprobe : (after (s.chan ch)).probePending = (s.chan ch).probePending := by rw [← hcount]; rfl
      simp only [hkind, State.timedOut, hthird]
      obtain ⟨w, hw⟩ : ∃ w : State, w =
          { s.elapse dt with status := ((s.elapse dt).updChan ch after).updateFault.status } := ⟨_, rfl⟩
      have hchan : w.chan ch = s.chan ch := by rw [hw]; rfl
      rw [updateFault_updChan, ← hw, afterOperation_emptied (w := w), hw]
      · rfl
      · rw [hw]; exact hclear
      · rw [hw]; exact hp
      · rw [hw]; exact hl
      · rw [hchan]; exact hempty
      · rw [hchan]; exact hprobe
  · intro ht htable hmem hcache hfetch htol own hkind
    have hreads : kind.readsFetch = true := by
      rcases hkind with ⟨rfl, -⟩ | ⟨f, -, rfl, -⟩ <;> rfl
    have hexec := timesOut_exec hop hreads hcmd
    obtain ⟨e, he⟩ : ∃ e : State, e = s.elapse dt := ⟨_, rfl⟩
    have hfill : Fillable (e.chan ch).queue e := by
      rw [he]
      obtain ⟨h1, h2, h3, h4, h5⟩ := fillable_of_laws htable hcache hfetch htol ch
      exact ⟨h1, h2, h3, h4, h5⟩
    obtain ⟨w, ⟨cache, streams, hrun, hw⟩, htimed⟩ := timedOut_third (s := e) (ch := ch) (own := own) (kind := kind) (he ▸ ht) hfill (he ▸ hkind)
    obtain ⟨v, hv⟩ : ∃ v : State, v = { e with cache := cache, streams := streams } := ⟨_, rfl⟩
    have htook : (Channel.tookOffline (e.chan ch).queue own) = offline own := by rw [he]; rfl
    rw [← hv, htook] at hw
    have hafter : w.updateFault.afterOperation ch = ({ v with status := w.updateFault.status }).updChan ch fun k =>
        if (s.chan ch).probePending = true then probed (offline own k) else offline own k := by
      rw [hw, updateFault_updChan, afterOperation_emptied, hv, he]
      · rfl
      · rw [hv, he]; exact hclear
      · rw [hv, he]; exact hp
      · rw [hv, he]; exact hl
      · rfl
      · rfl
    obtain ⟨u, hu⟩ : ∃ u : State, u = w.updateFault.afterOperation ch := ⟨_, rfl⟩
    have hfields : u.cache = cache ∧ u.streams = streams := by rw [hu, hafter, hv]; exact ⟨rfl, rfl⟩
    obtain ⟨hcache', hstreams'⟩ := hfields
    refine ⟨u.finish, ?_, ?_, (finish_settles u).of_plain ?_, fun hdriven => ?_⟩
    · rw [hexec, ← he, htimed, ← hu]
    · have hrun' : PatchRun (s.chan ch).queue s { e with cache := cache, streams := streams } := by
        rw [he] at hrun ⊢
        exact ⟨hrun.zero, hrun.same, hrun.slot, hrun.other, hrun.reclaim, hrun.freeNext, hrun.freeTail, hrun.counts, hrun.streams⟩
      refine (hrun'.congr ?_ ?_).queuePatched
      · rw [finish_cache, hcache']
      · rw [finish_streams, hstreams']
    · rw [finish_cache, finish_streams, hcache', hstreams', hu, hafter, hw, hv, he]
      rfl
    · have hrisen : FaultRisen w w.updateFault := updateFault_risen (faultCauses_of_offline (c := ch) (by rw [hw, chan_updChan_self]))
      have hw' : FaultSame s w := by rw [hw, hv, he]; exact ⟨rfl, rfl⟩
      have hu' : FaultSame w.updateFault u := by rw [hu, hafter]; exact ⟨rfl, rfl⟩
      have := (hrisen.after hw' hu').onset
      rwa [hdriven] at this

end Sys2Proof.Machine


/-! SUPPORT. The directory load, page by page (R3, R4, R10, R121, R124). -/

namespace Sys2Proof.Machine

section
variable {s w : State} {c : ChannelNo} {l : DirectoryLoad} {fuel : Nat}

/-! ### The load's outstanding read -/

theorem issueDirectory_of_load (h : s.dir.load = none) : s.issueDirectory fuel = s := by
  cases fuel with
  | zero => rfl
  | succ fuel => simp only [State.issueDirectory, h]

theorem issueDirectory_waits (h : s.dir.load = some l) (hoff : (s.chan l.channel).offline = false)
    (hop : s.channelOpen l.channel = false) : s.issueDirectory fuel = s := by
  cases fuel with
  | zero => rfl
  | succ fuel => simp only [State.issueDirectory, h, hoff, hop, Bool.false_eq_true, if_false]

/-- The read is issued on a channel free for it that holds the page. -/
theorem issueDirectory_issues (h : s.dir.load = some l) (hoff : (s.chan l.channel).offline = false)
    (hop : s.channelOpen l.channel = true) (hpage : (s.chan l.channel).holdsPage (channelPage l.location.1 l.location.2) = true) :
    s.issueDirectory (fuel + 1) = s.issue l.channel .directoryPage := by
  simp only [State.issueDirectory, h, hoff, hop, hpage, Bool.false_eq_true, if_false, if_true]

/-- The header page is unreadable at once on an OFFLINE channel. -/
theorem issueDirectory_header_offline (h : s.dir.load = some .header) (hoff : (s.chan 0).offline = true) :
    s.issueDirectory (fuel + 1) = s.completeLoad none [] := by
  have hchan : DirectoryLoad.header.channel = 0 := rfl
  simp only [State.issueDirectory, h, hchan, hoff, if_true]
  rw [issueDirectory_of_load]
  · simp [State.directoryPageDone, h]
  · simp [State.directoryPageDone, h, State.completeLoad]

theorem load_issues (h : s.dir.load = some l) (hoff : (s.chan l.channel).offline = false)
    (hop : s.channelOpen l.channel = true) (hpage : (s.chan l.channel).holdsPage (channelPage l.location.1 l.location.2) = true) :
    s.issueDirectory Config.directoryPages = s.issue l.channel .directoryPage := issueDirectory_issues h hoff hop hpage

theorem header_unreadable (h : s.dir.load = some .header) (hoff : (s.chan 0).offline = true) :
    s.issueDirectory Config.directoryPages = s.completeLoad none [] := issueDirectory_header_offline h hoff

theorem channelOpen_iff : s.channelOpen c = true
    ↔ (s.chan c).op = none ∧ (s.chan c).probePending = false ∧ s.cleared = false := by
  simp [State.channelOpen, and_assoc]

/-! ### A channel with nothing but the load's read to take up -/

theorem directoryWaits_other (h : s.dir.load = some l) (hne : l.channel ≠ c) : s.directoryWaits c = false := by
  simp [State.directoryWaits, h, hne]

/-- The next page's read, issued on its channel when the channel of the last one has come free. -/
theorem nextPage_issued (h : w.dir.load = some l) (hp : w.dir.program = none) (hclear : w.cleared = false)
    (hoff : (w.chan c).offline = false) (hprobe : (w.chan c).probePending = false) (hop : (w.chan c).op = none)
    (hq : (w.chan c).queue = []) (hoff' : (w.chan l.channel).offline = false)
    (hprobe' : (w.chan l.channel).probePending = false) (hop' : (w.chan l.channel).op = none)
    (hpage : (w.chan l.channel).holdsPage (channelPage l.location.1 l.location.2) = true) :
    (w.afterOperation c).issueDirectory Config.directoryPages = w.issue l.channel .directoryPage := by
  have hissue : w.issueDirectory Config.directoryPages = w.issue l.channel .directoryPage :=
    load_issues h hoff' (channelOpen_iff.mpr ⟨hop', hprobe', hclear⟩) hpage
  have hchoose : w.afterOperation c = w.choose c := by simp [State.afterOperation, hclear, hprobe, hoff]
  rw [hchoose]
  unfold State.choose
  rw [waitingProgram_of_program hp]
  dsimp only
  by_cases hc : l.channel = c
  · have hwaits : w.directoryWaits c = true := by simp [State.directoryWaits, h, hc, hop]
    have hsome : (((w.issue l.channel .directoryPage)).chan c).op.isSome = true := by
      rw [hc, State.issue, chan_updChan_self]
      rfl
    rw [State.takeWaitingPage, hwaits, if_pos rfl, hissue, hsome, if_pos rfl]
    refine issueDirectory_waits h ?_ ?_
    · rw [State.issue, chan_updChan_self]
      exact hoff'
    · rw [Bool.eq_false_iff, Ne, channelOpen_iff, State.issue, chan_updChan_self]
      rintro ⟨hnone, -⟩
      cases hnone
  · rw [State.takeWaitingPage, directoryWaits_other h hc]
    simp only [Bool.false_eq_true, if_false, hop, Option.isSome_none]
    rw [chooseFetches_of_queue hq, hissue]

/-- A load that has completed leaves its channel as it stands. -/
theorem load_over (h : w.dir.load = none) (hp : w.dir.program = none) (hprobe : (w.chan c).probePending = false)
    (hoff : (w.chan c).offline = false) (hq : (w.chan c).queue = []) :
    (w.afterOperation c).issueDirectory fuel = w := by
  rw [afterOperation_idle hprobe hoff hp h hq, issueDirectory_of_load h]

/-- A load that its page has completed. -/
theorem completeLoad_over {header : Option DirectoryHeader} {table : List ZoneRecord} (hp : w.dir.program = none)
    (hprobe : (w.chan c).probePending = false) (hoff : (w.chan c).offline = false) (hq : (w.chan c).queue = []) :
    ((w.completeLoad header table).afterOperation c).issueDirectory fuel = w.completeLoad header table :=
  load_over (w := w.completeLoad header table) rfl hp hprobe hoff hq

/-! ### The header -/

/-- A header that passes the tests of R3. -/
def goodHeader (extent : Nat) (bytes : List Byte) : Prop :=
  Bytes.field bytes 0 4 = 0x72400D1A ∧ Bytes.field bytes 4 4 ≤ 1048576
    ∧ 1 + ceilDiv (Bytes.field bytes 4 4) 384 ≤ Bytes.field bytes 8 4 ∧ Bytes.field bytes 8 4 ≤ extent

theorem takeHeader_good {extent : Nat} {bytes : List Byte} (h : goodHeader extent bytes) :
    takeHeader extent bytes = some { records := Bytes.field bytes 4 4, blocks := Bytes.field bytes 8 4 } := if_pos h

theorem takeHeader_bad {extent : Nat} {bytes : List Byte} (h : ¬ goodHeader extent bytes) : takeHeader extent bytes = none := if_neg h

theorem directoryPageDone_badHeader {data : Option (List Byte)} (h : s.dir.load = some .header)
    (hbad : data.bind (takeHeader s.fetch.extent) = none) : s.directoryPageDone data = s.completeLoad none [] := by
  simp only [State.directoryPageDone, h, hbad]

theorem directoryPageDone_goodHeader {data : Option (List Byte)} {header : DirectoryHeader} (h : s.dir.load = some .header)
    (hgood : data.bind (takeHeader s.fetch.extent) = some header) : s.directoryPageDone data = s.nextRecordPage header 0 [] := by
  simp only [State.directoryPageDone, h, hgood]

/-! ### The commands -/

section
variable {dt : Micros} {issued : Time} {out : PageOutcome} {cmd : Instr}

/-- A directory page's answer within its time. -/
theorem directoryPageRead_answers (hop : (s.chan c).op = some { kind := .directoryPage, issued := issued })
    (hwait : signedDiff (s.clock.localTime + dt) issued ≤ 2000) : exec (.directoryPageRead dt c out) s =
      .next (((((s.elapse dt).readEnded c (.answer out)).directoryPageDone (pageData out)).afterOperation c).issueDirectory
        Config.directoryPages).finish := by
  have hop' : ((s.elapse dt).chan c).op = some { kind := .directoryPage, issued := issued } := hop
  show execDirectoryPageRead dt c out s = _
  unfold execDirectoryPageRead
  rw [command_eq, hop']
  dsimp only
  rw [if_pos (show (OperationKind.directoryPage).readsDirectory = true from rfl), State.takeAnswer,
    answerLate_elapse_false (op := { kind := .directoryPage, issued := issued }) hwait, if_neg (by decide)]
  simp only [State.answered, answered_ended]

/-- A directory page's read ended as a timeout. -/
theorem directoryPage_timesOut (hop : (s.chan c).op = some { kind := .directoryPage, issued := issued })
    (hcmd : (cmd = .pageTimeout dt c ∧ 2000 ≤ signedDiff (s.clock.localTime + dt) issued)
      ∨ (cmd = .directoryPageRead dt c out ∧ 2000 < signedDiff (s.clock.localTime + dt) issued)) :
    exec cmd s = .next ((s.elapse dt).timedOut c .directoryPage).finish := by
  have hop' : ((s.elapse dt).chan c).op = some { kind := .directoryPage, issued := issued } := hop
  rcases hcmd with ⟨rfl, hwait⟩ | ⟨rfl, hwait⟩
  · show execPageTimeout dt c s = _
    unfold execPageTimeout
    rw [command_eq, hop']
    dsimp only
    rw [if_pos ((ran_iff (s.elapse dt) issued Config.pageTimeout).mpr hwait)]
  · show execDirectoryPageRead dt c out s = _
    unfold execDirectoryPageRead
    rw [command_eq, hop']
    dsimp only
    rw [if_pos (show (OperationKind.directoryPage).readsDirectory = true from rfl), State.takeAnswer,
      (answerLate_elapse_iff dt s { kind := .directoryPage, issued := issued }).mpr hwait, if_pos rfl]

/-- A timeout that leaves the channel out of OFFLINE hands on an unreadable page. -/
theorem timedOut_directoryPage (h : (s.chan c).timeouts < 2) : s.timedOut c .directoryPage =
    ((((s.readEnded c .timeout).directoryPageDone none).afterOperation c).issueDirectory Config.directoryPages) := by
  have hlt : ((s.readEnded c .timeout).chan c).timeouts < 3 := by
    rw [State.readEnded, chan_updChan_self]
    show (s.chan c).timeouts + 1 < 3
    omega
  simp only [State.timedOut, timedOut_ended h, offlineAtThird_of_lt hlt]

/-- The third timeout in a row on a channel without fetches. -/
theorem offlineAtThird_empty (h : (s.chan c).timeouts = 2) (hq : (s.chan c).queue = []) :
    (s.updChan c Channel.countTimeout).offlineAtThird c =
      (s.updChan c fun k => { k with
        op := none, timeouts := 3, offline := true
        counts := { k.counts with timeout := inc k.counts.timeout
                                  offlineEntries := inc k.counts.offlineEntries } }).updateFault := by
  have hqueue : ((s.updChan c Channel.countTimeout).chan c).queue = [] := by rw [chan_updChan_self]; exact hq
  have hthree : 3 ≤ ((s.updChan c Channel.countTimeout).chan c).timeouts := by
    rw [chan_updChan_self]
    show 3 ≤ min 3 ((s.chan c).timeouts + 1)
    omega
  rw [State.offlineAtThird, if_pos hthree, State.enterOffline, goOffline_of_queue hqueue, updChan_updChan]
  refine congrArg State.updateFault (updChan_congr _ c ?_)
  simp only [Channel.countTimeout, h, hq]
  rfl

end

end

end Sys2Proof.Machine


/-! SUPPORT. The header page of a directory load, as DIRECTORY_LOAD begins it and as its read ends (R3, R4, R10). -/

namespace Sys2Proof.Machine

section
variable {dt : Micros} {s : State}

/-- DIRECTORY_LOAD where a load can begin. -/
theorem directoryLoad_begins (h : (s.elapse dt).loadReady = true) : exec (.directoryLoad dt) s =
    .next (((s.elapse dt).beginLoad.updateFault).issueDirectory Config.directoryPages).finish := by
  show execDirectoryLoad dt s = _
  unfold execDirectoryLoad
  rw [command_eq, if_pos h]

theorem loadReady_iff : s.loadReady = true ↔ s.status.phase = .directoryLoad ∧ s.dir.load = none ∧ s.cleared = false
    ∧ (s.dir.awaitsProbe = false ∨ ∀ ch : ChannelNo, (s.chan ch).probing = false) ∧ s.dir.storeQueue = [] ∧ s.dir.program = none := by
  have hall : s.probesDone = true ↔ ∀ ch : ChannelNo, (s.chan ch).probing = false := by
    simp only [State.probesDone, List.all_eq_true, Bool.not_eq_true']
    exact ⟨fun h ch => h ch (mem_channels ch), fun h ch _ => h ch⟩
  simp [State.loadReady, ← hall, and_assoc]

end

/-- Settles O19: the load begun, and its header page judged. -/
theorem directoryHeaderReadAndJudged : Obligations.DirectoryHeaderReadAndJudged := by
  refine ⟨?_, ?_⟩
  · intro dt s hphase hload hclear hqueue hprog hprobes begun
    have hexec := directoryLoad_begins (s := s) (dt := dt) (loadReady_iff.mpr ⟨hphase, hload, hclear, hprobes, hqueue, hprog⟩)
    obtain ⟨w, hw⟩ : ∃ w : State, w = (s.elapse dt).beginLoad.updateFault := ⟨_, rfl⟩
    have hwload : w.dir.load = some .header := by rw [hw]; rfl
    have hwchan : ∀ c, w.chan c = s.chan c := fun c => by rw [hw]; rfl
    have hplain : w.plain = State.plain { s.later dt with dir := begun } := by rw [hw]; rfl
    rw [hexec, ← hw]
    refine ⟨fun hoff => ⟨fun n hop hprobe hn hpos => ⟨_, rfl, (finish_settles _).of_plain ?_⟩,
      fun hop => ⟨_, rfl, (finish_settles _).of_plain ?_⟩⟩, fun hoff => ⟨_, rfl, (finish_settles _).of_plain ?_⟩⟩
    · rw [load_issues hwload]
      · rw [hw]
        rfl
      · rw [hwchan]; exact hoff
      · exact channelOpen_iff.mpr ⟨by rw [hwchan]; exact hop, by rw [hwchan]; exact hprobe, by rw [hw]; exact hclear⟩
      · rw [hwchan]
        exact holdsPage_of hn hpos
    · rw [issueDirectory_waits hwload]
      · exact hplain
      · rw [hwchan]; exact hoff
      · rw [Bool.eq_false_iff, Ne, channelOpen_iff, hwchan]
        exact fun h => hop h.1
    · rw [header_unreadable hwload (by rw [hwchan]; exact hoff), hw]
      rfl
  · intro dt issued s hload hqueue hprobe hoff hclear hprog reads ends late third waited
    have hbad : ∀ {g : Channel → Channel} {data : Option (List Byte)}, (g (s.chan 0)).queue = [] →
        (g (s.chan 0)).probePending = false → (g (s.chan 0)).offline = false → data.bind (takeHeader s.fetch.extent) = none →
        State.plain ((((((s.elapse dt).updChan 0 g).directoryPageDone data)).afterOperation 0).issueDirectory Config.directoryPages)
          = State.plain (ends none g) := fun {g data} hq hp ho hd => by
      rw [directoryPageDone_badHeader (s := (s.elapse dt).updChan 0 g) hload hd,
        completeLoad_over (w := (s.elapse dt).updChan 0 g) hprog]
      · rfl
      · rw [chan_updChan_self]; exact hp
      · rw [chan_updChan_self]; exact ho
      · rw [chan_updChan_self]; exact hq
    have hkeeps : ∀ how : PageEnd, (how.counted (s.chan 0)).queue = [] ∧ (how.counted (s.chan 0)).probePending = false
        ∧ (how.counted (s.chan 0)).offline = false := fun how => by
      obtain ⟨h1, h2, h3, -⟩ := counted_queue how (s.chan 0)
      exact ⟨h1.trans hqueue, h3.trans hprobe, h2.trans hoff⟩
    constructor
    · intro hop hwait out bytes records blocks good header answered
      obtain ⟨hq, hp, ho⟩ := hkeeps (.answer out)
      rw [directoryPageRead_answers hop hwait]
      refine ⟨fun hout => ?_, fun hout => ⟨_, rfl, (finish_settles _).of_plain (hbad hq hp ho ?_)⟩⟩
      · have hdata : pageData out = some bytes := by rcases hout with rfl | rfl <;> rfl
        rw [hdata]
        refine ⟨fun hgood hpos hop1 hprobe1 hoff1 hpage1 => ⟨_, rfl, (finish_settles _).of_plain ?_⟩,
          fun hgood hzero => ⟨_, rfl, (finish_settles _).of_plain ?_⟩,
          fun hnot => ⟨_, rfl, (finish_settles _).of_plain (hbad hq hp ho (takeHeader_bad hnot))⟩⟩
        · obtain ⟨n, hn, hnpos⟩ := hpage1
          obtain ⟨w, hw⟩ : ∃ w : State, w = ((s.elapse dt).readEnded 0 (.answer out)).onDir fun d =>
              { d with load := some (.records header 0 []) } := ⟨_, rfl⟩
          have hown : w.chan 0 = { (PageEnd.answer out).counted (s.chan 0) with op := none } := by
            rw [hw, chan_onDir, State.readEnded, chan_updChan_self]
            rfl
          have hnext : w.chan 1 = s.chan 1 := by
            rw [hw, chan_onDir, State.readEnded, chan_updChan_other _ (by decide)]
            rfl
          have hblocks : 0 < ceilDiv records 128 := by
            rw [ceilDiv]
            omega
          rw [directoryPageDone_goodHeader (s := (s.elapse dt).readEnded 0 (.answer out)) (data := some bytes) (header := header)
              hload (takeHeader_good hgood), State.nextRecordPage, if_pos hblocks, ← hw,
            nextPage_issued (w := w) (l := .records header 0 [])]
          · rw [hw]
            rfl
          · rw [hw]; rfl
          · rw [hw]; exact hprog
          · rw [hw]; exact hclear
          · rw [hown]; exact ho
          · rw [hown]; exact hp
          · rw [hown]
          · rw [hown]; exact hq
          · exact hnext ▸ hoff1
          · exact hnext ▸ hprobe1
          · exact hnext ▸ hop1
          · show (w.chan 1).holdsPage (channelPage 1 0) = true
            exact holdsPage_of (hnext ▸ hn) hnpos
        · rw [directoryPageDone_goodHeader (s := (s.elapse dt).readEnded 0 (.answer out)) (data := some bytes) (header := header)
              hload (takeHeader_good hgood),
            State.nextRecordPage, if_neg (show ¬ 0 < ceilDiv records 128 by rw [hzero]; decide),
            completeLoad_over (w := (s.elapse dt).readEnded 0 (.answer out)) hprog]
          · rfl
          · rw [State.readEnded, chan_updChan_self]; exact hp
          · rw [State.readEnded, chan_updChan_self]; exact ho
          · rw [State.readEnded, chan_updChan_self]; exact hq
      · rw [hout]
        rfl
    · intro cmd out expires
      refine ⟨fun hop hcmd ht => ?_, fun hcmd ht => ?_⟩
      · obtain ⟨hq, hp, ho⟩ := hkeeps .timeout
        rw [directoryPage_timesOut hop hcmd, timedOut_directoryPage (s := s.elapse dt) ht]
        exact ⟨_, rfl, (finish_settles _).of_plain (hbad hq hp ho rfl)⟩
      · have hempty : ((s.elapse dt).chan 0).queue = [] := hqueue
        have hthird := offlineAtThird_empty (s := s.elapse dt) (c := 0) ht hempty
        obtain ⟨v, hv⟩ : ∃ v : State, v = ((s.elapse dt).updChan 0 third).updateFault := ⟨_, rfl⟩
        have hchan : v.chan 0 = third (s.chan 0) := by rw [hv]; exact chan_updChan_self (s.elapse dt) 0 third
        have hvload : v.dir.load = some .header := by rw [hv]; exact hload
        have hended : State.plain (v.completeLoad none []) = State.plain (ends none third) := by rw [hv]; rfl
        rcases hcmd with ⟨hop, hcmd⟩ | ⟨hop, hcmd⟩
        · rw [directoryPage_timesOut hop hcmd]
          refine ⟨_, rfl, (finish_settles _).of_plain (Eq.trans (congrArg State.plain ?_) hended)⟩
          simp only [State.timedOut, hthird]
          rw [← hv, directoryPageDone_badHeader hvload rfl]
          have hstays : (v.completeLoad none []).afterOperation 0 = v.completeLoad none [] := by
            have hprobe' : ((v.completeLoad none []).chan 0).probePending = false := hchan ▸ hprobe
            have hoff' : ((v.completeLoad none []).chan 0).offline = true := (congrArg Channel.offline hchan).trans rfl
            have hclear' : (v.completeLoad none []).cleared = false := by rw [hv]; exact hclear
            rw [State.afterOperation, hclear', hprobe', hoff']
            exact takeWaitingPage_of_load (s := v.completeLoad none []) (c := 0) rfl
          rw [hstays, issueDirectory_of_load rfl]
        · rw [timesOut_exec hop rfl hcmd]
          refine ⟨_, rfl, (finish_settles _).of_plain (Eq.trans (congrArg State.plain ?_) hended)⟩
          simp only [State.timedOut, hthird]
          have hclear' : v.cleared = false := by rw [hv]; exact hclear
          have hwaits : v.directoryWaits 0 = true := by
            rw [State.directoryWaits, hvload, hchan]
            rfl
          have hoff' : (v.chan 0).offline = true := by rw [hchan]
          rw [← hv, State.afterOperation, hclear', hchan, show (third (s.chan 0)).probePending = false from hprobe]
          exact (if_pos hwaits).trans (header_unreadable hvload hoff')

end Sys2Proof.Machine


/-! SUPPORT. The record pages of a directory load (R4, R13, R167). -/

namespace Sys2Proof.Machine

section
variable {s : State} {header : DirectoryHeader} {page : Nat} {accepted : List ZoneRecord} {config : ConfigImage}

theorem slice_slice {l : List Byte} {a n off m : Nat} (h : off + m ≤ n) :
    Bytes.slice (Bytes.slice l a n) off m = Bytes.slice l (a + off) m := by
  rw [Bytes.slice, Bytes.slice, Bytes.slice, List.drop_take, List.take_take, List.drop_drop, Nat.min_eq_left (by omega)]

theorem field_slice {l : List Byte} {a n off m : Nat} (h : off + m ≤ n) :
    Bytes.field (Bytes.slice l a n) off m = Bytes.field l (a + off) m := congrArg Bytes.value (slice_slice h)

/-- A record page read: its records checked behind those accepted before. -/
theorem directoryPageDone_records {bytes : List Byte} (h : s.dir.load = some (.records header page accepted))
    (hc : s.status.config = some config) {checked : List ZoneRecord × DirectoryCounts}
    (hchecked : checked = ((List.range (recordsOnPage header.records page)).map (takeRecord bytes)).foldl
      (checkRecord config s.fetch.extent header.blocks) (accepted, s.dir.counts)) : s.directoryPageDone (some bytes) =
      (s.onDir fun d => { d with counts := checked.2 }).nextRecordPage header (page + 1) checked.1 := by
  simp only [State.directoryPageDone, h, hc, hchecked]

/-- A record page unread: each of its records counted unreadable. -/
theorem directoryPageDone_unread (h : s.dir.load = some (.records header page accepted)) : s.directoryPageDone none =
    (s.onDir fun d => { d with counts := { d.counts with
      unreadable := addCount d.counts.unreadable (recordsOnPage header.records page) } }).nextRecordPage header (page + 1) accepted := by
  simp only [State.directoryPageDone, h]
  rfl

end

/-- Settles O20: a record page checked, and the next page read or the load completed. -/
theorem recordPagesBuildTheTable : Obligations.RecordPagesBuildTheTable := by
  intro dt ch issued header page accepted config s hop hload hconfig hqueue hprobe hoff hclear hprog more block next hnext
    onPage unread record ends waited
  have hends : ∀ (how : PageEnd) (table : List ZoneRecord) (counts : DirectoryCounts) (cmd : Instr),
      exec cmd s = .next (((((((s.elapse dt).readEnded ch how).onDir fun d => { d with counts := counts }).nextRecordPage header (page + 1) table)).afterOperation ch).issueDirectory Config.directoryPages).finish →
      ends cmd how table counts := fun how table counts cmd hexec => by
    obtain ⟨h1, h2, h3, -⟩ := counted_queue how (s.chan ch)
    have hown : ((s.elapse dt).readEnded ch how).chan ch = { how.counted (s.chan ch) with op := none } := by
      rw [State.readEnded, chan_updChan_self]
      rfl
    have hother : ∀ d, d ≠ ch → ((s.elapse dt).readEnded ch how).chan d = s.chan d := fun d hd => by
      rw [State.readEnded, chan_updChan_other _ hd]
      rfl
    refine ⟨_, hexec, (finish_settles _).of_plain ?_⟩
    by_cases hm : more
    · obtain ⟨hfree, hprobe', hoff', n, hn, hpage⟩ := hnext hm
      obtain ⟨w, hw⟩ : ∃ w : State, w = ((s.elapse dt).readEnded ch how).onDir fun d =>
          { d with counts := counts, load := some (.records header (page + 1) table) } := ⟨_, rfl⟩
      have hstep : (((s.elapse dt).readEnded ch how).onDir fun d => { d with counts := counts }).nextRecordPage header (page + 1)
          table = w := by rw [State.nextRecordPage, if_pos (show page + 1 < ceilDiv header.records 128 from hm), hw]; rfl
      have hchan : ∀ d, w.chan d = ((s.elapse dt).readEnded ch how).chan d := fun d => by rw [hw, chan_onDir]
      have hnext' : (w.chan next).op = none ∧ (w.chan next).probePending = false ∧ (w.chan next).offline = false
          ∧ (w.chan next).pageCount = some n := by
        obtain ⟨-, -, -, h4, -⟩ := counted_queue how (s.chan ch)
        by_cases hsame : next = ch
        · rw [hchan, hsame, hown]
          exact ⟨rfl, h3.trans hprobe, h2.trans hoff, h4.trans (hsame ▸ hn)⟩
        · rw [hchan, hother next hsame]
          exact ⟨hfree.resolve_left hsame, hprobe', hoff', hn⟩
      obtain ⟨hnop, hnprobe, hnoff, hncount⟩ := hnext'
      rw [hstep, if_pos hm, nextPage_issued (w := w) (l := .records header (page + 1) table)]
      · rw [hw]
        rfl
      · rw [hw]; rfl
      · rw [hw]; exact hprog
      · rw [hw]; exact hclear
      · rw [hchan, hown]; exact h2.trans hoff
      · rw [hchan, hown]; exact h3.trans hprobe
      · rw [hchan, hown]
      · rw [hchan, hown]; exact h1.trans hqueue
      · exact hnoff
      · exact hnprobe
      · exact hnop
      · exact holdsPage_of hncount hpage
    · obtain ⟨w, hw⟩ : ∃ w : State, w = ((s.elapse dt).readEnded ch how).onDir fun d => { d with counts := counts } := ⟨_, rfl⟩
      have hchan : w.chan ch = { how.counted (s.chan ch) with op := none } := by rw [hw, chan_onDir, hown]
      rw [← hw, State.nextRecordPage, if_neg (show ¬ page + 1 < ceilDiv header.records 128 from hm), if_neg hm,
        completeLoad_over (w := w), hw]
      · rfl
      · rw [hw]; exact hprog
      · rw [hchan]; exact h3.trans hprobe
      · rw [hchan]; exact h2.trans hoff
      · rw [hchan]; exact h1.trans hqueue
  have hunread : ∀ how : PageEnd, ((s.elapse dt).readEnded ch how).directoryPageDone none =
      (((s.elapse dt).readEnded ch how).onDir fun d => { d with counts := unread }).nextRecordPage header (page + 1) accepted :=
    fun how => directoryPageDone_unread (s := (s.elapse dt).readEnded ch how) hload
  have hrecord : ∀ bytes i, record bytes i = takeRecord bytes i := fun bytes i => by
    have hfield : ∀ off width : Nat, off + width ≤ 32 →
        Bytes.field (Bytes.slice bytes (32 * i) 32) off width = Bytes.field bytes (32 * i + off) width :=
      fun off width h => field_slice h
    simp only [takeRecord, Bytes.byteAt, hfield 0 3 (by decide), hfield 3 1 (by decide), hfield 4 4 (by decide),
      hfield 8 4 (by decide), hfield 12 2 (by decide), hfield 14 1 (by decide), hfield 16 4 (by decide), hfield 20 4 (by decide)]
    rfl
  refine ⟨fun hwait out => ⟨?_, fun hout => hends _ _ _ _ ?_⟩, fun ht =>
    ⟨fun hwait => hends _ _ _ _ ?_, fun hwait out => hends _ _ _ _ ?_⟩⟩
  · intro bytes hout checked
    have hdata : pageData out = some bytes := by rcases hout with rfl | rfl <;> rfl
    have hchecked : checked = ((List.range (recordsOnPage header.records page)).map (takeRecord bytes)).foldl
        (checkRecord config s.fetch.extent header.blocks) (accepted, s.dir.counts) := by
      rw [show (takeRecord bytes) = record bytes from funext fun i => (hrecord bytes i).symm]
      rfl
    refine hends _ _ _ _ ?_
    rw [directoryPageRead_answers hop hwait, hdata, directoryPageDone_records
      (s := (s.elapse dt).readEnded ch (.answer out)) hload hconfig hchecked]
  · subst hout
    rw [directoryPageRead_answers hop hwait, ← hunread]
    rfl
  · rw [directoryPage_timesOut (out := .uncorrectable) hop (.inl ⟨rfl, hwait⟩), timedOut_directoryPage (s := s.elapse dt) ht, hunread]
  · rw [directoryPage_timesOut (out := out) hop (.inr ⟨rfl, hwait⟩), timedOut_directoryPage (s := s.elapse dt) ht]
    exact congrArg (fun u => Host.Outcome.next (State.finish (State.issueDirectory _ (State.afterOperation ch u)))) (hunread (.late out))

end Sys2Proof.Machine


/-! SUPPORT. The cache's answer to a lookup (R101 to R104, R116, R117). -/

namespace Sys2Proof.Machine

/-! ### A fetch's place in its queue (R117) -/

/-- Fetch f comes before fetch x. -/
theorem before_iff (f x : Fetch) : f.before x = true
    ↔ signedDiff f.deadline x.deadline < 0 ∨ (f.deadline = x.deadline ∧ f.order < x.order) := by
  simp [Fetch.before]

theorem insertFetch_place (f : Fetch) (queue : List Fetch) : ∃ front back, queue = front ++ back
    ∧ insertFetch f queue = front ++ f :: back ∧ (∀ x ∈ front, ¬ f.before x = true)
    ∧ ∀ x rest, back = x :: rest → f.before x = true := by
  induction queue with
  | nil => exact ⟨[], [], rfl, rfl, by simp, by simp⟩
  | cons y rest ih =>
    by_cases h : f.before y = true
    · exact ⟨[], y :: rest, rfl, if_pos h, by simp, fun x r hx => by cases hx; exact h⟩
    · obtain ⟨front, back, hq, hins, hfront, hback⟩ := ih
      refine ⟨y :: front, back, by rw [hq]; rfl, ?_, List.forall_mem_cons.mpr ⟨h, hfront⟩, hback⟩
      rw [insertFetch, if_neg h, hins]
      rfl

/-! ### A key that a slot carries -/

section
variable {s : State} {zone : Zone} {k block : Nat} {deadline : Time} {n : SlotNo} {slot : Slot}

theorem findKey_eq (htable : s.TableLaw) (hcache : s.CacheLaw) (hs : s.slot? n = some slot) :
    s.findKey slot.zone slot.k = some (n, slot) := by
  obtain ⟨-, -, hwf, hlt⟩ := htable
  obtain ⟨hkeys, -⟩ := hcache
  have hmem : (n.val, slot) ∈ s.cache.slots := Sparse.mem_of_get hs
  have hfind : s.cache.slots.find? (fun p => p.2.zone == slot.zone && p.2.k == slot.k) = some (n.val, slot) := by
    have hnodup := hkeys
    revert hmem hnodup
    generalize s.cache.slots = l
    intro hmem hnodup
    induction l with
    | nil => cases hmem
    | cons p rest ih =>
      obtain ⟨hp, hrest⟩ := List.nodup_cons.mp hnodup
      rcases List.mem_cons.mp hmem with rfl | hmem
      · exact List.find?_cons_of_pos (by simp)
      · rw [List.find?_cons_of_neg]
        · exact ih hmem hrest
        · intro he
          have he' : p.2.zone = slot.zone ∧ p.2.k = slot.k := by simpa using he
          exact hp (List.mem_map.mpr ⟨_, hmem, by dsimp only; rw [he'.1, he'.2]⟩)
  rw [State.findKey, hfind]
  simp

theorem findKey_none (h : ∀ p ∈ s.cache.slots, p.2.zone = zone → p.2.k ≠ k) : s.findKey zone k = none := by
  have hfind : s.cache.slots.find? (fun p => p.2.zone == zone && p.2.k == k) = none := by
    rw [List.find?_eq_none]
    intro p hp he
    have he' : p.2.zone = zone ∧ p.2.k = k := by simpa using he
    exact h p hp he'.1 he'.2
  rw [State.findKey, hfind]

theorem lookup_hit (htable : s.TableLaw) (hcache : s.CacheLaw) (hs : s.slot? n = some slot) :
    s.lookup slot.zone slot.k block deadline = some { slot := n, state := s.hit n slot deadline, report := .none } := by
  simp only [State.lookup, findKey_eq htable hcache hs]

theorem lookup_miss (h : ∀ p ∈ s.cache.slots, p.2.zone = zone → p.2.k ≠ k) :
    s.lookup zone k block deadline = s.allocate zone k block deadline := by
  simp only [State.lookup, findKey_none h]

/-! ### The hits -/

theorem fetchOf_mapFetch {ch : Channel} {f : Fetch} {g : Fetch → Fetch} (hg : ∀ x, (g x).slot = x.slot) (h : ch.fetchOf n = some f) :
    (ch.mapFetch n g).fetchOf n = some (g f) := by
  have hslot : ((fun x : Fetch => x.slot == n) ∘ fun x => if x.slot = n then g x else x) = fun x => x.slot == n := by
    funext x
    by_cases hx : x.slot = n <;> simp [hx, hg]
  have hfind : ch.queue.find? (fun x => x.slot == n) = some f := h
  show (ch.queue.map fun x => if x.slot = n then g x else x).find? (fun x => x.slot == n) = some (g f)
  rw [List.find?_map, hslot, hfind, Option.map_some, if_pos (mem_of_fetchOf h).2]

theorem others_mapFetch {g : Fetch → Fetch} (hg : ∀ x, (g x).slot = x.slot) (ch : Channel) :
    (ch.mapFetch n g).queue.filter (fun x => x.slot != n) = ch.queue.filter fun x => x.slot != n := by
  have hslot : ((fun x : Fetch => x.slot != n) ∘ fun x => if x.slot = n then g x else x) = fun x => x.slot != n := by
    funext x
    by_cases hx : x.slot = n <;> simp [hx, hg]
  show (ch.queue.map fun x => if x.slot = n then g x else x).filter (fun x => x.slot != n) = _
  rw [List.filter_map, hslot]
  refine (List.map_congr_left fun x hx => if_neg ?_).trans (List.map_id _)
  simpa using (List.mem_filter.mp hx).2

theorem hit_valid (hcache : s.CacheLaw) (hs : s.slot? n = some slot) (hst : slot.state = .valid) :
    s.hit n slot deadline = { s with cache := { s.cache with
      slots := Sparse.modify s.cache.slots n.val fun x => { x with refs := x.refs + 1 }
      reclaim := s.cache.reclaim.filter (· != n)
      counts := { s.cache.counts with validHit := inc s.cache.counts.validHit } } } := by
  obtain ⟨-, -, -, -, -, -, -, -, hreclaim, -⟩ := hcache
  have hfilter : (if slot.refs = 0 then s.cache.reclaim.filter (· != n) else s.cache.reclaim) = s.cache.reclaim.filter (· != n) := by
    split
    · rfl
    · rename_i hr
      refine (List.filter_eq_self.mpr fun m hm => ?_).symm
      have hne : m ≠ n := by
        rintro rfl
        obtain ⟨x, hx, -, hx0⟩ := (hreclaim m).mp hm
        exact hr (Option.some.inj (hx.symm.trans hs) ▸ hx0)
      simpa using hne
  rw [← hfilter]
  simp only [State.hit, hst]
  rfl

theorem hit_patched (hst : slot.state = .patched) : s.hit n slot deadline = { s with cache := { s.cache with
      slots := Sparse.modify s.cache.slots n.val fun x => { x with refs := x.refs + 1 }
      counts := { s.cache.counts with patchedShare := inc s.cache.counts.patchedShare } } } := by
  simp only [State.hit, hst]
  rfl

theorem hit_filling {c : ChannelNo} (hst : slot.state = .filling) (hc : s.fetchingChannel n = some c)
    (hd : 0 ≤ signedDiff deadline slot.deadline) : s.hit n slot deadline = ({ s with cache := { s.cache with
      slots := Sparse.modify s.cache.slots n.val fun x => { x with refs := x.refs + 1 }
      counts := { s.cache.counts with fillingHit := inc s.cache.counts.fillingHit } } }).updChan c
        (Channel.mapFetch n fun x => { x with cancelPending := false }) := by
  simp only [State.hit, hst, hc, if_neg (not_lt.mpr hd)]
  rfl

theorem hit_filling_sooner {c : ChannelNo} {f : Fetch} (hst : slot.state = .filling) (hc : s.fetchingChannel n = some c)
    (hf : (s.chan c).fetchOf n = some f) (hd : signedDiff deadline slot.deadline < 0) :
    s.hit n slot deadline = ({ s with cache := { s.cache with
      slots := Sparse.modify s.cache.slots n.val fun x => { x with refs := x.refs + 1, deadline := deadline }
      counts := { s.cache.counts with fillingHit := inc s.cache.counts.fillingHit } } }).updChan c fun ch =>
        { ch with queue := insertFetch { f with deadline := deadline, cancelPending := false } (ch.queue.filter fun x => x.slot != n) } := by
  simp only [State.hit, hst, hc, if_pos hd]
  have hslots : Sparse.modify (Sparse.modify s.cache.slots n.val fun x => { x with refs := x.refs + 1 }) n.val
      (fun x : Slot => { x with deadline := deadline }) =
      Sparse.modify s.cache.slots n.val fun x => { x with refs := x.refs + 1, deadline := deadline } := Sparse.modify_modify _ _ _ _
  rw [← hslots]
  show State.updChan c _ (State.updChan c (Channel.mapFetch n fun x => { x with cancelPending := false })
    { s with cache := { s.cache with
      slots := Sparse.modify (Sparse.modify s.cache.slots n.val fun x => { x with refs := x.refs + 1 }) n.val
        (fun x : Slot => { x with deadline := deadline })
      counts := { s.cache.counts with fillingHit := inc s.cache.counts.fillingHit } } }) = _
  rw [updChan_updChan]
  refine updChan_congr _ c ?_
  have hof := fetchOf_mapFetch (g := fun x => { x with cancelPending := false }) (fun _ => rfl) hf
  have hothers := others_mapFetch (n := n) (g := fun x => { x with cancelPending := false }) (fun _ => rfl) (s.chan c)
  show Channel.lowerDeadline n deadline (Channel.mapFetch n (fun x => { x with cancelPending := false }) (s.chan c)) = _
  simp only [Channel.lowerDeadline, hof, hothers]
  rfl

end

/-! ### The slot a miss takes (R104) -/

theorem freeList_next {c : Cache} (h : c.freeNext < 262144) :
    c.freeList = c.freeNext :: Cache.freeList { c with freeNext := c.freeNext + 1 } := by
  obtain ⟨m, hm⟩ : ∃ m, Config.slots - c.freeNext = m + 1 := ⟨262144 - c.freeNext - 1, by
    show 262144 - c.freeNext = _
    omega⟩
  have hm' : Config.slots - (c.freeNext + 1) = m := by omega
  rw [Cache.freeList, Cache.freeList, hm, hm', List.range_succ_eq_map, List.map_cons, List.map_map, Nat.zero_add]
  have hstep : ((fun x => x + c.freeNext) ∘ Nat.succ) = fun x => x + (c.freeNext + 1) := by
    funext x
    simp only [Function.comp, Nat.succ_eq_add_one]
    omega
  rw [hstep]
  rfl

theorem freeList_tail {c : Cache} (h : ¬ c.freeNext < 262144) : c.freeList = c.freeTail.map Fin.val := by
  have h0 : Config.slots - c.freeNext = 0 := Nat.sub_eq_zero_of_le (not_lt.mp h)
  rw [Cache.freeList, h0]
  rfl

/-- The head of the free list, else of the reclaim list. -/
theorem takeSlot_head {c : Cache} {n : SlotNo} (h : (c.freeList ++ c.reclaim.map Fin.val).head? = some n.val) :
    ∃ next tail, c.takeSlot = some (n, { c with
        freeNext := next, freeTail := tail
        reclaim := if c.freeList = [] then c.reclaim.tail else c.reclaim
        slots := if c.freeList = [] then Sparse.erase c.slots n.val else c.slots
        counts := { c.counts with reclaim := if c.freeList = [] then inc c.counts.reclaim else c.counts.reclaim } })
      ∧ Cache.freeList { c with freeNext := next, freeTail := tail } = c.freeList.tail := by
  by_cases hnext : c.freeNext < 262144
  · have hlist := freeList_next hnext
    rw [hlist] at h
    have hn : (⟨c.freeNext, hnext⟩ : SlotNo) = n := Fin.ext (Option.some.inj h)
    have hne : c.freeList ≠ [] := by rw [hlist]; simp
    refine ⟨c.freeNext + 1, c.freeTail, ?_, by rw [hlist]; rfl⟩
    simp only [Cache.takeSlot, dif_pos hnext, hn, if_neg hne]
  · have hlist := freeList_tail hnext
    rw [hlist] at h
    cases htail : c.freeTail with
    | cons m rest =>
      rw [htail] at h
      have hn : m = n := Fin.ext (Option.some.inj h)
      have hne : c.freeList ≠ [] := by rw [hlist, htail]; simp
      refine ⟨c.freeNext, rest, ?_, ?_⟩
      · simp only [Cache.takeSlot, dif_neg hnext, htail, hn, if_neg hne]
      · rw [hlist, htail, freeList_tail (c := { c with freeTail := rest }) hnext]
        rfl
    | nil =>
      rw [htail] at h
      have hempty : c.freeList = [] := by rw [hlist, htail]; rfl
      cases hrec : c.reclaim with
      | nil => rw [hrec] at h; cases h
      | cons m rest =>
        rw [hrec] at h
        have hn : m = n := Fin.ext (Option.some.inj h)
        refine ⟨c.freeNext, [], ?_, ?_⟩
        · simp only [Cache.takeSlot, dif_neg hnext, htail, hrec, hn, hempty, if_true, List.tail_cons]
        · rw [hempty]
          exact freeList_tail (c := { c with freeTail := [], reclaim := m :: rest }) hnext

/-! ### The fetch a miss requests (R116, R118) -/

section
variable {s : State} {n : SlotNo} {block : Nat} {deadline : Time}

/-- The fetch of a request. -/
def State.fetchFor (s : State) (n : SlotNo) (block : Nat) (deadline : Time) : Fetch :=
  { slot := n, block := block, deadline := deadline, pagesDone := 0, cancelPending := false
    order := (s.chan (channelOf block)).nextOrder }

theorem requestFetch_offline (h : (s.chan (channelOf block)).offline = true) : s.requestFetch n block deadline =
    (s.updChan (channelOf block) fun ch => { ch with nextOrder := ch.nextOrder + 1 },
      .offline (channelOf block) (s.fetchFor n block deadline)) := by
  simp only [State.requestFetch, h, if_true]
  rfl

/-- A channel with one more fetch asked of it. -/
def Channel.asked (f : Fetch) (ch : Channel) : Channel :=
  { ch with nextOrder := ch.nextOrder + 1, queue := insertFetch f ch.queue }

theorem requestFetch_queued (h : (s.chan (channelOf block)).offline = false) (hopen : s.channelOpen (channelOf block) = false) :
    s.requestFetch n block deadline =
      (s.updChan (channelOf block) (Channel.asked (s.fetchFor n block deadline)), .none) := by
  simp only [State.requestFetch, h, hopen, updChan_updChan, Bool.false_eq_true, if_false]
  rfl

theorem choice_alone {f : Fetch} (h : f.pagesDone = 0) (margin : Nat) : choiceOf [f] margin = some (f, false) := by
  simp [choiceOf, h]

/-- On an open channel the request is followed by the channel's choice. -/
theorem requestFetch_read {v : State} (h : (s.chan (channelOf block)).offline = false)
    (hopen : s.channelOpen (channelOf block) = true)
    (hv : (s.updChan (channelOf block) (Channel.asked (s.fetchFor n block deadline))).readNext (channelOf block) = (v, none)) :
    s.requestFetch n block deadline = (v, .none) := by
  unfold State.requestFetch
  dsimp only
  rw [if_neg (by rw [h]; decide), if_pos hopen, updChan_updChan]
  exact congrArg (fun r : State × Option SlotNo => match r with
    | (v, none) => (v, LateReport.none)
    | (v, some m) => (v, .beyond (channelOf block) m)) hv

theorem requestFetch_readBeyond {v : State} {m : SlotNo} (h : (s.chan (channelOf block)).offline = false)
    (hopen : s.channelOpen (channelOf block) = true)
    (hv : (s.updChan (channelOf block) (Channel.asked (s.fetchFor n block deadline))).readNext (channelOf block) = (v, some m)) :
    s.requestFetch n block deadline = (v, .beyond (channelOf block) m) := by
  unfold State.requestFetch
  dsimp only
  rw [if_neg (by rw [h]; decide), if_pos hopen, updChan_updChan]
  exact congrArg (fun r : State × Option SlotNo => match r with
    | (v, none) => (v, LateReport.none)
    | (v, some m) => (v, .beyond (channelOf block) m)) hv

/-- A choice of a page beyond the page count (R118). -/
theorem readNext_beyond {c : ChannelNo} {next : Fetch} {breakIn : Bool} (h : choiceOf (s.chan c).queue s.margin = some (next, breakIn))
    (hpage : (s.chan c).holdsPage (channelPage next.block next.pagesDone) = false) : s.readNext c =
      (s.updChan c fun k => { k with counts := { k.counts.countChoice next breakIn with
        beyondExtent := inc (k.counts.countChoice next breakIn).beyondExtent } }, some next.slot) := by
  have hnext : (s.chan c).nextFetch s.margin = some (next, breakIn) := (nextFetch_eq _ _).trans h
  simp only [State.readNext, hnext, hpage, State.countChan, updChan_updChan, Bool.false_eq_true, if_false]

theorem requestFetch_begun {m : Nat} (h : (s.chan (channelOf block)).offline = false) (hopen : s.channelOpen (channelOf block) = true)
    (hq : (s.chan (channelOf block)).queue = []) (hm : (s.chan (channelOf block)).pageCount = some m) (hlt : channelPage block 0 < m) :
    s.requestFetch n block deadline =
      (s.updChan (channelOf block) fun ch =>
        Channel.choosing s.now (s.fetchFor n block deadline) false (ch.asked (s.fetchFor n block deadline)), .none) := by
  have hchan := chan_updChan_self s (channelOf block) (Channel.asked (s.fetchFor n block deadline))
  have hread := readNext_reads (s := s.updChan (channelOf block) (Channel.asked (s.fetchFor n block deadline)))
      (c := channelOf block) (next := s.fetchFor n block deadline) (breakIn := false)
      (by rw [hchan, Channel.asked, hq]; exact choice_alone rfl _) (by rw [hchan]; exact holdsPage_of (by exact hm) hlt)
  rw [updChan_updChan] at hread
  exact requestFetch_read h hopen hread

theorem requestFetch_beyond (h : (s.chan (channelOf block)).offline = false) (hopen : s.channelOpen (channelOf block) = true)
    (hq : (s.chan (channelOf block)).queue = []) (hpage : (s.chan (channelOf block)).holdsPage (channelPage block 0) = false) :
    s.requestFetch n block deadline =
      (s.updChan (channelOf block) fun ch => { ch.asked (s.fetchFor n block deadline) with
        counts := { ch.counts with begun := inc ch.counts.begun, beyondExtent := inc ch.counts.beyondExtent } },
        .beyond (channelOf block) n) := by
  have hchan := chan_updChan_self s (channelOf block) (Channel.asked (s.fetchFor n block deadline))
  have hread := readNext_beyond (s := s.updChan (channelOf block) (Channel.asked (s.fetchFor n block deadline)))
      (c := channelOf block) (next := s.fetchFor n block deadline) (breakIn := false)
      (by rw [hchan, Channel.asked, hq]; exact choice_alone rfl _) (by rw [hchan]; exact hpage)
  rw [updChan_updChan] at hread
  exact requestFetch_readBeyond h hopen hread

end

end Sys2Proof.Machine


/-! SUPPORT. The entry of a mapped block, and what a lookup has left to be reported (R76, R104, R106, R123). -/

namespace Sys2Proof.Machine

section
variable {s : State} {i : Nat} {c : Context}

/-- An entry of a mapped block as its slot makes it: ready unless the slot is FILLING (R76). -/
def Entry.onSlot (e : Entry) (n : SlotNo) (slot : Slot) : Entry :=
  { e with slot := some n, ready := decide (slot.state ≠ .filling), patched := if slot.state = .filling then 0 else slot.patched }

theorem createEntry_mapped {found : Found} {slot : Slot} (hk : c.gen.k < c.zone.effective)
    (hfound : s.lookup c.zone.zone c.gen.k (c.zone.base + c.gen.k) (c.nextEntry s.lead).deadline = some found)
    (hslot : found.state.slot? found.slot = some slot) : s.createEntry i c =
      some (found.state.appendEntry i ((c.nextEntry s.lead).onSlot found.slot slot), found.report) := by
  have hek : (c.nextEntry s.lead).k = c.gen.k := rfl
  simp only [State.createEntry, hek, if_neg (not_le.mpr hk), hfound, hslot]
  by_cases hst : slot.state = .filling
  · simp only [Entry.onSlot, hst, if_true]
    rfl
  · simp only [Entry.onSlot, hst, if_false, ne_eq, not_false_eq_true, decide_true]
    rfl

end

section
variable {s : State} {c : ChannelNo} {f : Fetch} {slot : Slot}

theorem fills_of_cacheLaw (hcache : s.CacheLaw) (hs : s.slot? f.slot = some slot) : s.Fills f := by
  obtain ⟨-, hrefs, -⟩ := hcache
  refine ⟨slot, hs, fun hr p hp e he hes => ?_⟩
  have hsum : s.refsTo f.slot.val = 0 := (hrefs _ (Sparse.mem_of_get hs)).symm.trans hr
  have hzero := List.sum_eq_zero_iff.mp hsum _ (List.mem_map_of_mem hp)
  have hin : e ∈ p.2.window.filter fun e => e.slot.map Fin.val == some f.slot.val :=
    List.mem_filter.mpr ⟨he, by simp [hes]⟩
  rw [List.length_eq_zero_iff.mp hzero] at hin
  cases hin

/-- Page j of a fetch alone in its channel's queue, beyond the page count: it is chosen and reported patched. -/
theorem chooseFetch_beyond {fuel : Nat} (hq : (s.chan c).queue = [f]) (hd : f.pagesDone < 3)
    (hpage : (s.chan c).holdsPage (channelPage f.block f.pagesDone) = false) : s.chooseFetch c (fuel + 1) =
      ((s.updChan c fun k => { k with counts := { k.counts.countChoice f false with
        beyondExtent := inc (k.counts.countChoice f false).beyondExtent } }).completePage c f.slot none).chooseFetch c fuel := by
  have hchoice : choiceOf (s.chan c).queue s.margin = some (f, false) := by
    rw [hq, choiceOf]
    rcases (by omega : f.pagesDone = 0 ∨ f.pagesDone = 1 ∨ f.pagesDone = 2) with h | h | h <;> simp [h]
  simp only [State.chooseFetch, readNext_beyond hchoice hpage]

theorem chooseFetch_of_queue {fuel : Nat} (hq : (s.chan c).queue = []) : s.chooseFetch c fuel = s := by
  cases fuel with
  | zero => rfl
  | succ fuel => exact chooseFetch_of_read (readNext_of_none (nextFetch_of_queue hq)) fuel

/-- A channel after a patched page of the fetch alone in its queue. -/
def Channel.pagePatched (queue : List Fetch) (k : Channel) : Channel :=
  { k with queue := queue, counts := { k.counts with patchedPages := inc k.counts.patchedPages } }

theorem completePage_alone (hq : (s.chan c).queue = [f]) (hd : f.pagesDone < 2) : s.completePage c f.slot none =
    (s.reportPage f.slot f.pagesDone none).updChan c (Channel.pagePatched [{ f with pagesDone := f.pagesDone + 1 }]) := by
  have hof : (s.chan c).fetchOf f.slot = some f := fetchOf_eq (by simp [hq]) (by simp [hq]) rfl
  rw [completePage_early hof hd]
  refine updChan_congr _ c ?_
  simp only [chan_reportPage, Channel.mapFetch, Channel.pageCounted, Channel.pagePatched, hq, List.map_cons, List.map_nil, if_true,
    Option.isNone_none]

theorem completePage_alone_third (hq : (s.chan c).queue = [f]) (hd : f.pagesDone = 2) : s.completePage c f.slot none =
    ((s.reportPage f.slot f.pagesDone none).updChan c fun k =>
      { k.pagePatched [] with counts := { (k.pagePatched []).counts with completed := inc k.counts.completed } }).fillComplete
        f.slot := by
  have hof : (s.chan c).fetchOf f.slot = some f := fetchOf_eq (by simp [hq]) (by simp [hq]) rfl
  rw [completePage_third hof (by omega)]
  refine congrArg (State.fillComplete f.slot) (updChan_congr _ c ?_)
  have hfilter : (s.chan c).queue.filter (fun x => x.slot != f.slot) = [] := by simp [hq]
  simp only [chan_reportPage, Channel.dropFetch, Channel.pageCounted, Channel.pagePatched, hfilter, if_true, Option.isNone_none]

/-- A channel after one more page chosen beyond its page count. -/
def Channel.pageBeyond (k : Channel) : Channel := { k with counts := { k.counts with beyondExtent := inc k.counts.beyondExtent } }

theorem countChoice_partial (hd : f.pagesDone ≠ 0) (k : Channel) : ({ k with counts := { k.counts.countChoice f false with
    beyondExtent := inc (k.counts.countChoice f false).beyondExtent } } : Channel) = k.pageBeyond := by
  simp [ChannelCounts.countChoice, hd, Channel.pageBeyond]

/-- The second page beyond the page count. -/
theorem chooseFetch_second {fuel : Nat} (hq : (s.chan c).queue = [f]) (hd : f.pagesDone = 1)
    (hpage : (s.chan c).holdsPage (channelPage f.block 1) = false) : s.chooseFetch c (fuel + 1) =
      ((s.reportPage f.slot 1 none).updChan c fun k => k.pageBeyond.pagePatched [{ f with pagesDone := 2 }]).chooseFetch c fuel := by
  rw [chooseFetch_beyond hq (by omega) (by rw [hd]; exact hpage), completePage_alone (f := f)]
  · simp only [countChoice_partial (f := f) (by omega), hd, reportPage_updChan, updChan_updChan]
  · rw [chan_updChan_self]
    exact hq
  · omega

/-- The third page beyond the page count. -/
theorem chooseFetch_third {fuel : Nat} (hq : (s.chan c).queue = [f]) (hd : f.pagesDone = 2)
    (hpage : (s.chan c).holdsPage (channelPage f.block 2) = false) : s.chooseFetch c (fuel + 1) =
      (((s.reportPage f.slot 2 none).updChan c fun k => { k.pageBeyond.pagePatched [] with
        counts := { (k.pageBeyond.pagePatched []).counts with completed := inc k.counts.completed } }).fillComplete
          f.slot).chooseFetch c fuel := by
  rw [chooseFetch_beyond hq (by omega) (by rw [hd]; exact hpage), completePage_alone_third (f := f)]
  · simp only [countChoice_partial (f := f) (by omega), hd, reportPage_updChan, updChan_updChan]
    rfl
  · rw [chan_updChan_self]
    exact hq
  · exact hd

theorem inc_inc (k : Count) : inc (inc k) = addCount k 2 := addCount_addCount k 1 1

theorem inc_addCount_two (k : Count) : inc (addCount k 2) = addCount k 3 := addCount_addCount k 2 1

/-- What is reported of a fetch whose pages all lie beyond the page count, alone in its queue. -/
theorem report_beyond (hq : (s.chan c).queue = [f]) (hd : f.pagesDone = 0)
    (hpage : ∀ j, (s.chan c).holdsPage (channelPage f.block j) = false) (hf : s.Fills f)
    (ht : Sparse.wf s.streams.contexts) (htol : ∀ p ∈ s.streams.contexts, p.2.policy = .tolerant) : ∃ cache streams,
    PatchRun [f] s { s with cache := cache, streams := streams }
      ∧ s.report (.beyond c f.slot) = ({ s with cache := cache, streams := streams }).updChan c fun k =>
        { k with queue := [], counts := { k.counts with
            beyondExtent := addCount k.counts.beyondExtent 2, patchedPages := addCount k.counts.patchedPages 3
            completed := inc k.counts.completed } } := by
  obtain ⟨cache, streams, hrun, hgives⟩ := PatchRun.pages (left := 3) hf (by omega) (fun h => by cases h) ht htol
  refine ⟨cache, streams, hrun, ?_⟩
  have hthree := hgives c fun k => { k with queue := [], counts := { k.counts with
            beyondExtent := addCount k.counts.beyondExtent 2, patchedPages := addCount k.counts.patchedPages 3
            completed := inc k.counts.completed } }
  have hpages : (List.range 3).foldl (fun (t : State) i => t.reportPage f.slot (f.pagesDone + i) none) s =
      ((s.reportPage f.slot 0 none).reportPage f.slot 1 none).reportPage f.slot 2 none := by rw [hd]; rfl
  rw [hpages] at hthree
  obtain ⟨s₁, hs₁⟩ : ∃ t : State, t = (s.reportPage f.slot 0 none).updChan c (Channel.pagePatched [{ f with pagesDone := 1 }]) := ⟨_, rfl⟩
  have hchan₁ : s₁.chan c = Channel.pagePatched [{ f with pagesDone := 1 }] (s.chan c) := by
    rw [hs₁, chan_updChan_self, chan_reportPage]
  have hfirst : s.completePage c f.slot none = s₁ := by rw [completePage_alone hq (by omega), hd, hs₁]
  obtain ⟨s₂, hs₂⟩ : ∃ t : State, t = ((s₁.reportPage f.slot 1 none).updChan c fun k =>
      k.pageBeyond.pagePatched [{ f with pagesDone := 2 }]) := ⟨_, rfl⟩
  have hchan₂ : s₂.chan c = (s₁.chan c).pageBeyond.pagePatched [{ f with pagesDone := 2 }] := by
    rw [hs₂, chan_updChan_self, chan_reportPage]
  have hsecond : s₁.chooseFetch c 4 = s₂.chooseFetch c 3 := by
    rw [hs₂]
    exact chooseFetch_second (f := { f with pagesDone := 1 }) (by rw [hchan₁]; rfl) rfl (by rw [hchan₁]; exact hpage 1)
  have hthird : s₂.chooseFetch c 3 = _ :=
    chooseFetch_third (f := { f with pagesDone := 2 }) (by rw [hchan₂]; rfl) rfl (by rw [hchan₂, hchan₁]; exact hpage 2)
  have hcompose : (s₂.reportPage f.slot 2 none).updChan c (fun k => { k.pageBeyond.pagePatched [] with
        counts := { (k.pageBeyond.pagePatched []).counts with completed := inc k.counts.completed } }) =
      ((((s.reportPage f.slot 0 none).reportPage f.slot 1 none).reportPage f.slot 2 none).updChan c fun k =>
        { k with queue := [], counts := { k.counts with
            beyondExtent := addCount k.counts.beyondExtent 2, patchedPages := addCount k.counts.patchedPages 3
            completed := inc k.counts.completed } }) := by
    rw [hs₂, hs₁, reportPage_updChan, reportPage_updChan, reportPage_updChan, updChan_updChan, updChan_updChan]
    refine updChan_congr _ c ?_
    simp only [Channel.pageBeyond, Channel.pagePatched, inc_inc, inc_addCount_two]
  have hqueue : (s₁.chan c).queue.length = 1 := by rw [hchan₁]; rfl
  rw [State.report, hfirst, State.chooseFetches, hqueue, hsecond, hthird]
  dsimp only
  rw [hcompose, hthree, chooseFetch_of_queue]
  rw [chan_updChan_self]

end

end Sys2Proof.Machine


/-! SUPPORT. A miss, by the state of the channel of its block (R104, R116). -/

namespace Sys2Proof.Machine

section
variable {s : State} {zone : Zone} {k block : Nat} {deadline : Time} {n : SlotNo}

/-- The state in which a miss has taken its slot, before the fetch is requested. -/
def State.slotTaken (s : State) (zone : Zone) (k : Nat) (deadline : Time) (n : SlotNo) (cache : Cache) : State :=
  { s with cache := { cache with
      slots := Sparse.put cache.slots n.val
        { state := .filling, zone := zone, k := k, refs := 1, pagesDone := 0, patched := 0, deadline := deadline }
      counts := { cache.counts with miss := inc cache.counts.miss } } }

theorem allocate_eq {cache : Cache} (h : s.cache.takeSlot = some (n, cache)) : s.allocate zone k block deadline =
    some { slot := n, state := ((s.slotTaken zone k deadline n cache).requestFetch n block deadline).1
           report := ((s.slotTaken zone k deadline n cache).requestFetch n block deadline).2 } := by
  simp only [State.allocate, h]
  rfl

/-- A fetch request touches the fetch engine alone. -/
theorem requestFetch_frame (n : SlotNo) (block : Nat) (deadline : Time) :
    (s.requestFetch n block deadline).1 = { s with fetch := (s.requestFetch n block deadline).1.fetch } := by
  have hread : ∀ (c : ChannelNo) (u : State), (u.readNext c).1 = { u with fetch := (u.readNext c).1.fetch } := fun c u => by
    unfold State.readNext
    split
    · rfl
    · dsimp only
      split <;> rfl
  unfold State.requestFetch
  dsimp only
  split
  · rfl
  · split
    · split
      · rename_i v heq
        exact (congrArg Prod.fst heq).symm.trans ((hread _ _).trans (by rw [heq]; rfl))
      · rename_i v m heq
        exact (congrArg Prod.fst heq).symm.trans ((hread _ _).trans (by rw [heq]; rfl))
    · rfl

end

/-- Settles O52: the lookup by the state of the slot and of the channel. -/
theorem lookupByTheSlotsState : Obligations.LookupByTheSlotsState := by
  refine ⟨fun f queue => ?_, ?_, ?_, ?_, fun s => rfl, ?_⟩
  · intro first
    obtain ⟨front, back, hq, hins, hfront, hback⟩ := insertFetch_place f queue
    exact ⟨front, back, hq, hins, fun x hx hf => hfront x hx ((before_iff f x).mpr hf),
      fun x rest hx => (before_iff f x).mp (hback x rest hx)⟩
  · rintro zone k block deadline n slot s htable hcache hs rfl rfl finds more sooner filling
    have hfinds : ∀ {t : State}, s.hit n slot deadline = t → finds t := fun ht =>
      ht ▸ lookup_hit (block := block) (deadline := deadline) htable hcache hs
    refine ⟨fun hst => hfinds (hit_valid hcache hs hst), fun hst => hfinds (hit_patched hst), fun hst hlaw c f hf hn => ?_⟩
    have hchan : s.fetchingChannel n = some c := fetchingChannel_eq hlaw hf hn
    have hof : (s.chan c).fetchOf n = some f := fetchOf_eq (hlaw.2.1 c) hf hn
    exact ⟨fun hd => hfinds (hit_filling hst hchan hd), fun hd => hfinds (hit_filling_sooner hst hchan hof hd)⟩
  · intro zone k block deadline n s htable hcache hmiss hhead c f asked
    obtain ⟨next, tail, htake, htail⟩ := takeSlot_head hhead
    obtain ⟨v, hv⟩ : ∃ v : State, v = s.slotTaken zone k deadline n { s.cache with
        freeNext := next, freeTail := tail
        reclaim := if s.cache.freeList = [] then s.cache.reclaim.tail else s.cache.reclaim
        slots := if s.cache.freeList = [] then Sparse.erase s.cache.slots n.val else s.cache.slots
        counts := { s.cache.counts with
          reclaim := if s.cache.freeList = [] then inc s.cache.counts.reclaim else s.cache.counts.reclaim } } := ⟨_, rfl⟩
    have hfound := (lookup_miss (block := block) (deadline := deadline) hmiss).trans (allocate_eq htake)
    rw [← hv] at hfound
    have hframe := requestFetch_frame (s := v) n block deadline
    have hvchan : ∀ d, v.chan d = s.chan d := fun d => by rw [hv]; rfl
    have hasked : ∀ g : Channel → Channel, (v.updChan c g).fetch = (s.updChan c g).fetch := fun g => by rw [hv]; rfl
    have hf : v.fetchFor n block deadline = f := by rw [State.fetchFor, hvchan]
    have hstate : (v.requestFetch n block deadline).1.cache = v.cache := by rw [hframe]
    have hslots : ∀ m : SlotNo, (v.requestFetch n block deadline).1.slot? m = if n = m then some
        { state := .filling, zone := zone, k := k, refs := 1, pagesDone := 0, patched := 0, deadline := deadline }
        else s.slot? m := fun m => by
      rw [State.slot?, hstate, hv]
      show Sparse.get (Sparse.put (if s.cache.freeList = [] then Sparse.erase s.cache.slots n.val else s.cache.slots) n.val _) m.val = _
      rw [Sparse.get_put]
      by_cases h : n = m
      · rw [if_pos h, if_pos (congrArg Fin.val h)]
      · have hval : n.val ≠ m.val := fun he => h (Fin.ext he)
        rw [if_neg h, if_neg hval, State.slot?]
        split
        · rw [Sparse.get_erase, if_neg hval]
        · rfl
    have hvoff : ∀ {b : Bool}, (s.chan c).offline = b → (v.chan c).offline = b := fun h => by rw [hvchan]; exact h
    refine ⟨_, hfound, rfl, ?_, ?_, fun m hm => ?_, ?_, ?_, ?_, fun hoff => ?_, fun hoff => ⟨fun hbusy => ?_, fun hop hprobe hclear hq =>
      ⟨fun m hm hlt => ?_, fun hm => ?_⟩⟩⟩
    · dsimp only
      rw [hstate, hframe, hv]
      rfl
    · exact (hslots n).trans (if_pos rfl)
    · exact (hslots m).trans (if_neg hm.symm)
    · dsimp only
      rw [hstate, hv]
      exact htail
    · dsimp only
      rw [hstate, hv]
      rfl
    · dsimp only
      rw [hstate, hv]
      rfl
    · dsimp only
      rw [requestFetch_offline (hvoff hoff), hf]
      exact ⟨rfl, hasked _⟩
    · have hclosed : v.channelOpen c = false := by
        rw [Bool.eq_false_iff, Ne, channelOpen_iff, hvchan, hv]
        rintro ⟨h1, h2, h3⟩
        rcases hbusy with h | h | h
        · exact h h1
        · rw [h2] at h; cases h
        · have h3' : s.cleared = false := h3
          rw [h3'] at h; cases h
      dsimp only
      rw [requestFetch_queued (hvoff hoff) hclosed, hf]
      exact ⟨rfl, hasked _⟩
    · have hopen : v.channelOpen c = true := channelOpen_iff.mpr ⟨by rw [hvchan]; exact hop, by rw [hvchan]; exact hprobe,
        by rw [hv]; exact hclear⟩
      dsimp only
      rw [requestFetch_begun (hvoff hoff) hopen (by rw [hvchan]; exact hq) (by rw [hvchan]; exact hm) hlt, hf]
      refine ⟨rfl, (hasked _).trans (congrArg State.fetch (updChan_congr s c ?_))⟩
      rw [hv]
      simp only [Channel.choosing, Channel.asked, hq, ChannelCounts.countChoice]
      rfl
    · have hopen : v.channelOpen c = true := channelOpen_iff.mpr ⟨by rw [hvchan]; exact hop, by rw [hvchan]; exact hprobe,
        by rw [hv]; exact hclear⟩
      have hpage : (v.chan c).holdsPage (channelPage block 0) = false := by
        rw [hvchan, Channel.holdsPage]
        cases hcount : (s.chan c).pageCount with
        | none => rfl
        | some m => exact decide_eq_false (not_lt.mpr (hm m hcount))
      dsimp only
      rw [requestFetch_beyond (hvoff hoff) hopen (by rw [hvchan]; exact hq) hpage, hf]
      refine ⟨rfl, (hasked _).trans (congrArg State.fetch (updChan_congr s c ?_))⟩
      simp only [Channel.asked, hq]
      rfl
  · intro i c found slot s hk e hfound hslot
    exact createEntry_mapped hk hfound hslot
  · intro c f slot s htable hmem hcache htol hs hd completes
    have hfills : s.Fills f := fills_of_cacheLaw hcache hs
    have hcompletes : ∀ {r : LateReport} {g h : Channel → Channel} {cache : Cache} {streams : StreamEngine},
        PatchRun [f] s { s with cache := cache, streams := streams } →
        s.report r = ({ s with cache := cache, streams := streams }).updChan c h →
        h (s.chan c) = { g (s.chan c) with counts := { (g (s.chan c)).counts with
          patchedPages := addCount (s.chan c).counts.patchedPages 3, completed := inc (s.chan c).counts.completed } } →
        completes r g := fun {r g h cache streams} hrun hgives hh => by
      refine ⟨(hrun.congr (by rw [hgives]; rfl) (by rw [hgives]; rfl)).queuePatched, ?_⟩
      rw [updChan_congr s c (g := h) hh.symm, hgives]
      rfl
    refine ⟨?_, fun hq hpages => ?_, fun hq => ?_⟩
    · obtain ⟨cache, streams, hrun, hgives⟩ := finishPatched_run (queue := []) c
        ⟨htable.1, htol, by simpa using hfills, by simp [hd], by simp⟩
      refine hcompletes hrun hgives ?_
      simp only [Channel.patchedFor, List.map_cons, List.map_nil, List.sum_cons, List.sum_nil, hd, List.length_cons, List.length_nil]
      rfl
    · have hpage : ∀ j, (s.chan c).holdsPage (channelPage f.block j) = false := fun j => by
        rw [Channel.holdsPage]
        cases hcount : (s.chan c).pageCount with
        | none => rfl
        | some m =>
          have hm := hpages m hcount
          rw [channelPage] at hm
          exact decide_eq_false (by rw [channelPage]; omega)
      obtain ⟨cache, streams, hrun, hgives⟩ := report_beyond hq hd hpage hfills htable.1 htol
      exact hcompletes hrun hgives rfl
    · have hof : (s.chan c).fetchOf f.slot = none := fetchOf_none (by simp [hq])
      have hstay : s.completePage c f.slot none = s := by simp only [State.completePage, hof]
      rw [State.report, hstay, chooseFetches_of_queue hq]

end Sys2Proof.Machine


/-! SUPPORT. What the bus-stuck watch has no part in: the windows, the cache and the channels; and a window that is full
(R76, R77, R82, R104, R106, R118, R120, R123, R159). -/

namespace Sys2Proof.Machine

/-! ### The bus-stuck watch set to a value -/

/-- s with the bus-stuck watch set to w. -/
def State.watched (w : StuckWatch) (s : State) : State := s.onBus fun b => { b with watch := w }

section
variable {n : SlotNo} {c : ChannelNo} (w : StuckWatch) (s : State)

theorem watched_plain : (s.watched w).plain = s.plain := rfl

theorem watched_countStreams (f : StreamCounts → StreamCounts) :
    (s.watched w).countStreams f = (s.countStreams f).watched w := rfl
theorem watched_updCtx (i : Nat) (f : Context → Context) : (s.watched w).updCtx i f = (s.updCtx i f).watched w := rfl
theorem watched_updSlot (f : Slot → Slot) : (s.watched w).updSlot n f = (s.updSlot n f).watched w := rfl
theorem watched_countCache (f : CacheCounts → CacheCounts) : (s.watched w).countCache f = (s.countCache f).watched w := rfl
theorem watched_updChan (f : Channel → Channel) : (s.watched w).updChan c f = (s.updChan c f).watched w := rfl
theorem watched_countChan (f : ChannelCounts → ChannelCounts) : (s.watched w).countChan c f = (s.countChan c f).watched w := rfl
theorem watched_reportPage (j : Nat) (data : Option (List Byte)) :
    (s.watched w).reportPage n j data = (s.reportPage n j data).watched w := rfl

theorem watched_released (entries : List Entry) : (s.watched w).released entries = (s.released entries).watched w :=
  (released_comm (f := State.watched w) s entries fun _ _ => rfl).symm

theorem watched_withdraw (entries : List Entry) : (s.watched w).withdraw entries = (s.withdraw entries).watched w := by
  rw [withdraw_eq, withdraw_eq, watched_countStreams, watched_released]

theorem watched_enterSpent (i : Nat) (reason : EndReason) :
    (s.watched w).enterSpent i reason = (s.enterSpent i reason).watched w := by
  have hctx : (s.watched w).ctx? i = s.ctx? i := rfl
  unfold State.enterSpent
  rw [hctx]
  split
  · rfl
  · dsimp only
    rw [watched_updCtx, watched_withdraw]
    rfl

theorem watched_policyTest (i : Nat) : (s.watched w).policyTest i = (s.policyTest i).watched w := by
  have hctx : (s.watched w).ctx? i = s.ctx? i := rfl
  unfold State.policyTest
  rw [hctx]
  split
  · rfl
  · split
    · rfl
    · split
      · dsimp only
        split
        · exact watched_enterSpent w (s.updCtx i _) i .fault
        · rfl
      · rfl

theorem watched_fillContext (set : PageSet) (i : Nat) :
    (s.watched w).fillContext n set i = (s.fillContext n set i).watched w := by
  have hctx : (s.watched w).ctx? i = s.ctx? i := rfl
  unfold State.fillContext
  rw [hctx]
  split
  · rfl
  · dsimp only
    split
    · rfl
    · split
      · exact watched_policyTest w (s.updCtx i _) i
      · rfl

theorem watched_foldl {α : Type} {f : State → α → State} (h : ∀ (t : State) a, f (t.watched w) a = (f t a).watched w)
    (l : List α) : l.foldl f (s.watched w) = (l.foldl f s).watched w := by
  induction l generalizing s with
  | nil => rfl
  | cons a rest ih => rw [List.foldl_cons, List.foldl_cons, h, ih]

theorem watched_fillComplete : (s.watched w).fillComplete n = (s.fillComplete n).watched w := by
  have hslot : (s.watched w).slot? n = s.slot? n := rfl
  unfold State.fillComplete
  rw [hslot]
  split
  · rfl
  · rename_i slot _
    have hwindows : ∀ u : State, (u.watched w).live.foldl (State.fillContext n slot.patched) (u.watched w) =
        (u.live.foldl (State.fillContext n slot.patched) u).watched w :=
      fun u => watched_foldl w u (fun t i => watched_fillContext w t slot.patched i) u.live
    dsimp only
    by_cases hp : slot.patched = 0
    · simp only [if_pos hp]
      split
      · rfl
      · rw [watched_updSlot, watched_countCache, hwindows]
    · simp only [if_neg hp]
      split
      · rfl
      · rw [watched_updSlot, watched_countCache, hwindows]

theorem watched_completePage (data : Option (List Byte)) :
    (s.watched w).completePage c n data = (s.completePage c n data).watched w := by
  have hchan : (s.watched w).chan c = s.chan c := rfl
  cases hf : (s.chan c).fetchOf n with
  | none =>
    unfold State.completePage
    rw [hchan, hf]
  | some f =>
    by_cases hd : f.pagesDone < 2
    · rw [completePage_early (hchan ▸ hf) hd, completePage_early hf hd]
      rfl
    · rw [completePage_third (hchan ▸ hf) hd, completePage_third hf hd, watched_reportPage, watched_updChan,
        watched_fillComplete]

theorem watched_reportPages (f : Fetch) (l : List Nat) : l.foldl (fun (t : State) i => t.reportPage f.slot (f.pagesDone + i) none)
    (s.watched w) = (l.foldl (fun (t : State) i => t.reportPage f.slot (f.pagesDone + i) none) s).watched w :=
  watched_foldl w s (fun _ _ => rfl) l

theorem watched_finishPatched (f : Fetch) : (s.watched w).finishPatched c f = (s.finishPatched c f).watched w := by
  unfold State.finishPatched
  dsimp only
  rw [watched_reportPages, watched_countChan, watched_fillComplete]

theorem watched_readNext : (s.watched w).readNext c = ((s.readNext c).1.watched w, (s.readNext c).2) := by
  have hchan : (s.watched w).chan c = s.chan c := rfl
  have hmargin : (s.watched w).margin = s.margin := rfl
  unfold State.readNext
  rw [hchan, hmargin]
  split
  · rfl
  · dsimp only
    split
    · rfl
    · rfl

theorem watched_chooseFetch (fuel : Nat) : (s.watched w).chooseFetch c fuel = (s.chooseFetch c fuel).watched w := by
  induction fuel generalizing s with
  | zero => rfl
  | succ fuel ih =>
    rw [State.chooseFetch, State.chooseFetch, watched_readNext]
    obtain ⟨t, m⟩ := s.readNext c
    cases m with
    | none => rfl
    | some m =>
      dsimp only
      rw [watched_completePage, ih]

theorem watched_report (r : LateReport) : (s.watched w).report r = (s.report r).watched w := by
  cases r with
  | none => rfl
  | offline c f => exact watched_finishPatched w s f
  | beyond c m =>
    show ((s.watched w).completePage c m none).chooseFetches c = _
    rw [watched_completePage]
    exact watched_chooseFetch w _ _

theorem watched_requestFetch (block : Nat) (deadline : Time) : (s.watched w).requestFetch n block deadline =
    ((s.requestFetch n block deadline).1.watched w, (s.requestFetch n block deadline).2) := by
  have hchan : (s.watched w).chan (channelOf block) = s.chan (channelOf block) := rfl
  have hopen : (s.watched w).channelOpen (channelOf block) = s.channelOpen (channelOf block) := rfl
  unfold State.requestFetch
  dsimp only
  rw [hchan, hopen, watched_updChan]
  split
  · rfl
  · split
    · rw [watched_updChan, watched_readNext]
      generalize State.readNext _ _ = r
      obtain ⟨t, m⟩ := r
      cases m with
      | none => rfl
      | some m => rfl
    · rfl

theorem watched_lookup (zone : Zone) (k block : Nat) (deadline : Time) : (s.watched w).lookup zone k block deadline =
    (s.lookup zone k block deadline).map fun found => { found with state := found.state.watched w } := by
  have hfind : (s.watched w).findKey zone k = s.findKey zone k := rfl
  unfold State.lookup
  rw [hfind]
  split
  · rename_i m slot _
    have hhit : (s.watched w).hit m slot deadline = (s.hit m slot deadline).watched w := by
      have hfetching : (s.watched w).fetchingChannel m = s.fetchingChannel m := rfl
      unfold State.hit
      rw [hfetching]
      dsimp only
      split
      · rfl
      · rfl
      · rw [apply_ite (State.watched w)]
        cases s.fetchingChannel m with
        | none => rfl
        | some d => rfl
    rw [hhit]
    rfl
  · cases hslot : s.cache.takeSlot with
    | none =>
      have hslot' : (s.watched w).cache.takeSlot = none := hslot
      simp only [State.allocate, hslot, hslot']
      rfl
    | some p =>
      obtain ⟨m, cache⟩ := p
      have hslot' : (s.watched w).cache.takeSlot = some (m, cache) := hslot
      have htaken : (s.watched w).slotTaken zone k deadline m cache = (s.slotTaken zone k deadline m cache).watched w := rfl
      rw [allocate_eq hslot, allocate_eq hslot', htaken, watched_requestFetch]
      rfl

theorem watched_createEntry (i : Nat) (x : Context) : (s.watched w).createEntry i x =
    (s.createEntry i x).map fun made => (made.1.watched w, made.2) := by
  have hlead : (s.watched w).lead = s.lead := rfl
  unfold State.createEntry
  rw [hlead]
  dsimp only
  split
  · rfl
  · rw [watched_lookup]
    cases s.lookup x.zone.zone (x.nextEntry s.lead).k (x.zone.base + (x.nextEntry s.lead).k) (x.nextEntry s.lead).deadline with
    | none => rfl
    | some found => rfl

end

/-! ### A full window -/

/-- Context i needs no entry: it delivers no stream, or its window is not empty and holds its depth. -/
def State.Full (i : Nat) (s : State) : Prop :=
  ∀ c, s.ctx? i = some c → c.delivering = true → c.window ≠ [] ∧ c.depth ≤ c.window.length

section
variable {n : SlotNo} {c : ChannelNo} {i : Nat} {s t : State}

/-- A full window is served by nothing. -/
theorem serve_full (h : s.Full i) (fuel : Nat) : s.serve i fuel false = s := by
  cases fuel with
  | zero => rfl
  | succ fuel =>
    cases hc : s.ctx? i with
    | none => simp only [State.serve, hc]
    | some x =>
      cases hd : x.delivering with
      | false => exact serve_spent hc hd
      | true =>
        obtain ⟨hne, hlen⟩ := h x hc hd
        obtain ⟨e, rest, hw⟩ := List.exists_cons_of_ne_nil hne
        rw [State.serve, hc]
        simp only [hd, if_true, hw, if_neg (show ¬ false = true by decide)]
        exact if_neg fun hn => absurd hn.1 (not_lt.mpr (hw ▸ hlen))

theorem State.Full.same (h : s.Full i) (hst : t.streams.contexts = s.streams.contexts) : t.Full i := fun x hx =>
  h x (by rw [← hx, State.ctx?, State.ctx?, hst])

/-- A change that leaves a context delivering only with the window, full as it was. -/
theorem State.Full.updCtx {j : Nat} {f : Context → Context} (h : s.Full i)
    (hf : ∀ x, (f x).delivering = true → x.delivering = true ∧ (f x).depth = x.depth ∧ (f x).window.length = x.window.length) :
    (s.updCtx j f).Full i := by
  intro x hx hd
  obtain ⟨y, hy, hxy⟩ : ∃ y, s.ctx? i = some y ∧ (x = y ∨ x = f y) := by
    have hget := Sparse.get_modify s.streams.contexts j i f
    rw [show Sparse.get (Sparse.modify s.streams.contexts j f) i = some x from hx] at hget
    split at hget
    · obtain ⟨y, hy, hfy⟩ := Option.map_eq_some_iff.mp hget.symm
      exact ⟨y, hy, .inr hfy.symm⟩
    · exact ⟨x, hget.symm, .inl rfl⟩
  rcases hxy with rfl | rfl
  · exact h _ hy hd
  · obtain ⟨hyd, hdepth, hlen⟩ := hf y hd
    obtain ⟨hne, hfull⟩ := h y hy hyd
    refine ⟨fun hnil => hne ?_, hdepth ▸ hlen ▸ hfull⟩
    rw [hnil] at hlen
    exact List.length_eq_zero_iff.mp hlen.symm

theorem State.Full.released (h : s.Full i) (entries : List Entry) : (s.released entries).Full i :=
  h.same (congrArg StreamEngine.contexts (released_streams s entries))

theorem State.Full.enterSpent (h : s.Full i) (j : Nat) (reason : EndReason) : (s.enterSpent j reason).Full i := by
  unfold State.enterSpent
  split
  · exact h
  · dsimp only
    rw [withdraw_eq]
    refine State.Full.same (s := State.released _ _) (State.Full.released ?_ _) rfl
    have hspent := h.updCtx (j := j) (f := fun x => { x with
      state := .spent, window := [], gen := { x.gen with closed := true }, endReason := some reason, offer := none })
      fun x hd => absurd (show (false : Bool) = true from hd) (by decide)
    exact hspent.same rfl

theorem State.Full.policyTest (h : s.Full i) (j : Nat) : (s.policyTest j).Full i := by
  unfold State.policyTest
  split
  · exact h
  · split
    · exact h
    · split
      · dsimp only
        have hu := h.updCtx (j := j) (f := fun x => { x with patched := inc x.patched }) fun x hd => ⟨hd, rfl, rfl⟩
        split
        · exact hu.enterSpent j .fault
        · exact hu
      · exact h

theorem State.Full.fillContext (set : PageSet) (h : s.Full i) (j : Nat) : (s.fillContext n set j).Full i := by
  unfold State.fillContext
  split
  · exact h
  · have hu := h.updCtx (j := j) (f := fun x => { x with window := x.window.map (Entry.fill n set) })
      fun x hd => ⟨hd, rfl, List.length_map _⟩
    dsimp only
    split
    · exact hu
    · split
      · exact hu.policyTest j
      · exact hu

theorem State.Full.foldl {α : Type} {f : State → α → State} (hf : ∀ (u : State) a, u.Full i → (f u a).Full i) (l : List α)
    (h : s.Full i) : (l.foldl f s).Full i := by
  induction l generalizing s with
  | nil => exact h
  | cons a rest ih => exact ih (hf s a h)

theorem State.Full.fillComplete (h : s.Full i) : (s.fillComplete n).Full i := by
  unfold State.fillComplete
  split
  · exact h
  · rename_i slot _
    have hwindows : ∀ {u : State}, u.Full i → (u.live.foldl (State.fillContext n slot.patched) u).Full i :=
      fun hu => hu.foldl (fun u j hu => hu.fillContext slot.patched j) _
    dsimp only
    by_cases hp : slot.patched = 0
    · rw [if_pos hp]
      split
      · exact h.same rfl
      · exact hwindows (h.same rfl)
    · rw [if_neg hp]
      split
      · exact h.same rfl
      · exact hwindows (h.same rfl)

theorem State.Full.reportPage (h : s.Full i) (j : Nat) (data : Option (List Byte)) : (s.reportPage n j data).Full i := by
  rw [reportPage_eq]
  exact h

theorem State.Full.completePage (h : s.Full i) (data : Option (List Byte)) : (s.completePage c n data).Full i := by
  cases hf : (s.chan c).fetchOf n with
  | none =>
    unfold State.completePage
    rw [hf]
    exact h
  | some f =>
    by_cases hd : f.pagesDone < 2
    · rw [completePage_early hf hd]
      exact (h.reportPage (n := n) f.pagesDone data).same rfl
    · rw [completePage_third hf hd]
      exact State.Full.fillComplete ((h.reportPage (n := n) f.pagesDone data).same rfl)

theorem State.Full.finishPatched (h : s.Full i) (f : Fetch) : (s.finishPatched c f).Full i := by
  unfold State.finishPatched
  dsimp only
  exact State.Full.fillComplete (State.Full.same (h.foldl (fun u j hu => hu.reportPage (f.pagesDone + j) none) _) rfl)

theorem State.Full.chooseFetch (h : s.Full i) (fuel : Nat) : (s.chooseFetch c fuel).Full i := by
  induction fuel generalizing s with
  | zero => exact h
  | succ fuel ih =>
    have hread : (s.readNext c).1.Full i := by
      unfold State.readNext
      split
      · exact h
      · dsimp only
        split
        · exact h
        · exact h
    rw [State.chooseFetch]
    split
    · rename_i t heq
      exact (congrArg (State.Full i) (congrArg Prod.fst heq)).mp hread
    · rename_i t m heq
      exact ih (State.Full.completePage ((congrArg (State.Full i) (congrArg Prod.fst heq)).mp hread) none)

theorem State.Full.report (h : s.Full i) (r : LateReport) : (s.report r).Full i := by
  cases r with
  | none => exact h
  | offline d f => exact h.finishPatched f
  | beyond d m => exact (h.completePage none).chooseFetch _

theorem lookup_streams {zone : Zone} {k block : Nat} {deadline : Time} {found : Found}
    (h : s.lookup zone k block deadline = some found) : found.state.streams = s.streams := by
  unfold State.lookup at h
  split at h
  · rename_i m slot _
    obtain rfl := Option.some.inj h
    unfold State.hit
    dsimp only
    split
    · rfl
    · rfl
    · cases s.fetchingChannel m with
      | none => dsimp only; split <;> rfl
      | some d => dsimp only; split <;> rfl
  · cases hslot : s.cache.takeSlot with
    | none => simp [State.allocate, hslot] at h
    | some p =>
      obtain ⟨m, cache⟩ := p
      rw [allocate_eq hslot] at h
      obtain rfl := Option.some.inj h
      dsimp only
      rw [requestFetch_frame]
      rfl

/-- A new entry joins the window of its context. -/
theorem createEntry_appends {x : Context} {r : LateReport} (hc : s.ctx? i = some x) (h : s.createEntry i x = some (t, r)) :
    ∃ e : Entry, t.ctx? i = some { x with window := x.window ++ [e], gen := x.advance x.gen } := by
  have happ : ∀ (u : State) (e : Entry), u.streams = s.streams →
      (u.appendEntry i e).ctx? i = some { x with window := x.window ++ [e], gen := x.advance x.gen } := fun u e hu => by
    have hcu : u.ctx? i = some x := by rw [← hc, State.ctx?, State.ctx?, hu]
    exact updCtx_ctx? hcu fun y => { y with window := y.window ++ [e], gen := y.advance y.gen }
  unfold State.createEntry at h
  dsimp only at h
  split at h
  · obtain ⟨rfl, -⟩ := Prod.mk.inj (Option.some.inj h)
    exact ⟨_, happ _ _ rfl⟩
  · split at h
    · cases h
    · rename_i found hfound
      obtain ⟨rfl, -⟩ := Prod.mk.inj (Option.some.inj h)
      exact ⟨_, happ _ _ (lookup_streams hfound)⟩

end

end Sys2Proof.Machine


/-! SUPPORT. A BLOCK acknowledged: the head delivered, and what follows (R80 to R83, R88, R133, R141). -/

namespace Sys2Proof.Machine

section
variable {s : State} {i : Nat} {c : Context} {e : Entry} {rest : List Entry} {frame : WireFrame} {b : BlockFields}

/-- The context with its head taken by the bridge. -/
def Context.headTaken (c : Context) (rest : List Entry) : Context :=
  { c with window := rest, delivered := inc c.delivered, nacks := 0 }

/-- s with the lane of an acknowledged BLOCK closed, the delivery counted, and the stream's context set. -/
def State.delivering (s : State) (i : Nat) (x : Context) (frame : WireFrame) (b : BlockFields) : State :=
  ((s.closeLane frame.dest (b.lane.extractLsb' 0 6)).countDelivery fun k =>
    { k with
      blocksAcknowledged := inc k.blocksAcknowledged
      phantomBlock := if b.flags.getLsbD 7 = true then inc k.phantomBlock else k.phantomBlock
      patchedDelivered := if b.flags &&& 7 ≠ 0 then inc k.patchedDelivered else k.patchedDelivered }).withStream i x
    { s.streams.counts with delivered := inc s.streams.counts.delivered }

theorem blockAcked_sent (ht : s.TableLaw) (hb : frame.body = .block b) (h : s.ctx? i = some c) (hw : c.window = e :: rest)
    (hp : e.busPhase = .sent) : s.blockAcked i frame =
      ((s.delivering i (c.headTaken rest) frame b).released [e]).serveNow i true := by
  have h' : (s.closeLane frame.dest (b.lane.extractLsb' 0 6)).ctx? i = some c := h
  have hcount : DeliveryCounts.countDelivered frame = fun k : DeliveryCounts =>
      { k with
        blocksAcknowledged := inc k.blocksAcknowledged
        phantomBlock := if b.flags.getLsbD 7 = true then inc k.phantomBlock else k.phantomBlock
        patchedDelivered := if b.flags &&& 7 ≠ 0 then inc k.patchedDelivered else k.patchedDelivered } := by
    funext k
    simp only [DeliveryCounts.countDelivered, hb]
    rfl
  unfold State.blockAcked
  rw [closeFrameLane_block hb]
  simp only [h', Option.bind_some, sentHead_of_sent hw hp]
  have hset := updCtx_eq_withStream (s := s.closeLane frame.dest (b.lane.extractLsb' 0 6)) ht.1 h fun x => { x with nacks := 0 }
  obtain ⟨u, hu⟩ : ∃ u : State, u = (s.closeLane frame.dest (b.lane.extractLsb' 0 6)).countDelivery
    (DeliveryCounts.countDelivered frame) := ⟨_, rfl⟩
  have hcounted : State.countDelivery (DeliveryCounts.countDelivered frame)
      ((s.closeLane frame.dest (b.lane.extractLsb' 0 6)).withStream i { c with nacks := 0 } s.streams.counts) =
      u.withStream i { c with nacks := 0 } s.streams.counts := by rw [hu]; rfl
  have hdelivering : s.delivering i (c.headTaken rest) frame b = u.withStream i (c.headTaken rest)
      { s.streams.counts with delivered := inc s.streams.counts.delivered } := by rw [hu, hcount]; rfl
  have htaken : ({ c with nacks := 0, window := c.window.tail, delivered := inc c.delivered } : Context) = c.headTaken rest := by
    rw [hw]; rfl
  have hcounts : (s.closeLane frame.dest (b.lane.extractLsb' 0 6)).streams.counts = s.streams.counts := rfl
  rw [hset, hcounts, hcounted, State.deliverHead, withStream_updCtx, withStream_releaseEntry, withStream_countStreams, htaken,
    hdelivering, withStream_released]
  rfl

/-- A window that is neither empty nor full takes the generator's next entry. -/
theorem serve_refills {x : Context} {k : StreamCounts} {t : State} {r : LateReport} {fuel : Nat} (h : s.ctx? i = some c)
    (hd : x.delivering = true) (hne : x.window ≠ []) (hlen : x.window.length < x.depth) (hopen : x.gen.closed = false)
    (hmade : (s.withStream i x k).createEntry i x = some (t, r)) :
    (s.withStream i x k).serve i (fuel + 1) false = (t.report r).serve i fuel false := by
  obtain ⟨e, rest, hw⟩ := List.exists_cons_of_ne_nil hne
  rw [State.serve, withStream_ctx? h]
  rw [hw] at hlen
  simp only [hd, if_true, hw]
  rw [if_neg (by decide), if_pos ⟨hlen, hopen⟩, hmade]

end

/-- Settles O54: the head delivered, and what follows it. -/
theorem ownBlockAckDelivers : Obligations.OwnBlockAckDelivers := by
  intro dt i slot frame b s h hb views
  refine ⟨fun hc => ownBlockAck_gives h ?_, fun c e rest hc hd hw hp ht hlaw => ?_⟩
  · rw [blockAcked_none (s := s.slotEnding dt) hb hc]
    rfl
  · intro held ended
    obtain ⟨u, hu⟩ : ∃ u : State, u = ((s.slotEnding dt).closeLane frame.dest (b.lane.extractLsb' 0 6)).countDelivery fun k =>
      { k with
        blocksAcknowledged := inc k.blocksAcknowledged
        phantomBlock := if b.flags.getLsbD 7 = true then inc k.phantomBlock else k.phantomBlock
        patchedDelivered := if b.flags &&& 7 ≠ 0 then inc k.patchedDelivered else k.patchedDelivered } := ⟨_, rfl⟩
    obtain ⟨k, hk⟩ : ∃ k : StreamCounts, k = { s.streams.counts with delivered := inc s.streams.counts.delivered } := ⟨_, rfl⟩
    have hacked : (s.slotEnding dt).blockAcked i frame = ((u.withStream i held k).released [e]).serveNow i true :=
      hk ▸ hu ▸ blockAcked_sent (s := s.slotEnding dt) ht hb hc hw hp
    have hcu : u.ctx? i = some c := hu ▸ hc
    have hplain : (u.withStream i held k).plain = ended.plain := by rw [hu, hk]; rfl
    have hcr : (u.released [e]).ctx? i = some c := (released_ctx? u [e] i).trans hcu
    have hsfc : (u.released [e]).clock.sfc = s.clock.sfc := by rw [released_clock, hu]; rfl
    have hlead : (u.released [e]).lead = s.lead := by rw [State.lead, released_status, hu]; rfl
    have h2 : 2 ≤ c.depth := hlaw.2.1
    have hwin : c.window.length = rest.length + 1 := by rw [hw]; rfl
    refine ⟨fun gone stay hs => ownBlockAck_gives h ?_, fun gone next more hs => ownBlockAck_gives h ?_,
      fun hfull hopen hk' hkept t report hmade => ownBlockAck_gives h ?_⟩
    · have hgone : gone.length ≤ c.window.length := by
        have : rest.length = gone.length + stay.length := (congrArg List.length hs.1).trans List.length_append
        omega
      have hbound := cascadeBound_ge c hlaw hgone
      rw [hacked, withStream_released, serveNow_heads hcr (x := held) hd (by exact (by omega : 0 < c.depth))
          (servesHeads_congr hs hsfc hlead) hbound,
        ← withStream_released, released_afterHeads, released_released, released_plain, released_plain, afterHeads_plain,
        afterHeads_plain, hplain]
      rfl
    · have hgone : gone.length ≤ c.window.length := by
        have : rest.length = gone.length + (next :: more).length :=
          (congrArg List.length hs.2.1).trans List.length_append
        omega
      have hbound := cascadeBound_ge c hlaw hgone
      have hfault : ((u.withStream i held k).released [e]).afterFault i held gone (next :: more) =
          ((u.withStream i held k).afterFault i held gone (next :: more)).released [e] :=
        released_comm (f := fun t => t.afterFault i held gone (next :: more)) _ [e] fun _ _ => rfl
      rw [hacked, withStream_released, serveNow_faults hcr (x := held) hd (faultsAtHead_congr hs hsfc) (by omega),
        ← withStream_released, hfault, released_released, released_plain, hw]
      have hafter : ((u.withStream i held k).afterFault i held gone (next :: more)).plain =
        (ended.plain).afterFault i held gone (next :: more) := by rw [← hplain]; rfl
      rw [hafter, released_plain]
      rfl
    · obtain ⟨next, more, hrest⟩ := List.exists_cons_of_length_pos (l := rest) (by omega)
      obtain ⟨hfresh, hclean⟩ := hkept next more hrest
      have hwatch : u.withStream i held k = ended.watched u.bus.watch := by rw [hu, hk]; rfl
      have hwr : (u.released [e]).withStream i held k = (ended.released [e]).watched u.bus.watch := by
        rw [← withStream_released, hwatch, watched_released]
      have hcreate : ((u.released [e]).withStream i held k).createEntry i held = some (t.watched u.bus.watch, report) := by
        rw [hwr, watched_createEntry, hmade]
        rfl
      have hce : (ended.released [e]).ctx? i = some held :=
        ((congrArg (fun v : State => v.ctx? i) hwr).symm.trans (withStream_ctx? hcr) : _)
      obtain ⟨d, hd'⟩ := createEntry_appends hce hmade
      have htfull : t.Full i := fun x hx _ => by
        obtain rfl := Option.some.inj (hd'.symm.trans hx)
        refine ⟨List.append_ne_nil_of_right_ne_nil _ (List.cons_ne_nil d []), ?_⟩
        show c.depth ≤ (rest ++ [d]).length
        rw [List.length_append, List.length_singleton]
        omega
      have hserved : ((u.released [e]).withStream i held k).serveNow i true = (t.report report).watched u.bus.watch := by
        obtain ⟨fuel, hf⟩ : ∃ fuel, Config.cascadeBound = fuel + 1 + 1 := ⟨4294967294, rfl⟩
        have hsfc' : next.isStale (u.released [e]).clock.sfc = false := hsfc ▸ hfresh
        rw [State.serveNow, hf, serve_fresh hcr (x := held) hd hrest, testHead_kept hcr (x := held) hrest hsfc',
          policyTest_clean hcr (x := held) hrest fun hp' => hclean.elim (fun hr => absurd (hr.symm.trans hp'.1) (by decide)) hp'.2]
        dsimp only
        rw [serve_refills hcr (x := held) hd (by rw [show held.window = rest from rfl, hrest]; simp)
          (by exact (by omega : rest.length < c.depth)) hopen hcreate, watched_report]
        exact serve_full (State.Full.same (t := (t.report report).watched u.bus.watch) (htfull.report report) rfl) fuel
      rw [hacked, withStream_released, hserved, watched_plain]

end Sys2Proof.Machine


/-! SUPPORT. A stream taken: the elements its generator produces, and the filling of its window (R39 to R45, R75, R76, R78,
R80, R82). -/

namespace Sys2Proof.Machine

/-! ### The elements -/

/-- The generator at played index j of a stream with no exit and no cut. -/
def Context.generatorAt (c : Context) (j : Nat) : Generator :=
  { part := (c.playedAt j).1, k := (c.playedAt j).2, pos := j, index := j, overrun := 0, closed := false }

/-- The entry of played index j before its block is mapped, of a stream whose window it fills. -/
def Context.entryAt (c : Context) (lead j : Nat) : Entry :=
  { pos := j, index := j, part := (c.playedAt j).1, k := (c.playedAt j).2
    need := BitVec.ofNat 48 (c.begins j), leave := BitVec.ofNat 48 (c.finishes j)
    deadline := c.timeOf (BitVec.ofNat 48 (c.begins j)) - BitVec.ofNat 32 lead
    leaveTime := c.timeOf (BitVec.ofNat 48 (c.finishes j)), eligible := none
    phantom := false, slot := none, ready := false, patched := 0, busPhase := .none }

/-- The sequence goes on beyond played index j, whatever a bridge does not release. -/
structure Context.Continues (c : Context) (n : Nat) : Prop where
  cut : c.cutDistance = none
  exit : c.exitPass = none
  start : c.start < c.zone.length
  fits : c.LoopFits
  within : c.loop? = none → c.kFirst + n ≤ c.kEnd

section
variable {c : Context} {n j : Nat}

theorem firstGenerator_eq (c : Context) : c.firstGenerator = c.generatorAt 0 := by
  have hzero : c.playedAt 0 = (.first, c.kFirst) := by
    cases h : c.loop? with
    | none => exact playedAt_none h 0
    | some l => exact playedAt_firstRun h (firstCount_pos c l)
  simp only [Context.firstGenerator, Context.generatorAt, hzero]

theorem advance_overrun (h : c.Continues n) (g : Generator) (hg : g.part ≠ .coda) : (c.advance g).overrun = g.overrun := by
  cases hl : c.loop? with
  | none =>
    rw [advance_none h.cut hl]
    split <;> rfl
  | some l =>
    rw [advance_looping h.cut hl hg, if_neg (show ¬ c.exitPass = _ by rw [h.exit]; simp)]
    split <;> rfl

theorem playedAt_not_coda (h : c.Continues n) (j : Nat) : (c.playedAt j).1 ≠ .coda := by
  unfold Context.playedAt
  rw [h.exit]
  split
  · intro hcoda
    cases hcoda
  · dsimp only
    split
    · intro hcoda
      cases hcoda
    · intro hcoda
      cases hcoda

theorem advance_generatorAt (h : c.Continues n) (hj : j < n) : c.advance (c.generatorAt j) = c.generatorAt (j + 1) := by
  have hcoda := playedAt_not_coda h j
  have hk : c.loop? = none → (c.playedAt j).2 < c.kEnd := fun hl => by
    have := h.within hl
    rw [playedAt_none hl]
    dsimp only
    omega
  obtain ⟨hpos, hindex, hplayed, hclosed⟩ := sequenceAndGenerator.2 c (c.generatorAt j) h.cut h.start rfl h.fits rfl
    (fun hl => (hk hl).le) (fun hc => absurd hc hcoda)
  have hopen : (c.advance (c.generatorAt j)).closed = false := by
    rw [Bool.eq_false_iff]
    intro hc
    rcases hclosed.mp hc with ⟨hl, he⟩ | ⟨hc, -⟩ | ⟨l, m, -, hm, -⟩
    · exact absurd he (Nat.ne_of_lt (hk hl))
    · exact hcoda hc
    · rw [h.exit] at hm
      cases hm
  have hover := advance_overrun h (c.generatorAt j) hcoda
  obtain ⟨hpart, hkk⟩ := Prod.mk.inj (hplayed hopen)
  cases hg : c.advance (c.generatorAt j) with
  | mk part k pos index overrun closed =>
    rw [hg] at hpos hindex hopen hover hpart hkk
    dsimp only at hpos hindex hopen hover hpart hkk
    rw [Context.generatorAt, hpart, hkk, hpos, hindex, hopen, hover]
    rfl

theorem nextEntry_generatorAt (hg : c.gen = c.generatorAt j) (hj : j < c.depth) (lead : Nat) :
    c.nextEntry lead = c.entryAt lead j := by
  have helig : c.eligibilityOf j = none := if_pos hj
  simp only [Context.nextEntry, hg, Context.generatorAt, helig]
  rfl

end

/-! ### The filling of the window -/

/-- The context as played index j finds it, with the entries made so far. -/
def Context.filling (c : Context) (entries : Nat → Entry) (patched : Count) (j : Nat) : Context :=
  { c with gen := c.generatorAt j, window := (List.range j).map entries, patched := patched }

/-- Element j, made by the lookup of state v, leaves state w. -/
def State.Makes (i : Nat) (c : Context) (entries : Nat → Entry) (v w : State) (j : Nat) : Prop :=
  ∀ (patched : Count) (k : StreamCounts), (v.withStream i (c.filling entries patched j) k).createEntry i
      (c.filling entries patched j) =
    some ((w.withStream i (c.filling entries patched (j + 1)) { k with created := inc k.created }), .none)

section
variable {i : Nat} {c x : Context} {entries : Nat → Entry} {v : Nat → State} {k : StreamCounts}

/-- The entries behind the head. -/
theorem serve_fills (hd : c.delivering = true) (hctx : ∀ j, (v j).ctx? i = some x) (fuel : Nat) : ∀ m j p k, 0 < j → j + m = c.depth →
    (∀ j < c.depth, State.Makes i c entries (v j) (v (j + 1)) j) →
    ((v j).withStream i (c.filling entries p j) k).serve i (fuel + m + 1) false =
      (v c.depth).withStream i (c.filling entries p c.depth) { k with created := addCount k.created m } := by
  intro m
  induction m with
  | zero =>
    intro j p k hj hm _
    obtain rfl : j = c.depth := hm
    rw [addCount_zero]
    refine serve_full (fun y hy _ => ?_) _
    obtain rfl := Option.some.inj ((withStream_ctx? (hctx c.depth)).symm.trans hy)
    have hlen : (c.filling entries p c.depth).window.length = c.depth := by simp [Context.filling]
    refine ⟨fun hnil => ?_, hlen.ge⟩
    rw [hnil] at hlen
    exact absurd hlen (Nat.ne_of_lt hj)
  | succ m ih =>
    intro j p k hj hm hmakes
    have hlen : (c.filling entries p j).window.length = j := by simp [Context.filling]
    have hne : (c.filling entries p j).window ≠ [] := fun hnil => by
      rw [hnil] at hlen
      exact absurd hlen (Nat.ne_of_lt hj)
    rw [show fuel + (m + 1) + 1 = (fuel + m + 1) + 1 by omega,
      serve_refills (hctx j) (x := c.filling entries p j) hd hne (by rw [hlen]; exact (by omega : j < c.depth)) rfl
        (hmakes j (by omega) p k)]
    refine (ih (j + 1) p _ (by omega) (by omega) hmakes).trans ?_
    rw [addCount_inc]

/-- An empty window filled, the head of it not stale and, where it is patched, of a TOLERANT stream. -/
theorem serveNow_fills (hd : c.delivering = true) (hctx : ∀ j, (v j).ctx? i = some x) (hdepth : 0 < c.depth) (hbound : c.depth ≤ 16)
    (hmakes : ∀ j < c.depth, State.Makes i c entries (v j) (v (j + 1)) j)
    (hfresh : (entries 0).isStale (v 1).clock.sfc = false)
    (hhead : (entries 0).patched = 0 ∨ ((entries 0).ready = true ∧ c.policy = .tolerant)) :
    ((v 0).withStream i (c.filling entries c.patched 0) k).serveNow i false =
      (v c.depth).withStream i
        (c.filling entries (if (entries 0).patched = 0 then c.patched else inc c.patched) c.depth)
        { k with created := addCount k.created c.depth } := by
  obtain ⟨m, hm⟩ : ∃ m, c.depth = m + 1 := ⟨c.depth - 1, by omega⟩
  have h34 : 34 ≤ Config.cascadeBound := by decide
  obtain ⟨fuel, hfuel⟩ : ∃ fuel, Config.cascadeBound = fuel + m + 1 + 1 := ⟨Config.cascadeBound - m - 1 - 1, by omega⟩
  have hwin : (c.filling entries c.patched 1).window = [entries 0] := rfl
  have hstep : ((v 0).withStream i (c.filling entries c.patched 0) k).serve i (fuel + m + 1 + 1) false =
      (((v 1).withStream i (c.filling entries c.patched 1) { k with created := inc k.created }).policyTest i).serve i
        (fuel + m + 1) false := by
    rw [State.serve, withStream_ctx? (hctx 0)]
    simp only [show (c.filling entries c.patched 0).delivering = true from hd, if_true,
      show (c.filling entries c.patched 0).window = [] from rfl, show (c.filling entries c.patched 0).gen.closed = false from rfl,
      hmakes 0 hdepth c.patched k]
    rw [if_neg (by decide), testHead_kept (hctx 1) hwin hfresh]
    rfl
  have hpolicy : ((v 1).withStream i (c.filling entries c.patched 1) { k with created := inc k.created }).policyTest i =
      (v 1).withStream i (c.filling entries (if (entries 0).patched = 0 then c.patched else inc c.patched) 1)
        { k with created := inc k.created } := by
    by_cases hp : (entries 0).patched = 0
    · rw [policyTest_clean (hctx 1) hwin fun hn => hn.2 hp, if_pos hp]
    · obtain ⟨hready, htol⟩ := hhead.resolve_left hp
      rw [policyTest_tolerant (hctx 1) hwin ⟨hready, hp⟩ htol, if_neg hp]
      rfl
  rw [State.serveNow, hfuel, hstep, hpolicy, serve_fills hd hctx fuel m 1 _ _ (by omega) (by omega) hmakes, addCount_inc, hm]

end

end Sys2Proof.Machine


/-! SUPPORT. A window filled from slots that hold its blocks: what each hit leaves, and what they leave together (R76, R98,
R100 to R103, R125). -/

namespace Sys2Proof.Machine

/-! ### One hit -/

/-- The counts of a hit on a slot in state st. -/
def CacheCounts.hit (st : SlotState) (k : CacheCounts) : CacheCounts :=
  { k with
    validHit := if st = .valid then inc k.validHit else k.validHit
    fillingHit := if st = .filling then inc k.fillingHit else k.fillingHit
    patchedShare := if st = .patched then inc k.patchedShare else k.patchedShare }

/-- The cache after a hit on slot n in state st, no deadline lowered. -/
def Cache.hitOn (n : SlotNo) (st : SlotState) (c : Cache) : Cache :=
  { c with
    slots := Sparse.modify c.slots n.val fun x => { x with refs := x.refs + 1 }
    reclaim := c.reclaim.filter (· != n)
    counts := c.counts.hit st }

/-- The fetch of slot n does not await cancellation. -/
def State.FetchStays (s : State) (n : SlotNo) : Prop :=
  ∃ d, s.fetchingChannel n = some d ∧ ∀ f ∈ (s.chan d).queue, f.slot = n → f.cancelPending = false

section
variable {s : State} {n : SlotNo} {slot : Slot} {deadline : Time}

theorem filter_ne_self {l : List SlotNo} (h : n ∉ l) : l.filter (· != n) = l :=
  List.filter_eq_self.mpr fun m hm => by
    have hne : m ≠ n := fun he => h (he ▸ hm)
    simpa using hne

theorem mapFetch_stays {ch : Channel} (h : ∀ f ∈ ch.queue, f.slot = n → f.cancelPending = false) :
    ch.mapFetch n (fun x => { x with cancelPending := false }) = ch := by
  have hq : (ch.queue.map fun x => if x.slot = n then { x with cancelPending := false } else x) = ch.queue := by
    refine (List.map_congr_left fun x hx => ?_).trans (List.map_id _)
    by_cases hs : x.slot = n
    · rw [if_pos hs, ← h x hx hs]
      rfl
    · rw [if_neg hs]
      rfl
  rw [Channel.mapFetch, hq]

/-- A hit, where a FILLING slot's fetch stays as it is. -/
theorem hit_eq (hreclaim : n ∈ s.cache.reclaim → slot.state = .valid ∧ slot.refs = 0)
    (hfill : slot.state = .filling → s.FetchStays n ∧ 0 ≤ signedDiff deadline slot.deadline) :
    s.hit n slot deadline = { s with cache := s.cache.hitOn n slot.state } := by
  cases hst : slot.state with
  | valid =>
    have hfilter : (if slot.refs = 0 then s.cache.reclaim.filter (· != n) else s.cache.reclaim) =
        s.cache.reclaim.filter (· != n) := by
      split
      · rfl
      · rename_i hr
        exact (filter_ne_self fun hm => hr (hreclaim hm).2).symm
    have hkeep : s.hit n slot deadline = { s with cache := { s.cache with
        slots := Sparse.modify s.cache.slots n.val fun x => { x with refs := x.refs + 1 }
        reclaim := if slot.refs = 0 then s.cache.reclaim.filter (· != n) else s.cache.reclaim
        counts := { s.cache.counts with validHit := inc s.cache.counts.validHit } } } := by
      simp only [State.hit, hst]
      rfl
    rw [hkeep, hfilter]
    rfl
  | patched =>
    have hnot : n ∉ s.cache.reclaim := fun hm => by
      rw [hst] at hreclaim
      cases (hreclaim hm).1
    rw [hit_patched hst, Cache.hitOn, filter_ne_self hnot]
    rfl
  | filling =>
    have hnot : n ∉ s.cache.reclaim := fun hm => by
      rw [hst] at hreclaim
      cases (hreclaim hm).1
    obtain ⟨⟨d, hd, hstays⟩, hlate⟩ := hfill hst
    rw [hit_filling hst hd hlate, Cache.hitOn, filter_ne_self hnot]
    exact updChan_id _ _ (mapFetch_stays hstays)

theorem fetchStays_of_laws (hlaw : s.FetchLaw) (hs : s.slot? n = some slot) (hst : slot.state = .filling) (hr : slot.refs ≠ 0) :
    s.FetchStays n := by
  obtain ⟨hqueue, -, -, hfetch, -⟩ := id hlaw
  obtain ⟨d, f, hf, hn⟩ := hfetch n slot hs hst
  refine ⟨d, fetchingChannel_eq hlaw hf hn, fun g hg hgn => ?_⟩
  obtain ⟨-, -, slot', hs', -, hcancel⟩ := hqueue d g hg
  obtain rfl : slot' = slot := Option.some.inj (hs'.symm.trans (hgn ▸ hs))
  exact Bool.eq_false_iff.mpr fun hc => hr (hcancel hc)

end

/-! ### All the hits of a window -/

/-- The hits of the elements l on a slot with zone z and index k, by the index of each element's block. -/
def usesOf (zone : Zone) (key : Nat → Nat) (l : List Nat) (p : Nat × Slot) : Nat :=
  (l.filter fun j => p.2.zone == zone && p.2.k == key j).length

/-- The elements of l whose slot is in state st. -/
def hitsOf (state : Nat → Option SlotState) (l : List Nat) (st : SlotState) : Nat :=
  (l.filter fun j => decide (state j = some st)).length

/-- The cache after the hits of the elements l. -/
def Cache.hitBy (c : Cache) (zone : Zone) (key : Nat → Nat) (state : Nat → Option SlotState) (l : List Nat) : Cache :=
  { c with
    slots := c.slots.map fun p => (p.1, { p.2 with refs := p.2.refs + usesOf zone key l p })
    reclaim := c.reclaim.filter fun n => !(c.slots.any fun p => p.1 == n.val && usesOf zone key l p != 0)
    counts := { c.counts with
      validHit := addCount c.counts.validHit (hitsOf state l .valid)
      fillingHit := addCount c.counts.fillingHit (hitsOf state l .filling)
      patchedShare := addCount c.counts.patchedShare (hitsOf state l .patched) } }

section
variable {c : Cache} {zone : Zone} {key : Nat → Nat} {state : Nat → Option SlotState} {l : List Nat} {j : Nat} {n : SlotNo}
  {slot : Slot}

theorem hitBy_nil (c : Cache) (zone : Zone) (key : Nat → Nat) (state : Nat → Option SlotState) : c.hitBy zone key state [] = c := by
  have hreclaim : (c.reclaim.filter fun n => !(c.slots.any fun p => p.1 == n.val && usesOf zone key [] p != 0)) = c.reclaim :=
    List.filter_eq_self.mpr fun n _ => by simp [usesOf]
  have hslots : (c.slots.map fun p => (p.1, { p.2 with refs := p.2.refs + usesOf zone key [] p })) = c.slots :=
    List.map_id _
  rw [Cache.hitBy, hreclaim, hslots]
  simp only [hitsOf, List.filter_nil, List.length_nil, addCount_zero]

theorem usesOf_append (p : Nat × Slot) : usesOf zone key (l ++ [j]) p =
    usesOf zone key l p + if p.2.zone = zone ∧ p.2.k = key j then 1 else 0 := by
  unfold usesOf
  rw [List.filter_append, List.length_append]
  by_cases h : p.2.zone = zone ∧ p.2.k = key j
  · simp [h]
  · rw [if_neg h, List.filter_cons_of_neg (by simpa using h)]
    rfl

theorem hitsOf_append (st : SlotState) (k : Count) : addCount k (hitsOf state (l ++ [j]) st) =
    if state j = some st then inc (addCount k (hitsOf state l st)) else addCount k (hitsOf state l st) := by
  unfold hitsOf
  rw [List.filter_append, List.length_append]
  by_cases h : state j = some st
  · rw [if_pos h, List.filter_cons_of_pos (by simpa using h)]
    exact (addCount_addCount k _ 1).symm
  · rw [if_neg h, List.filter_cons_of_neg (by simpa using h)]
    rfl

/-- Of the slots only n carries the key of element j. -/
theorem key_iff (hwf : Sparse.wf c.slots) (hkeys : (c.slots.map fun p => (p.2.zone, p.2.k)).Nodup) (hmem : (n.val, slot) ∈ c.slots)
    (hz : slot.zone = zone) (hk : slot.k = key j) {p : Nat × Slot} (hp : p ∈ c.slots) :
    (p.2.zone = zone ∧ p.2.k = key j) ↔ p.1 = n.val := by
  constructor
  · rintro ⟨hpz, hpk⟩
    have := List.inj_on_of_nodup_map hkeys hp hmem (by rw [hpz, hpk, ← hz, ← hk])
    rw [this]
  · intro hpn
    have hget := (Sparse.get_eq_some_iff hwf).mpr hp
    rw [hpn, (Sparse.get_eq_some_iff hwf).mpr hmem] at hget
    obtain rfl := Option.some.inj hget
    exact ⟨hz, hk⟩

theorem hitBy_append (hwf : Sparse.wf c.slots) (hkeys : (c.slots.map fun p => (p.2.zone, p.2.k)).Nodup)
    (hmem : (n.val, slot) ∈ c.slots) (hz : slot.zone = zone) (hk : slot.k = key j) (hst : state j = some slot.state) :
    c.hitBy zone key state (l ++ [j]) = (c.hitBy zone key state l).hitOn n slot.state := by
  have hslots : (c.slots.map fun p => (p.1, { p.2 with refs := p.2.refs + usesOf zone key (l ++ [j]) p })) =
      Sparse.modify (c.slots.map fun p => (p.1, { p.2 with refs := p.2.refs + usesOf zone key l p })) n.val
        fun x => { x with refs := x.refs + 1 } := by
    rw [Sparse.modify, List.map_map]
    refine List.map_congr_left fun p hp => ?_
    simp only [Function.comp, usesOf_append, key_iff hwf hkeys hmem hz hk hp]
    split <;> rfl
  have hreclaim : (c.reclaim.filter fun m => !(c.slots.any fun p => p.1 == m.val && usesOf zone key (l ++ [j]) p != 0)) =
      (c.reclaim.filter fun m => !(c.slots.any fun p => p.1 == m.val && usesOf zone key l p != 0)).filter (· != n) := by
    rw [List.filter_filter]
    refine List.filter_congr fun m _ => ?_
    rw [Bool.eq_iff_iff]
    simp only [Bool.not_eq_true', List.any_eq_false, Bool.and_eq_true, beq_iff_eq, bne_iff_ne, ne_eq, not_and, not_not]
    constructor
    · intro h
      refine ⟨?_, fun p hp hpm => ?_⟩
      · rintro rfl
        have := h _ hmem rfl
        rw [usesOf_append, if_pos ⟨hz, hk⟩] at this
        omega
      · have := h p hp hpm
        rw [usesOf_append] at this
        omega
    · rintro ⟨hne, h⟩ p hp hpm
      rw [usesOf_append, if_neg fun hkey => hne (Fin.ext (hpm.symm.trans ((key_iff hwf hkeys hmem hz hk hp).mp hkey)))]
      exact h p hp hpm
  rw [Cache.hitBy, hslots, hreclaim]
  simp only [hitsOf_append, hst, Option.some.injEq]
  rfl

end

end Sys2Proof.Machine


/-! SUPPORT. A stream taken, whose window is filled by hits (R76, R78, R101 to R103). -/

namespace Sys2Proof.Machine

/-! ### One element made -/

section
variable {i j : Nat} {c x : Context} {entries : Nat → Entry} {v w : State}

theorem filling_nextEntry (p : Count) (hj : j < c.depth) (lead : Nat) : (c.filling entries p j).nextEntry lead = c.entryAt lead j :=
  nextEntry_generatorAt (c := c.filling entries p j) rfl hj lead

theorem filling_succ (p : Count) (hadv : c.advance (c.generatorAt j) = c.generatorAt (j + 1)) :
    ({ c.filling entries p j with
        window := (c.filling entries p j).window ++ [entries j]
        gen := (c.filling entries p j).advance (c.filling entries p j).gen } : Context) = c.filling entries p (j + 1) := by
  have hwin : (c.filling entries p j).window ++ [entries j] = (List.range (j + 1)).map entries := by
    rw [List.range_succ, List.map_append]
    rfl
  rw [hwin]
  show ({ c with gen := c.advance (c.generatorAt j), window := _, patched := p } : Context) = _
  rw [hadv]
  rfl

theorem withStream_appendEntry (p : Count) (k : StreamCounts) (hadv : c.advance (c.generatorAt j) = c.generatorAt (j + 1)) :
    (v.withStream i (c.filling entries p j) k).appendEntry i (entries j) =
      v.withStream i (c.filling entries p (j + 1)) { k with created := inc k.created } := by
  rw [State.appendEntry, withStream_updCtx, withStream_countStreams, filling_succ p hadv]

/-- An element beyond the effective count makes a phantom entry. -/
theorem makes_phantom (hj : j < c.depth) (hadv : c.advance (c.generatorAt j) = c.generatorAt (j + 1))
    (hk : c.zone.effective ≤ (c.playedAt j).2)
    (hentry : entries j = { c.entryAt v.lead j with phantom := true, ready := true }) : State.Makes i c entries v v j := by
  intro p k
  have hlead : (v.withStream i (c.filling entries p j) k).lead = v.lead := rfl
  unfold State.createEntry
  rw [hlead, filling_nextEntry p hj]
  dsimp only
  rw [if_pos (by exact hk), ← hentry, withStream_appendEntry p k hadv]

/-- A stored element makes an entry on the slot its lookup returns. -/
theorem makes_mapped {n : SlotNo} {slot : Slot} (hj : j < c.depth) (hadv : c.advance (c.generatorAt j) = c.generatorAt (j + 1))
    (hk : (c.playedAt j).2 < c.zone.effective)
    (hfound : ∀ p k, (v.withStream i (c.filling entries p j) k).lookup c.zone.zone (c.playedAt j).2
        (c.zone.base + (c.playedAt j).2) (c.entryAt v.lead j).deadline =
      some { slot := n, state := w.withStream i (c.filling entries p j) k, report := .none })
    (hslot : w.slot? n = some slot) (hentry : entries j = (c.entryAt v.lead j).onSlot n slot) : State.Makes i c entries v w j := by
  intro p k
  have hlead : (v.withStream i (c.filling entries p j) k).lead = v.lead := rfl
  rw [createEntry_mapped (c := c.filling entries p j) (by exact hk)
    (by rw [hlead, filling_nextEntry p hj]; exact hfound p k) (by exact hslot), hlead, filling_nextEntry p hj, ← hentry,
    withStream_appendEntry p k hadv]

end

/-! ### The stream taken -/

/-- The context a stream is taken with, before its window is filled. -/
def Context.taken (c : Context) : Context :=
  { c with offer := none, state := if c.activeLoop = true then .looping else .running }

theorem taken_delivering (c : Context) : c.taken.delivering = true := by
  unfold Context.delivering Context.taken
  dsimp only
  split <;> rfl

theorem takeStream_fills {s : State} {i : Nat} {c : Context} {entries : Nat → Entry} {v : Nat → State} (ht : s.TableLaw)
    (hc : s.ctx? i = some c) (hw : c.window = []) (hstart : c.start < c.zone.length) (hdepth : 0 < c.depth) (hbound : c.depth ≤ 16)
    (hzero : v 0 = s) (hctx : ∀ j, (v j).ctx? i = some c)
    (hmakes : ∀ j < c.depth, State.Makes i c.taken entries (v j) (v (j + 1)) j)
    (hfresh : (entries 0).isStale (v 1).clock.sfc = false)
    (hhead : (entries 0).patched = 0 ∨ ((entries 0).ready = true ∧ c.policy = .tolerant)) : s.takeStream i c =
      (v c.depth).withStream i
        (c.taken.filling entries (if (entries 0).patched = 0 then c.patched else inc c.patched) c.depth)
        { s.streams.counts with created := addCount s.streams.counts.created c.depth } := by
  have hfirst : ({ c with offer := none, state := if c.activeLoop = true then .looping else .running
                          gen := c.firstGenerator } : Context) = c.taken.filling entries c.patched 0 := by
    rw [firstGenerator_eq, Context.filling, Context.taken, List.range_zero, List.map_nil, ← hw]
    rfl
  rw [State.takeStream, if_neg (not_le.mpr hstart), updCtx_eq_withStream ht.1 hc, hfirst, ← hzero]
  exact serveNow_fills (c := c.taken) (taken_delivering c) hctx hdepth hbound hmakes hfresh hhead

/-! ### The window filled by hits -/

section
variable {u : State} {i : Nat} {c : Context} {zone : Zone} {key : Nat → Nat} {state : Nat → Option SlotState} {l : List Nat} {j : Nat}
  {n : SlotNo} {slot : Slot} {deadline : Time}

/-- u after the hits of the elements l. -/
def State.hitBy (u : State) (zone : Zone) (key : Nat → Nat) (state : Nat → Option SlotState) (l : List Nat) : State :=
  { u with cache := u.cache.hitBy zone key state l }

theorem find?_map_slots (f : Nat × Slot → Slot) (hz : ∀ p, (f p).zone = p.2.zone) (hk : ∀ p, (f p).k = p.2.k) (z : Zone) (k : Nat)
    (m : List (Nat × Slot)) : (m.map fun p => (p.1, f p)).find? (fun p => p.2.zone == z && p.2.k == k) =
      (m.find? fun p => p.2.zone == z && p.2.k == k).map fun p => (p.1, f p) := by
  rw [List.find?_map]
  congr 2
  funext p
  simp [hz, hk]

theorem slot?_hitBy (hwf : Sparse.wf u.cache.slots) (hs : u.slot? n = some slot) : (u.hitBy zone key state l).slot? n =
    some { slot with refs := slot.refs + usesOf zone key l (n.val, slot) } := by
  have hmem := Sparse.mem_of_get hs
  refine (Sparse.get_eq_some_iff ?_).mpr (List.mem_map.mpr ⟨_, hmem, rfl⟩)
  rw [Sparse.wf_iff_keys] at hwf ⊢
  show List.Pairwise _ ((u.cache.slots.map _).map Prod.fst)
  rw [List.map_map]
  exact hwf

theorem findKey_hitBy (htable : u.TableLaw) (hcache : u.CacheLaw) (hs : u.slot? n = some slot) :
    (u.hitBy zone key state l).findKey slot.zone slot.k =
      some (n, { slot with refs := slot.refs + usesOf zone key l (n.val, slot) }) := by
  have hfind : u.cache.slots.find? (fun p => p.2.zone == slot.zone && p.2.k == slot.k) = some (n.val, slot) := by
    have hkey := findKey_eq htable hcache hs
    unfold State.findKey at hkey
    split at hkey
    · rename_i m x heq
      split at hkey
      · obtain ⟨hn, hx⟩ := Prod.mk.inj (Option.some.inj hkey)
        rw [heq, ← hn, ← hx]
      · cases hkey
    · cases hkey
  have hmapped := find?_map_slots (fun p => { p.2 with refs := p.2.refs + usesOf zone key l p }) (fun _ => rfl) (fun _ => rfl)
    slot.zone slot.k u.cache.slots
  rw [hfind, Option.map_some] at hmapped
  have hfind' : (u.hitBy zone key state l).cache.slots.find? (fun p => p.2.zone == slot.zone && p.2.k == slot.k) =
      some (n.val, { slot with refs := slot.refs + usesOf zone key l (n.val, slot) }) := hmapped
  rw [State.findKey, hfind']
  simp

/-- The lookup of element j after the hits of the elements before it. -/
theorem lookup_hitBy {x : Context} {k : StreamCounts} {block : Nat} (htable : u.TableLaw) (hcache : u.CacheLaw)
    (hs : u.slot? n = some slot) (hk : slot.k = key j) (hz : slot.zone = zone) (hst : state j = some slot.state)
    (hfill : slot.state = .filling → u.FetchStays n ∧ 0 ≤ signedDiff deadline slot.deadline) :
    ((u.hitBy zone key state l).withStream i x k).lookup zone (key j) block deadline =
      some { slot := n, state := (u.hitBy zone key state (l ++ [j])).withStream i x k, report := .none } := by
  obtain ⟨-, -, hwf, -⟩ := id htable
  obtain ⟨hkeys, -, -, -, -, -, -, -, hrec, -⟩ := id hcache
  have hfind : ((u.hitBy zone key state l).withStream i x k).findKey zone (key j) =
      some (n, { slot with refs := slot.refs + usesOf zone key l (n.val, slot) }) := by
    rw [← hk, ← hz]
    exact findKey_hitBy htable hcache hs
  have hmem := Sparse.mem_of_get hs
  have hreclaim : n ∈ ((u.hitBy zone key state l).withStream i x k).cache.reclaim →
      slot.state = .valid ∧ slot.refs + usesOf zone key l (n.val, slot) = 0 := fun hn => by
    obtain ⟨hn, huse⟩ := List.mem_filter.mp hn
    obtain ⟨slot', hs', hvalid, hrefs⟩ := (hrec n).mp hn
    obtain rfl := Option.some.inj (hs'.symm.trans hs)
    have hzero : usesOf zone key l (n.val, slot') = 0 := by
      simp only [Bool.not_eq_true', List.any_eq_false, Bool.and_eq_true, beq_iff_eq, bne_iff_ne, ne_eq, not_and, not_not] at huse
      exact huse _ hmem rfl
    exact ⟨hvalid, by rw [hrefs, hzero]⟩
  have happend : u.hitBy zone key state (l ++ [j]) = { u with cache := (u.cache.hitBy zone key state l).hitOn n slot.state } := by
    rw [State.hitBy, hitBy_append hwf hkeys hmem hz hk hst]
  simp only [State.lookup, hfind]
  rw [hit_eq (s := (u.hitBy zone key state l).withStream i x k)
    (slot := { slot with refs := slot.refs + usesOf zone key l (n.val, slot) }) hreclaim fun h => hfill h, happend]
  rfl

/-- The stored elements before played index j. -/
def Context.storedBefore (c : Context) (j : Nat) : List Nat :=
  (List.range j).filter fun m => decide ((c.playedAt m).2 < c.zone.effective)

theorem storedBefore_succ (c : Context) (j : Nat) : c.storedBefore (j + 1) =
    if (c.playedAt j).2 < c.zone.effective then c.storedBefore j ++ [j] else c.storedBefore j := by
  unfold Context.storedBefore
  rw [List.range_succ, List.filter_append]
  by_cases h : (c.playedAt j).2 < c.zone.effective
  · rw [if_pos h, List.filter_cons_of_pos (by simpa using h), List.filter_nil]
  · rw [if_neg h, List.filter_cons_of_neg (by simpa using h), List.filter_nil, List.append_nil]

/-- The entries of a window each of whose stored blocks is in the cache: phantom beyond the effective count, else on the slot
that carries the block's key. -/
structure State.Holds (u : State) (c : Context) (entries : Nat → Entry) (state : Nat → Option SlotState) (j : Nat) : Prop where
  phantom : c.zone.effective ≤ (c.playedAt j).2 → entries j = { c.entryAt u.lead j with phantom := true, ready := true }
  mapped : (c.playedAt j).2 < c.zone.effective → ∃ n slot, u.slot? n = some slot ∧ slot.zone = c.zone.zone
    ∧ slot.k = (c.playedAt j).2 ∧ state j = some slot.state ∧ entries j = (c.entryAt u.lead j).onSlot n slot
    ∧ (slot.state = .filling → u.FetchStays n ∧ 0 ≤ signedDiff (c.entryAt u.lead j).deadline slot.deadline)

theorem makes_hit {entries : Nat → Entry} (htable : u.TableLaw) (hcache : u.CacheLaw) (hj : j < c.depth)
    (hadv : c.advance (c.generatorAt j) = c.generatorAt (j + 1)) (hholds : u.Holds c entries state j) :
    State.Makes i c entries (u.hitBy c.zone.zone (fun m => (c.playedAt m).2) state (c.storedBefore j))
      (u.hitBy c.zone.zone (fun m => (c.playedAt m).2) state (c.storedBefore (j + 1))) j := by
  rw [storedBefore_succ]
  by_cases hk : (c.playedAt j).2 < c.zone.effective
  · obtain ⟨n, slot, hs, hz, hkey, hst, hentry, hfill⟩ := hholds.mapped hk
    rw [if_pos hk]
    exact makes_mapped hj hadv hk (fun p k => lookup_hitBy (key := fun m => (c.playedAt m).2) htable hcache hs hkey hz hst hfill)
      (slot?_hitBy htable.2.2.1 hs) hentry
  · rw [if_neg hk]
    exact makes_phantom hj hadv (not_lt.mp hk) (hholds.phantom (not_lt.mp hk))

end

theorem takeStream_hits {u : State} {i : Nat} {c : Context} {entries : Nat → Entry} {state : Nat → Option SlotState}
    (htable : u.TableLaw) (hcache : u.CacheLaw) (hc : u.ctx? i = some c) (hw : c.window = []) (hgoes : c.taken.Continues c.depth)
    (hdepth : 0 < c.depth) (hbound : c.depth ≤ 16) (hholds : ∀ j < c.depth, u.Holds c.taken entries state j)
    (hfresh : (entries 0).isStale u.clock.sfc = false)
    (hhead : (entries 0).patched = 0 ∨ ((entries 0).ready = true ∧ c.policy = .tolerant)) : u.takeStream i c =
      (u.hitBy c.zone.zone (fun m => (c.playedAt m).2) state (c.storedBefore c.depth)).withStream i
        (c.taken.filling entries (if (entries 0).patched = 0 then c.patched else inc c.patched) c.depth)
        { u.streams.counts with created := addCount u.streams.counts.created c.depth } :=
  takeStream_fills (v := fun j => u.hitBy c.zone.zone (fun m => (c.playedAt m).2) state (c.storedBefore j)) htable hc hw
    hgoes.start hdepth hbound (by
      show u.hitBy _ _ _ [] = u
      rw [State.hitBy, hitBy_nil])
    (fun _ => hc)
    (fun j hj => makes_hit (c := c.taken) htable hcache hj (advance_generatorAt hgoes hj) (hholds j hj)) hfresh hhead

end Sys2Proof.Machine


/-! SUPPORT. A stream taken, whose window is filled by misses, and the taking of a stream as a command (R63, R76, R78, R99, R104,
R116 to R118, R120). -/

namespace Sys2Proof.Machine

/-! ### The fetch of a miss -/

/-- A channel after a fetch request that is queued, or begun at once on an IDLE channel. -/
def Channel.requested (now : Time) (n : SlotNo) (block : Nat) (deadline : Time) (k : Channel) : Channel :=
  let f : Fetch := { slot := n, block := block, deadline := deadline, pagesDone := 0, cancelPending := false, order := k.nextOrder }
  if k.op = none ∧ k.probePending = false then
    { k.asked f with op := some { kind := .fetchPage n, issued := now }, counts := { k.counts with begun := inc k.counts.begun } }
  else k.asked f

/-- The channel queues a request for the block, or begins it with a page that it holds. -/
structure Channel.Takes (k : Channel) (block : Nat) : Prop where
  online : k.offline = false
  queues : k.op ≠ none ∨ k.probePending = true ∨ (k.queue = [] ∧ ∃ m, k.pageCount = some m ∧ channelPage block 0 < m)

section
variable {s : State} {n : SlotNo} {block : Nat} {deadline : Time} {now : Time} {k : Channel}

theorem requestFetch_requested (hk : (s.chan (channelOf block)).Takes block) (hclear : s.cleared = false) :
    s.requestFetch n block deadline = (s.updChan (channelOf block) (Channel.requested s.now n block deadline), .none) := by
  by_cases hopen : (s.chan (channelOf block)).op = none ∧ (s.chan (channelOf block)).probePending = false
  · obtain ⟨hop, hprobe⟩ := hopen
    obtain ⟨hq, m, hm, hlt⟩ := (hk.queues.resolve_left fun hn => hn hop).resolve_left fun hp => by
      rw [hprobe] at hp
      cases hp
    rw [requestFetch_begun hk.online (by simp [State.channelOpen, hop, hprobe, hclear]) hq hm hlt]
    refine congrArg (fun t : State => (t, LateReport.none)) (updChan_congr _ _ ?_)
    rw [Channel.requested, if_pos ⟨hop, hprobe⟩]
    rfl
  · rw [requestFetch_queued hk.online (by
      simp only [State.channelOpen, hclear]
      simpa [Option.isNone_iff_eq_none] using fun hop hprobe => hopen ⟨hop, hprobe⟩)]
    refine congrArg (fun t : State => (t, LateReport.none)) (updChan_congr _ _ ?_)
    rw [Channel.requested, if_neg hopen]
    rfl

theorem requested_takes (hk : k.offline = false) (b : Nat) : (k.requested now n block deadline).Takes b := by
  unfold Channel.requested
  dsimp only
  split
  · exact ⟨hk, .inl (by simp)⟩
  · rename_i hopen
    refine ⟨hk, ?_⟩
    by_cases hop : k.op = none
    · have hprobe : k.probePending = true := by simpa [hop] using hopen
      exact .inr (.inl hprobe)
    · exact .inl hop

/-- Requests after the first find the channel reading, or its probe to come. -/
theorem foldl_requested_takes {α : Type} {f : Channel → α → Channel} (hf : ∀ (k : Channel) a b, k.offline = false → (f k a).Takes b)
    (l : List α) (b : Nat) (hk : k.Takes b) : (l.foldl f k).Takes b := by
  induction l generalizing k with
  | nil => exact hk
  | cons a rest ih => exact ih (hf k a b hk.online)

end

/-! ### The misses -/

/-- What element j of a window filled by misses asks of the cache and of its channel. -/
structure Miss where
  slot : SlotNo
  k : Nat
  block : Nat
  deadline : Time

/-- The slot a miss fills. -/
def Miss.filling (m : Miss) (zone : Zone) : Slot :=
  { state := .filling, zone := zone, k := m.k, refs := 1, pagesDone := 0, patched := 0, deadline := m.deadline }

/-- The channel of a miss, its fetch requested. -/
def Miss.request (now : Time) (k : Channel) (m : Miss) : Channel := k.requested now m.slot m.block m.deadline

/-- u after one miss. -/
def State.missed (zone : Zone) (u : State) (m : Miss) : State :=
  (u.slotTaken zone m.k m.deadline m.slot ((u.cache.takeSlot.map Prod.snd).getD u.cache)).updChan (channelOf m.block)
    (Channel.requested u.now m.slot m.block m.deadline)

/-- t is u after the first j misses. -/
structure State.MissRun (u : State) (zone : Zone) (miss : Nat → Miss) (j : Nat) (t : State) : Prop where
  rest : t = { u with cache := t.cache, fetch := t.fetch }
  cache : t.cache = { u.cache with
    slots := t.cache.slots, freeNext := t.cache.freeNext, freeTail := t.cache.freeTail
    counts := { u.cache.counts with miss := addCount u.cache.counts.miss j } }
  extent : t.fetch.extent = u.fetch.extent
  wf : Sparse.wf t.cache.slots
  filled : ∀ i < j, Sparse.get t.cache.slots (miss i).slot.val = some ((miss i).filling zone)
  others : ∀ x : Nat, (∀ i < j, x ≠ (miss i).slot.val) → Sparse.get t.cache.slots x = Sparse.get u.cache.slots x
  free : t.cache.freeList = u.cache.freeList.drop j
  chan : ∀ c, t.chan c =
    ((List.range j).filter fun i => decide (channelOf (miss i).block = c)).foldl (fun k i => Miss.request u.now k (miss i)) (u.chan c)

section
variable {u t : State} {zone : Zone} {miss : Nat → Miss} {j d : Nat}

theorem State.MissRun.zero (hwf : Sparse.wf u.cache.slots) : u.MissRun zone miss 0 u :=
  ⟨rfl, by rw [addCount_zero], rfl, hwf, fun _ hi => absurd hi (Nat.not_lt_zero _), fun _ _ => rfl, rfl, fun _ => rfl⟩

/-- What the misses of a window find: the slots they take, and keys that no slot carries. -/
structure State.MissesAll (u : State) (zone : Zone) (miss : Nat → Miss) (d : Nat) : Prop where
  wf : Sparse.wf u.cache.slots
  slots : u.cache.freeList.take d = (List.range d).map fun j => (miss j).slot.val
  nodup : ∀ i j, i < d → j < d → (miss i).slot = (miss j).slot → i = j
  keys : ∀ i j, (miss i).k = (miss j).k → i = j
  absent : ∀ p ∈ u.cache.slots, p.2.zone = zone → ∀ j < d, p.2.k ≠ (miss j).k
  cleared : u.cleared = false
  takes : ∀ j < d, (u.chan (channelOf (miss j).block)).Takes (miss j).block

theorem State.MissRun.takeSlot (ha : u.MissesAll zone miss d) (hj : j < d) (h : u.MissRun zone miss j t) :
    ∃ next tail, t.cache.takeSlot = some ((miss j).slot, { t.cache with freeNext := next, freeTail := tail })
      ∧ Cache.freeList { t.cache with freeNext := next, freeTail := tail } = u.cache.freeList.drop (j + 1) := by
  have hat : u.cache.freeList[j]? = some (miss j).slot.val := by
    have := congrArg (fun l : List Nat => l[j]?) ha.slots
    simpa [List.getElem?_take, hj] using this
  have hhead : t.cache.freeList.head? = some (miss j).slot.val := by rw [h.free, List.head?_drop, hat]
  have hne : t.cache.freeList ≠ [] := fun hnil => by
    rw [hnil] at hhead
    cases hhead
  obtain ⟨next, tail, htake, hfree⟩ := takeSlot_head (c := t.cache) (n := (miss j).slot) (by
    rw [List.head?_append, hhead]
    rfl)
  simp only [if_neg hne] at htake
  refine ⟨next, tail, htake, hfree.trans ?_⟩
  rw [h.free, List.tail_drop]

theorem State.MissRun.absent (ha : u.MissesAll zone miss d) (hj : j < d) (h : u.MissRun zone miss j t) :
    ∀ p ∈ t.cache.slots, p.2.zone = zone → p.2.k ≠ (miss j).k := by
  intro p hp hz
  have hget := (Sparse.get_eq_some_iff h.wf).mpr hp
  by_cases hnew : ∀ i < j, p.1 ≠ (miss i).slot.val
  · exact ha.absent p ((Sparse.get_eq_some_iff ha.wf).mp ((h.others p.1 hnew).symm.trans hget)) hz j hj
  · push Not at hnew
    obtain ⟨i, hi, hpi⟩ := hnew
    rw [hpi, h.filled i hi] at hget
    obtain hslot := Option.some.inj hget
    intro hk
    rw [← hslot] at hk
    exact absurd (ha.keys i j hk) (Nat.ne_of_lt hi)

/-- One more miss. -/
theorem State.MissRun.succ (ha : u.MissesAll zone miss d) (hj : j < d) (h : u.MissRun zone miss j t) :
    u.MissRun zone miss (j + 1) (t.missed zone (miss j)) := by
  obtain ⟨next, tail, htake, hfree⟩ := h.takeSlot ha hj
  have hnow : t.now = u.now := by rw [h.rest]; rfl
  have hcache : (t.missed zone (miss j)).cache = { t.cache with
      freeNext := next, freeTail := tail
      slots := Sparse.put t.cache.slots (miss j).slot.val ((miss j).filling zone)
      counts := { t.cache.counts with miss := inc t.cache.counts.miss } } := by
    unfold State.missed
    rw [htake]
    rfl
  have hslots : (t.missed zone (miss j)).cache.slots = Sparse.put t.cache.slots (miss j).slot.val ((miss j).filling zone) := by
    rw [hcache]
  refine ⟨?_, ?_, h.extent, ?_, fun i hi => ?_, fun x hx => ?_, ?_, fun c => ?_⟩
  · exact congrArg (fun x : State => { x with cache := (t.missed zone (miss j)).cache, fetch := (t.missed zone (miss j)).fetch })
      h.rest
  · rw [hcache]
    have hold := h.cache
    have hmiss : t.cache.counts.miss = addCount u.cache.counts.miss j := by rw [hold]
    rw [hmiss, show inc (addCount u.cache.counts.miss j) = addCount u.cache.counts.miss (j + 1) from addCount_addCount _ _ 1]
    conv_lhs => rw [hold]
  · rw [hslots]
    exact Sparse.put_wf h.wf _ _
  · rw [hslots, Sparse.get_put]
    rcases Nat.lt_succ_iff_lt_or_eq.mp hi with hlt | rfl
    · rw [if_neg fun he => absurd (ha.nodup j i hj (by omega) (Fin.ext he)) (by omega)]
      exact h.filled i hlt
    · exact if_pos rfl
  · rw [hslots, Sparse.get_put, if_neg (Ne.symm (hx j (Nat.lt_succ_self j)))]
    exact h.others x fun i hi => hx i (by omega)
  · rw [hcache]
    exact hfree
  · have hchan : (t.missed zone (miss j)).chan c =
        if channelOf (miss j).block = c then Miss.request u.now (t.chan c) (miss j) else t.chan c := by
      unfold State.missed
      rw [chan_updChan, hnow]
      rfl
    rw [hchan, h.chan c, List.range_succ, List.filter_append]
    by_cases hc : channelOf (miss j).block = c
    · rw [if_pos hc, List.filter_cons_of_pos (by simpa using hc), List.filter_nil, List.foldl_append]
      rfl
    · rw [if_neg hc, List.filter_cons_of_neg (by simpa using hc), List.filter_nil, List.append_nil]

theorem State.MissRun.lookup {i : Nat} {x : Context} {k : StreamCounts} (ha : u.MissesAll zone miss d) (hj : j < d)
    (h : u.MissRun zone miss j t) :
    (t.withStream i x k).lookup zone (miss j).k (miss j).block (miss j).deadline =
      some { slot := (miss j).slot, state := (t.missed zone (miss j)).withStream i x k, report := .none } := by
  obtain ⟨next, tail, htake, -⟩ := h.takeSlot ha hj
  have htakes : (t.chan (channelOf (miss j).block)).Takes (miss j).block := by
    rw [h.chan]
    exact foldl_requested_takes (fun k i b hk => requested_takes hk b) _ _ (ha.takes j hj)
  have hclear : t.cleared = false := by
    rw [h.rest]
    exact ha.cleared
  have habsent := h.absent ha hj
  rw [lookup_miss (s := t.withStream i x k) habsent, allocate_eq (s := t.withStream i x k) htake,
    requestFetch_requested (by exact htakes) (by exact hclear)]
  have hmissed : t.missed zone (miss j) = (t.slotTaken zone (miss j).k (miss j).deadline (miss j).slot
      { t.cache with freeNext := next, freeTail := tail }).updChan (channelOf (miss j).block)
        (Channel.requested t.now (miss j).slot (miss j).block (miss j).deadline) := by
    unfold State.missed
    rw [htake]
    rfl
  rw [hmissed]
  rfl

/-- u after the first j misses. -/
def State.missedBy (u : State) (zone : Zone) (miss : Nat → Miss) (j : Nat) : State :=
  (List.range j).foldl (fun t i => t.missed zone (miss i)) u

theorem missedBy_succ (u : State) (zone : Zone) (miss : Nat → Miss) (j : Nat) :
    u.missedBy zone miss (j + 1) = (u.missedBy zone miss j).missed zone (miss j) := by
  rw [State.missedBy, List.range_succ, List.foldl_append]
  rfl

theorem missedBy_streams (u : State) (zone : Zone) (miss : Nat → Miss) (j : Nat) : (u.missedBy zone miss j).streams = u.streams := by
  induction j with
  | zero => rfl
  | succ j ih =>
    rw [missedBy_succ, ← ih]
    rfl

theorem missedBy_run (ha : u.MissesAll zone miss d) : ∀ j ≤ d, u.MissRun zone miss j (u.missedBy zone miss j) := by
  intro j
  induction j with
  | zero => exact fun _ => State.MissRun.zero ha.wf
  | succ j ih =>
    intro hj
    rw [missedBy_succ]
    exact (ih (by omega)).succ ha hj

end

end Sys2Proof.Machine


/-! SUPPORT. The taking of a stream by the own OFFER's ACK (R63, R76, R78). -/

namespace Sys2Proof.Machine

section
variable {c : Context} {n j : Nat}

theorem finishes_le (h : c.Continues n) (hj : j ≤ 16) : c.finishes j ≤ 18 * c.zone.length := by
  cases hl : c.loop? with
  | none =>
    rw [finishes_eq (playedAt_none hl j), span_none hl]
    have hle : min ((c.kFirst + j + 1) * c.blockFrames) c.zone.length ≤ c.zone.length := min_le_right _ _
    dsimp only
    omega
  | some l =>
    obtain ⟨-, -, hstop⟩ := h.fits l hl
    by_cases hrun : j < c.firstCount l
    · rw [finishes_eq (playedAt_firstRun hl hrun), span_firstRun hl]
      have hle : min ((c.kFirst + j + 1) * c.blockFrames) l.stop ≤ l.stop := min_le_right _ _
      dsimp only
      omega
    · obtain ⟨m, r, hr, hm, hat⟩ : ∃ m r, r < c.passCount l ∧ m ≤ 16 ∧ j = c.firstCount l + (m * c.passCount l + r) := by
        have hdiv := Nat.div_add_mod' (j - c.firstCount l) (c.passCount l)
        have hle := Nat.div_le_self (j - c.firstCount l) (c.passCount l)
        exact ⟨(j - c.firstCount l) / c.passCount l, (j - c.firstCount l) % c.passCount l, Nat.mod_lt _ (passCount_pos c l),
          by omega, by omega⟩
      have hplayed := playedAt_pass (c := c) (m := m) hl hr fun x hx => by
        rw [h.exit] at hx
        cases hx
      rw [hat, finishes_eq hplayed, span_pass hl]
      have hle : min ((c.kLoopFirst l + r + 1) * c.blockFrames) l.stop ≤ l.stop := min_le_right _ _
      have hlen : m * l.length ≤ 16 * c.zone.length := Nat.mul_le_mul hm ((Nat.sub_le _ _).trans hstop)
      simp only [Context.passStart, Nat.add_sub_cancel]
      omega

/-- The distances of a window's elements are held whole. -/
theorem distances_lt (h : c.Continues n) (hzone : c.zone.length ≤ 67108864) (hj : j < n) (hn : n ≤ 16) :
    c.begins j < 2 ^ 48 ∧ c.finishes j < 2 ^ 48 := by
  obtain ⟨-, hlt⟩ := played_meets (c := c) (j := j) h.start h.fits (fun hl => by have := h.within hl; omega) fun l m _ hm => by
    rw [h.exit] at hm
    cases hm
  have hle := finishes_le (j := j) h (by omega)
  omega

theorem timeOf_ofNat {x : Nat} (hx : x < 2 ^ 48) : c.timeOf (BitVec.ofNat 48 x) =
    c.origin + BitVec.ofNat 32 ((x * 65536 + c.rate - 1) / c.rate) := by
  rw [Context.timeOf, ceilDiv, BitVec.toNat_ofNat, Nat.mod_eq_of_lt hx]

theorem freeList_nodup {s : State} (hcache : s.CacheLaw) : s.cache.freeList.Nodup := by
  obtain ⟨-, -, -, -, htail, hbelow, -⟩ := hcache
  rw [Cache.freeList, List.nodup_append]
  refine ⟨List.nodup_range.map fun a b hab => Nat.add_right_cancel hab, htail.map Fin.val_injective, fun a ha b hb => ?_⟩
  obtain ⟨x, -, rfl⟩ := List.mem_map.mp ha
  obtain ⟨m, hm, rfl⟩ := List.mem_map.mp hb
  have := hbelow m hm
  omega

/-- The elements of a sequence that no exit ends: the first run, then one pass of the loop after another. -/
theorem playedAt_written (hexit : c.exitPass = none) (j : Nat) : c.playedAt j = match c.loop? with
    | none => (Part.first, c.f0.toNat / c.zone.format.framesPerBlock + j)
    | some l =>
      let run := (l.stop - 1) / c.zone.format.framesPerBlock - c.f0.toNat / c.zone.format.framesPerBlock + 1
      let pass := (l.stop - 1) / c.zone.format.framesPerBlock - l.first / c.zone.format.framesPerBlock + 1
      if j < run then (Part.first, c.f0.toNat / c.zone.format.framesPerBlock + j)
      else (Part.pass (1 + (j - run) / pass), l.first / c.zone.format.framesPerBlock + (j - run) % pass) := by
  simp only [Context.playedAt, hexit]
  cases c.loop? with
  | none => rfl
  | some l => simp only [Nat.add_comm 1]; rfl

/-- The distances an element of the first run or of a pass spans. -/
theorem span_written (part : Part) (k : Nat) : part ≠ .coda → c.span part k = match c.loop?, part with
    | some l, .pass m =>
      let begins := (l.stop - c.f0.toNat) + (m - 1) * (l.stop - l.first)
      (begins + (max (k * c.zone.format.framesPerBlock) l.first - l.first),
        begins + (min ((k + 1) * c.zone.format.framesPerBlock) l.stop - l.first))
    | some l, _ => (max (k * c.zone.format.framesPerBlock) c.f0.toNat - c.f0.toNat,
        min ((k + 1) * c.zone.format.framesPerBlock) l.stop - c.f0.toNat)
    | none, _ => (max (k * c.zone.format.framesPerBlock) c.f0.toNat - c.f0.toNat,
        min ((k + 1) * c.zone.format.framesPerBlock) c.zone.length - c.f0.toNat) := by
  intro hcoda
  have hmax : ∀ x y : Nat, max x y - y = x - y := fun x y => by omega
  simp only [Context.span]
  cases c.loop? with
  | none => simp only [hmax]; rfl
  | some l =>
    cases part with
    | first => simp only [hmax]; rfl
    | pass m => rfl
    | coda => exact absurd rfl hcoda

/-- The taking of a stream whose first blocks are all stored and none of them in the cache. -/
theorem takeStream_misses {u : State} {i : Nat} {entries : Nat → Entry} {miss : Nat → Miss} (htable : u.TableLaw)
    (hc : u.ctx? i = some c) (hw : c.window = []) (hgoes : c.taken.Continues c.depth) (hdepth : 0 < c.depth) (hbound : c.depth ≤ 16)
    (hmisses : u.MissesAll c.zone.zone miss c.depth) (hstored : ∀ j < c.depth, (c.playedAt j).2 < c.zone.effective)
    (hmiss : ∀ j < c.depth, (miss j).k = (c.playedAt j).2 ∧ (miss j).block = c.zone.base + (c.playedAt j).2
      ∧ (miss j).deadline = (c.entryAt u.lead j).deadline)
    (hentries : ∀ j < c.depth, entries j = (c.entryAt u.lead j).onSlot (miss j).slot ((miss j).filling c.zone.zone))
    (hfresh : (c.entryAt u.lead 0).isStale u.clock.sfc = false) : u.takeStream i c =
      (u.missedBy c.zone.zone miss c.depth).withStream i
        (c.taken.filling entries (if (entries 0).patched = 0 then c.patched else inc c.patched) c.depth)
        { u.streams.counts with created := addCount u.streams.counts.created c.depth } := by
  have hrun := fun j (hj : j ≤ c.depth) => missedBy_run hmisses j hj
  have hlead : ∀ j ≤ c.depth, (u.missedBy c.zone.zone miss j).lead = u.lead := fun j hj => by
    rw [(hrun j hj).rest]
    rfl
  have hmakes : ∀ j < c.depth, State.Makes i c.taken entries (u.missedBy c.zone.zone miss j) (u.missedBy c.zone.zone miss (j + 1)) j :=
    fun j hj => by
      refine makes_mapped (n := (miss j).slot) (slot := (miss j).filling c.zone.zone) hj (advance_generatorAt hgoes hj) (hstored j hj)
        (fun p k => ?_) ((hrun (j + 1) hj).filled j (Nat.lt_succ_self j)) ?_
      · have hlookup := (hrun j hj.le).lookup (i := i) (x := c.taken.filling entries p j) (k := k) hmisses hj
        obtain ⟨hkey, hblock, hdeadline⟩ := hmiss j hj
        rw [← missedBy_succ, hkey, hblock, hdeadline] at hlookup
        rw [hlead j hj.le]
        exact hlookup
      · rw [hlead j hj.le]
        exact hentries j hj
  refine takeStream_fills (v := fun j => u.missedBy c.zone.zone miss j) htable hc hw hgoes.start hdepth hbound rfl (fun j => ?_) hmakes ?_
    (.inl ?_)
  · rw [State.ctx?, missedBy_streams]
    exact hc
  · rw [(hrun 1 hdepth).rest, hentries 0 hdepth]
    exact hfresh
  · rw [hentries 0 hdepth]
    rfl

end

/-- Settles O50: the window filled from the cache, or by misses. -/
theorem takenStreamFillsItsWindow : Obligations.TakenStreamFillsItsWindow := by
  intro dt i frame c o loop s h hc ht hcache hst ho hph hw hloop hact hexit hcut hstart h2 h16 b f0 hnone hsome hzone element span
    need leave time deadline entry taken stored hfresh
  obtain rfl : loop = c.loop? := hloop
  have hgoes : c.Continues c.depth := ⟨hcut, hexit, hstart, hsome, hnone⟩
  have helement : element = c.playedAt := by
    funext j
    exact (playedAt_written hexit j).symm
  have hspan : ∀ j, span (element j).1 (element j).2 = (c.begins j, c.finishes j) := fun j => by
    rw [helement]
    exact (span_written (c := c) _ _ (playedAt_not_coda hgoes j)).symm
  have hsent : c.offerSent = true := offerSent_iff.mpr ⟨o, ho, hst, hph⟩
  have hbegins : ∀ j, need j = c.begins j := fun j => congrArg Prod.fst (hspan j)
  have hfinishes : ∀ j, leave j = c.finishes j := fun j => congrArg Prod.snd (hspan j)
  have hneed : ∀ j < c.depth, time (need j) = c.timeOf (BitVec.ofNat 48 (c.begins j)) := fun j hj => by
    rw [timeOf_ofNat (distances_lt hgoes hzone hj h16).1, hbegins]
  have hleave : ∀ j < c.depth, time (leave j) = c.timeOf (BitVec.ofNat 48 (c.finishes j)) := fun j hj => by
    rw [timeOf_ofNat (distances_lt hgoes hzone hj h16).2, hfinishes]
  have hentry : ∀ j < c.depth, ∀ slot ready patched, entry j slot ready patched = { c.entryAt s.lead j with
      phantom := decide (c.zone.effective ≤ (c.playedAt j).2), slot := slot, ready := ready, patched := patched } :=
    fun j hj slot ready patched => by
      simp only [entry, deadline]
      rw [hneed j hj, hleave j hj, hbegins, hfinishes, helement]
      rfl
  obtain ⟨u, hu⟩ : ∃ u : State, u = (s.slotEnding dt).countCue fun k => { k with offersWon := inc k.offersWon } := ⟨_, rfl⟩
  have hacked : (s.slotEnding dt).offerAcked i = u.takeStream i c := by
    rw [hu]
    exact offerAcked_sent (s := s.slotEnding dt) hc hsent
  have htaken : ∀ entries cache fetch, (({ u with cache := cache, fetch := fetch } : State).withStream i
      (c.taken.filling entries (if (entries 0).patched = 0 then c.patched else inc c.patched) c.depth)
      { s.streams.counts with created := addCount s.streams.counts.created c.depth }).plain = (taken entries cache fetch).plain := by
    intro entries cache fetch
    have hmod : Sparse.modify s.streams.contexts i (fun x => { x with
          offer := none, state := if c.activeLoop = true then .looping else .running
          gen := { part := (element c.depth).1, k := (element c.depth).2, pos := c.depth, index := c.depth
                   overrun := 0, closed := false }
          window := (List.range c.depth).map entries
          patched := if (entries 0).patched = 0 then x.patched else inc x.patched }) =
        Sparse.modify s.streams.contexts i fun _ =>
          c.taken.filling entries (if (entries 0).patched = 0 then c.patched else inc c.patched) c.depth :=
      Sparse.modify_congr ht.1 fun a ha => by
        obtain rfl : c = a := Option.some.inj (hc.symm.trans ha)
        rw [helement]
        rfl
    simp only [taken]
    rw [hmod, hu]
    rfl
  have hearly : (c.entryAt u.lead 0).isStale u.clock.sfc = false := isStale_false_of_before (by
    have h0 := hleave 0 (by omega)
    rw [h0] at hfresh
    rw [hu]
    exact hfresh)
  have hut : u.TableLaw := hu ▸ ht
  have huc : u.CacheLaw := hu ▸ hcache
  have hui : u.ctx? i = some c := hu ▸ hc
  have hulead : u.lead = s.lead := hu ▸ rfl
  have hgo : c.taken.Continues c.depth := ⟨hcut, hexit, hstart, hsome, hnone⟩
  refine ⟨?_, ?_⟩
  · intro slotAt uses hits entries hall hpatched
    have hholds : ∀ j < c.depth, u.Holds c.taken entries (fun j => (slotAt j).map (·.2.state)) j := fun j hj => by
      refine ⟨fun hk => ?_, fun hk => ?_⟩
      · have hnone : slotAt j = none := by
          simp only [slotAt, helement]
          exact if_neg (not_lt.mpr hk)
        simp only [entries, hnone]
        rw [hentry j hj, hulead]
        rw [decide_eq_true (by exact hk)]
        rfl
      · have hk' : (element j).2 < c.zone.effective := by rw [helement]; exact hk
        obtain ⟨p, hp, hz, hkey, hfill⟩ := hall j (List.mem_filter.mpr ⟨List.mem_range.mpr hj, by simpa using hk'⟩)
        obtain ⟨-, -, hwf, hslots⟩ := id ht
        obtain ⟨m, slot⟩ := p
        have hslot : s.slot? ⟨m, hslots _ hp⟩ = some slot := (Sparse.get_eq_some_iff hwf).mpr hp
        have hat : slotAt j = some (⟨m, hslots _ hp⟩, slot) := by
          have hfind := findKey_eq ht hcache hslot
          rw [show slot.zone = c.zone.zone from hz, show slot.k = (element j).2 from hkey] at hfind
          simp only [slotAt]
          rw [if_pos hk', hfind]
        refine ⟨⟨m, hslots _ hp⟩, slot, hu ▸ hslot, hz, by rw [hkey, helement]; rfl, by simp only [hat]; rfl, ?_, fun hst => ?_⟩
        · have hphantom : decide (c.zone.effective ≤ (c.playedAt j).2) = false := decide_eq_false (not_le.mpr hk)
          simp only [entries, hat, hentry j hj, hphantom, Entry.onSlot, hulead]
          by_cases hf : slot.state = .filling
          · simp only [hf, if_true, ne_eq, not_true_eq_false, decide_false]
            rfl
          · simp only [hf, if_false, ne_eq, not_false_eq_true, decide_true]
            rfl
        · obtain ⟨hlaw, hrefs, hlate⟩ := hfill hst
          have hstays : u.FetchStays ⟨m, hslots _ hp⟩ := by
            rw [hu]
            exact fetchStays_of_laws hlaw hslot hst hrefs
          refine ⟨hstays, ?_⟩
          rw [hulead]
          simp only [deadline] at hlate
          rw [hneed j hj] at hlate
          exact hlate
    have hfirst := hholds 0 (by omega)
    have hhead : (entries 0).patched = 0 ∨ ((entries 0).ready = true ∧ c.policy = .tolerant) := by
      rcases lt_or_ge (c.playedAt 0).2 c.zone.effective with hk | hk
      · obtain ⟨m, slot, -, -, -, -, hon, -⟩ := hfirst.mapped hk
        by_cases hf : slot.state = .filling
        · exact .inl (by rw [hon]; exact if_pos hf)
        · exact hpatched.imp_right fun htol => ⟨by rw [hon]; exact decide_eq_true hf, htol⟩
      · exact .inl (by rw [hfirst.phantom hk]; rfl)
    have hnotstale : (entries 0).isStale u.clock.sfc = false := by
      rw [← hearly, Entry.isStale, Entry.isStale]
      rcases lt_or_ge (c.playedAt 0).2 c.zone.effective with hk | hk
      · obtain ⟨m, slot, -, -, -, -, hon, -⟩ := hfirst.mapped hk
        rw [hon]
        rfl
      · rw [hfirst.phantom hk]
        rfl
    have hstored : stored = c.storedBefore c.depth := by
      simp only [stored, helement]
      rfl
    refine ownOfferAck_gives h ?_
    rw [hacked, takeStream_hits hut huc hui hw hgo (by omega) h16 hholds hnotstale hhead]
    refine (congrArg State.plain ?_).trans ((htaken entries (u.cache.hitBy c.zone.zone (fun m => (c.playedAt m).2)
      (fun j => (slotAt j).map (·.2.state)) (c.storedBefore c.depth)) s.fetch).trans (congrArg State.plain ?_))
    · rw [hu]
      rfl
    · refine congrArg (fun x => taken entries x s.fetch) ?_
      simp only [Cache.hitBy, usesOf, hitsOf, uses, hits, hstored, helement, hu]
      rfl
  · intro n hl hall hclear habsent hfree block htakes requested
    obtain ⟨miss, hmiss⟩ : ∃ miss : Nat → Miss, miss = fun j =>
      { slot := n j, k := (c.playedAt j).2, block := block j, deadline := deadline j } := ⟨_, rfl⟩
    have hstores : ∀ j < c.depth, (c.playedAt j).2 < c.zone.effective := fun j hj => by
      have hfilter := List.length_filter_eq_length_iff.mp (hall.trans List.length_range.symm) j (List.mem_range.mpr hj)
      rw [← helement]
      simpa using hfilter
    have hmisses : u.MissesAll c.zone.zone miss c.depth := by
      have hslots : u.cache.freeList.take c.depth = (List.range c.depth).map fun j => (miss j).slot.val := by
        rw [hmiss, hu]
        exact hfree
      refine ⟨hut.2.2.1, hslots, fun a b ha hb hab => ?_, fun a b hab => ?_, fun p hp hz j hj => ?_, hu ▸ hclear, fun j hj => ?_⟩
      · have hnodup := (freeList_nodup huc).sublist (List.take_sublist c.depth _)
        rw [hslots] at hnodup
        exact List.inj_on_of_nodup_map hnodup (List.mem_range.mpr ha) (List.mem_range.mpr hb) (congrArg Fin.val hab)
      · rw [hmiss] at hab
        simp only [playedAt_none hl] at hab
        omega
      · rw [hmiss]
        simp only [← helement]
        exact habsent p (by rw [hu] at hp; exact hp) hz j hj
      · obtain ⟨hoff, htake⟩ := htakes j hj
        rw [hmiss, hu]
        exact ⟨hoff, htake⟩
    obtain ⟨entries, hentries⟩ : ∃ entries : Nat → Entry, entries = fun j => entry j (some (n j)) false 0 := ⟨_, rfl⟩
    have hmade : ∀ j < c.depth, entries j = (c.entryAt u.lead j).onSlot (miss j).slot ((miss j).filling c.zone.zone) := fun j hj => by
      rw [hentries, hulead, hmiss]
      simp only [hentry j hj, decide_eq_false (not_le.mpr (hstores j hj))]
      rfl
    have hend := missedBy_run hmisses c.depth (Nat.le_refl _)
    have hgives : Result.Gives (exec (.ownOfferAck dt) s) (taken entries (u.missedBy c.zone.zone miss c.depth).cache
        (u.missedBy c.zone.zone miss c.depth).fetch) := by
      refine ownOfferAck_gives h ?_
      rw [hacked, takeStream_misses hut hui hw hgo (by omega) h16 hmisses hstores (fun j hj => ?_) hmade hearly, ← htaken, ← hend.rest]
      · rw [show u.streams.counts = s.streams.counts by rw [hu]; rfl]
      · rw [hmiss, hulead]
        refine ⟨rfl, ?_, ?_⟩
        · show c.zone.base + (element j).2 = _
          rw [helement]
        · show time (need j) - _ = _
          rw [hneed j hj]
          rfl
    obtain ⟨t, hexec, hsettles⟩ := hgives
    obtain ⟨-, -, -, -, -, -, -, htc, htf, -⟩ := id hsettles
    have hcached : t.cache = (u.missedBy c.zone.zone miss c.depth).cache := htc
    have hfetched : t.fetch = (u.missedBy c.zone.zone miss c.depth).fetch := htf
    have hucache : u.cache = s.cache := by rw [hu]; rfl
    refine ⟨t, hexec, ?_, fun j hj => ?_, fun m hm => ?_, ?_, fun ch => ?_⟩
    · have hcache' : { t.cache with
          dram := s.cache.dram, reclaim := s.cache.reclaim
          counts := { s.cache.counts with miss := addCount s.cache.counts.miss c.depth } } = t.cache := by
        have heq := hend.cache
        rw [← hcached, hucache] at heq
        exact heq.symm
      have hfetch' : { t.fetch with extent := s.fetch.extent } = t.fetch := by
        have heq := hend.extent
        rw [← hfetched, show u.fetch.extent = s.fetch.extent by rw [hu]; rfl] at heq
        rw [← heq]
      rw [hcache', hfetch', hcached, hfetched, ← hentries]
      exact hsettles
    · have hfilled := hend.filled j hj
      rw [← hcached, hmiss] at hfilled
      rw [helement]
      exact hfilled
    · have hothers := hend.others m.val fun j hj hmj => hm j hj (Fin.ext (by rw [hmiss] at hmj; exact hmj))
      rw [← hcached, hucache] at hothers
      exact hothers
    · rw [hcached, hend.free, hucache]
    · have hsame : t.chan ch = (u.missedBy c.zone.zone miss c.depth).chan ch := by rw [State.chan, State.chan, hfetched]
      rw [hsame, hend.chan ch, hmiss, hu]
      rfl

end Sys2Proof.Machine


/-! SUPPORT. The cache's law with references in transit: taken from a window and not yet released, or taken by a lookup and not
yet in a window (R97 to R100, R103, R104, R109). -/

namespace Sys2Proof.Machine

/-- The record of a slot, none when it is EMPTY. -/
def Cache.slot (c : Cache) (n : SlotNo) : Option Slot := Sparse.get c.slots n.val

/-- The cache agrees with the references `held`, one for each time a slot stands there (R97 to R100, R103). -/
structure Cache.Sound (held : List SlotNo) (c : Cache) : Prop where
  wf : Sparse.wf c.slots
  bound : ∀ p ∈ c.slots, p.1 < Config.slots
  keys : ∀ n m x y, c.slot n = some x → c.slot m = some y → x.zone = y.zone → x.k = y.k → n = m
  refs : ∀ n x, c.slot n = some x → x.refs = held.count n
  present : ∀ n ∈ held, c.slot n ≠ none
  next : c.freeNext ≤ Config.slots
  tail : c.freeTail.Nodup
  below : ∀ n ∈ c.freeTail, n.val < c.freeNext
  free : ∀ n, c.slot n = none ↔ n ∈ c.freeTail ∨ c.freeNext ≤ n.val
  once : c.reclaim.Nodup
  reclaim : ∀ n, n ∈ c.reclaim ↔ ∃ x, c.slot n = some x ∧ x.state = .valid ∧ x.refs = 0
  patched : ∀ n x, c.slot n = some x → x.state = .patched → x.refs ≠ 0

section
variable {c : Cache} {held other : List SlotNo} {n : SlotNo} {x : Slot}

theorem Cache.slot_eq (hwf : Sparse.wf c.slots) : c.slot n = some x ↔ (n.val, x) ∈ c.slots := Sparse.get_eq_some_iff hwf

/-- The counts and the bytes of the DRAM have no part in it. -/
theorem Cache.Sound.same {d : Cache} (h : c.Sound held) (hslots : d.slots = c.slots) (hnext : d.freeNext = c.freeNext)
    (htail : d.freeTail = c.freeTail) (hreclaim : d.reclaim = c.reclaim) : d.Sound held := by
  have hslot : ∀ n, d.slot n = c.slot n := fun n => by rw [Cache.slot, Cache.slot, hslots]
  constructor
  · exact hslots ▸ h.wf
  · exact hslots ▸ h.bound
  · simpa only [hslot] using h.keys
  · simpa only [hslot] using h.refs
  · simpa only [hslot] using h.present
  · exact hnext ▸ h.next
  · exact htail ▸ h.tail
  · rw [htail, hnext]
    exact h.below
  · simpa only [hslot, htail, hnext] using h.free
  · exact hreclaim ▸ h.once
  · simpa only [hslot, hreclaim] using h.reclaim
  · simpa only [hslot] using h.patched

theorem Cache.Sound.perm (h : c.Sound held) (hp : held.Perm other) : c.Sound other :=
  { h with
    refs := fun n x hx => (h.refs n x hx).trans (hp.count_eq n)
    present := fun n hn => h.present n (hp.symm.subset hn) }

/-- One slot changed, its key kept. -/
theorem Cache.Sound.modify {g : Slot → Slot} {reclaim : List SlotNo} {counts : CacheCounts} (h : c.Sound held)
    (hx : c.slot n = some x) (hz : (g x).zone = x.zone) (hk : (g x).k = x.k) (hcount : ∀ m, m ≠ n → other.count m = held.count m)
    (hrefs : (g x).refs = other.count n) (honce : reclaim.Nodup)
    (hreclaim : ∀ m, m ∈ reclaim ↔ (m ≠ n ∧ m ∈ c.reclaim) ∨ (m = n ∧ (g x).state = .valid ∧ (g x).refs = 0))
    (hpatched : (g x).state = .patched → (g x).refs ≠ 0) :
    Cache.Sound other { c with slots := Sparse.modify c.slots n.val g, reclaim := reclaim, counts := counts } := by
  have hslot : ∀ m, Cache.slot { c with slots := Sparse.modify c.slots n.val g, reclaim := reclaim, counts := counts } m =
      if m = n then some (g x) else c.slot m := fun m => by
    show Sparse.get (Sparse.modify c.slots n.val g) m.val = _
    rw [Sparse.get_modify]
    by_cases hm : m = n
    · rw [if_pos (congrArg Fin.val hm).symm, if_pos hm, show Sparse.get c.slots m.val = some x from hm ▸ hx, Option.map_some]
    · rw [if_neg fun he => hm (Fin.ext he.symm), if_neg hm]
      rfl
  have hcases : ∀ {m y}, (if m = n then some (g x) else c.slot m) = some y → (m = n ∧ y = g x) ∨ (m ≠ n ∧ c.slot m = some y) :=
    fun {m y} hy => by
      split at hy
      · rename_i hm
        exact .inl ⟨hm, (Option.some.inj hy).symm⟩
      · rename_i hm
        exact .inr ⟨hm, hy⟩
  refine ⟨Sparse.modify_wf h.wf _ _, fun p hp => ?_, fun a b y z hy hz' hzone hkey => ?_, fun m y hy => ?_, fun m hm => ?_, h.next, h.tail,
    h.below, fun m => ?_, honce, fun m => ?_, fun m y hy hst => ?_⟩
  · obtain ⟨q, hq, rfl⟩ := List.mem_map.mp hp
    have := h.bound q hq
    split <;> exact this
  · rw [hslot] at hy hz'
    obtain ⟨rfl, rfl⟩ | ⟨-, hya⟩ := hcases hy
    · obtain ⟨hb, -⟩ | ⟨-, hzb⟩ := hcases hz'
      · exact hb.symm
      · exact h.keys _ _ _ _ hx hzb (hz.symm.trans hzone) (hk.symm.trans hkey)
    · obtain ⟨rfl, rfl⟩ | ⟨-, hzb⟩ := hcases hz'
      · exact h.keys _ _ _ _ hya hx (hzone.trans hz) (hkey.trans hk)
      · exact h.keys _ _ _ _ hya hzb hzone hkey
  · rw [hslot] at hy
    rcases hcases hy with ⟨rfl, rfl⟩ | ⟨hm, hy⟩
    · exact hrefs
    · exact (h.refs m y hy).trans (hcount m hm).symm
  · rw [hslot]
    split
    · simp
    · rename_i hne
      refine h.present m (List.count_pos_iff.mp ?_)
      rw [← hcount m hne]
      exact List.count_pos_iff.mpr hm
  · rw [hslot]
    split
    · rename_i hm
      have := h.free m
      rw [hm, hx] at this
      rw [hm]
      simpa using this
    · exact h.free m
  · rw [hslot]
    show m ∈ reclaim ↔ _
    rw [hreclaim m]
    by_cases hm : m = n
    · rw [if_pos hm]
      constructor
      · rintro (⟨hne, -⟩ | ⟨-, hv, hr⟩)
        · exact absurd hm hne
        · exact ⟨g x, rfl, hv, hr⟩
      · rintro ⟨y, hy, hv, hr⟩
        obtain rfl := Option.some.inj hy
        exact .inr ⟨hm, hv, hr⟩
    · rw [if_neg hm, ← h.reclaim m]
      exact ⟨fun hor => hor.elim And.right fun hn => absurd hn.1 hm, fun hmem => .inl ⟨hm, hmem⟩⟩
  · rw [hslot] at hy
    rcases hcases hy with ⟨rfl, rfl⟩ | ⟨hm, hy⟩
    · exact hpatched hst
    · exact h.patched m y hy hst

/-- A slot that nothing refers to any more and that is not on the reclaim list, emptied. -/
theorem Cache.Sound.empty {counts : CacheCounts} (h : c.Sound held) (hx : c.slot n = some x)
    (hcount : ∀ m, m ≠ n → other.count m = held.count m) (hzero : n ∉ other) (hnot : n ∉ c.reclaim) :
    Cache.Sound other { c with slots := Sparse.erase c.slots n.val, freeTail := c.freeTail ++ [n], counts := counts } := by
  have hslot : ∀ m, Cache.slot { c with slots := Sparse.erase c.slots n.val, freeTail := c.freeTail ++ [n], counts := counts } m =
      if m = n then none else c.slot m := fun m => by
    show Sparse.get (Sparse.erase c.slots n.val) m.val = _
    rw [Sparse.get_erase]
    by_cases hm : m = n
    · rw [if_pos (congrArg Fin.val hm).symm, if_pos hm]
    · rw [if_neg fun he => hm (Fin.ext he.symm), if_neg hm]
      rfl
  have hcases : ∀ {m y}, (if m = n then none else c.slot m) = some y → m ≠ n ∧ c.slot m = some y := fun {m y} hy => by
    split at hy
    · cases hy
    · rename_i hm
      exact ⟨hm, hy⟩
  have hfree : ¬ (n ∈ c.freeTail ∨ c.freeNext ≤ n.val) := fun hf => by
    have := (h.free n).mpr hf
    rw [hx] at this
    cases this
  refine ⟨Sparse.erase_wf h.wf _, fun p hp => h.bound p (List.mem_filter.mp hp).1, fun a b y z hy hz hzone hkey => ?_, fun m y hy => ?_,
    fun m hm => ?_, h.next, ?_, fun m hm => ?_, fun m => ?_, h.once, fun m => ?_, fun m y hy hst => ?_⟩
  · rw [hslot] at hy hz
    exact h.keys _ _ _ _ (hcases hy).2 (hcases hz).2 hzone hkey
  · rw [hslot] at hy
    obtain ⟨hm, hy⟩ := hcases hy
    exact (h.refs m y hy).trans (hcount m hm).symm
  · have hne : m ≠ n := fun he => hzero (he ▸ hm)
    rw [hslot, if_neg hne]
    refine h.present m (List.count_pos_iff.mp ?_)
    rw [← hcount m hne]
    exact List.count_pos_iff.mpr hm
  · refine List.nodup_append.mpr ⟨h.tail, List.nodup_singleton n, fun a ha b hb => ?_⟩
    rw [List.mem_singleton] at hb
    rintro rfl
    exact hfree (.inl (hb ▸ ha))
  · rcases List.mem_append.mp hm with hm | hm
    · exact h.below m hm
    · rw [List.mem_singleton] at hm
      rw [hm]
      show n.val < c.freeNext
      omega
  · rw [hslot]
    show _ ↔ m ∈ c.freeTail ++ [n] ∨ c.freeNext ≤ m.val
    rw [List.mem_append, List.mem_singleton]
    by_cases hm : m = n
    · rw [if_pos hm]
      exact iff_of_true rfl (.inl (.inr hm))
    · rw [if_neg hm, h.free m]
      simp [hm]
  · rw [hslot]
    show m ∈ c.reclaim ↔ _
    by_cases hm : m = n
    · rw [if_pos hm]
      exact iff_of_false (hm ▸ hnot) (by simp)
    · rw [if_neg hm]
      exact h.reclaim m
  · rw [hslot] at hy
    exact h.patched m y (hcases hy).2 hst

/-- d is c with slot n, to which nothing refers, out of both its lists. -/
structure Cache.Takes (c d : Cache) (n : SlotNo) : Prop where
  wf : Sparse.wf d.slots
  bound : ∀ p ∈ d.slots, p.1 < Config.slots
  slot : ∀ m, m ≠ n → d.slot m = c.slot m
  settled : ∀ x, c.slot n = some x → x.state = .valid
  next : d.freeNext ≤ Config.slots
  tail : d.freeTail.Nodup
  below : ∀ m ∈ d.freeTail, m.val < d.freeNext
  free : ∀ m, (m ∈ d.freeTail ∨ d.freeNext ≤ m.val) ↔ m ≠ n ∧ (m ∈ c.freeTail ∨ c.freeNext ≤ m.val)
  once : d.reclaim.Nodup
  reclaim : ∀ m, m ∈ d.reclaim ↔ m ≠ n ∧ m ∈ c.reclaim

theorem Cache.Sound.takeSlot {d : Cache} (h : c.Sound held) (ht : c.takeSlot = some (n, d)) : c.Takes d n ∧ n ∉ held := by
  unfold Cache.takeSlot at ht
  split at ht
  · rename_i hnext
    obtain ⟨hn, rfl⟩ := Prod.mk.inj (Option.some.inj ht)
    have hval : n.val = c.freeNext := (congrArg Fin.val hn).symm
    have hnone : c.slot n = none := (h.free n).mpr (.inr hval.ge)
    refine ⟨⟨h.wf, h.bound, fun _ _ => rfl, fun x hx => absurd (hnone.symm.trans hx) nofun, hnext, h.tail, fun m hm => Nat.lt_succ_of_lt (h.below m hm), fun m => ?_, h.once, fun m => ?_⟩,
      fun hheld => h.present n hheld hnone⟩
    · show m ∈ c.freeTail ∨ c.freeNext + 1 ≤ m.val ↔ _
      by_cases hm : m = n
      · have hbelow := h.below m
        refine iff_of_false (fun hor => hor.elim (fun hmem => ?_) fun hle => ?_) fun hand => hand.1 hm
        · have := hbelow hmem
          rw [hm] at this
          omega
        · rw [hm] at hle
          omega
      · have hne : m.val ≠ c.freeNext := fun he => hm (Fin.ext (he.trans hval.symm))
        rw [and_iff_right hm]
        exact or_congr Iff.rfl (by omega)
    · show m ∈ c.reclaim ↔ _
      refine ⟨fun hmem => ⟨fun he => ?_, hmem⟩, And.right⟩
      obtain ⟨x, hx, -⟩ := (h.reclaim m).mp hmem
      rw [he, hnone] at hx
      cases hx
  · rename_i hnext
    split at ht
    · rename_i m rest hcons
      obtain ⟨rfl, rfl⟩ := Prod.mk.inj (Option.some.inj ht)
      have hnodup := h.tail
      rw [hcons] at hnodup
      obtain ⟨hnot, hrest⟩ := List.nodup_cons.mp hnodup
      have hnone : c.slot m = none := (h.free m).mpr (.inl (by rw [hcons]; exact List.mem_cons_self))
      refine ⟨⟨h.wf, h.bound, fun _ _ => rfl, fun x hx => absurd (hnone.symm.trans hx) nofun, h.next, hrest, fun a ha => h.below a (by rw [hcons]; exact List.mem_cons_of_mem _ ha),
        fun a => ?_, h.once, fun a => ?_⟩, fun hheld => h.present m hheld hnone⟩
      · show a ∈ rest ∨ c.freeNext ≤ a.val ↔ _
        have hlt := a.isLt
        have hge : ¬ c.freeNext ≤ a.val := by omega
        rw [hcons]
        by_cases ha : a = m
        · refine iff_of_false (fun hor => hor.elim (fun hmem => hnot (ha ▸ hmem)) hge) fun hand => hand.1 ha
        · simp [ha]
      · show a ∈ c.reclaim ↔ _
        refine ⟨fun hmem => ⟨fun he => ?_, hmem⟩, And.right⟩
        obtain ⟨x, hx, -⟩ := (h.reclaim a).mp hmem
        rw [he, hnone] at hx
        cases hx
    · rename_i m rest hnil hcons
      obtain ⟨rfl, rfl⟩ := Prod.mk.inj (Option.some.inj ht)
      have hnodup := h.once
      rw [hcons] at hnodup
      obtain ⟨hnot, hrest⟩ := List.nodup_cons.mp hnodup
      obtain ⟨x, hx, hvalid, hzero⟩ := (h.reclaim m).mp (by rw [hcons]; exact List.mem_cons_self)
      have hfree : ¬ (m ∈ c.freeTail ∨ c.freeNext ≤ m.val) := fun hf => by
        rw [(h.free m).mpr hf] at hx
        cases hx
      refine ⟨⟨Sparse.erase_wf h.wf _, fun p hp => h.bound p (List.mem_filter.mp hp).1, fun a ha => ?_, fun y hy => ?_, h.next, h.tail,
        h.below, fun a => ?_, hrest, fun a => ?_⟩, fun hheld => ?_⟩
      · show Sparse.get (Sparse.erase c.slots m.val) a.val = _
        rw [Sparse.get_erase, if_neg fun he => ha (Fin.ext he.symm)]
        rfl
      · obtain rfl := Option.some.inj (hx.symm.trans hy)
        exact hvalid
      · exact ⟨fun hf => ⟨fun he => hfree (he ▸ hf), hf⟩, And.right⟩
      · show a ∈ rest ↔ _
        rw [hcons, List.mem_cons]
        exact ⟨fun hmem => ⟨fun he => hnot (he ▸ hmem), .inr hmem⟩, fun hand => hand.2.resolve_left hand.1⟩
      · have hcount := (h.refs m x hx).symm.trans hzero
        exact List.count_eq_zero.mp hcount hheld
    · cases ht

/-- A slot taken for a key that no slot carries, with one reference. -/
theorem Cache.Sound.put {d : Cache} {counts : CacheCounts} (h : c.Sound held) (ht : c.Takes d n) (hn : n ∉ held) (hone : x.refs = 1)
    (hfill : x.state = .filling) (hkey : ∀ m y, c.slot m = some y → y.zone = x.zone → y.k ≠ x.k) :
    Cache.Sound (n :: held) { d with slots := Sparse.put d.slots n.val x, counts := counts } := by
  have hslot : ∀ m, Cache.slot { d with slots := Sparse.put d.slots n.val x, counts := counts } m =
      if m = n then some x else c.slot m := fun m => by
    show Sparse.get (Sparse.put d.slots n.val x) m.val = _
    rw [Sparse.get_put]
    by_cases hm : m = n
    · rw [if_pos (congrArg Fin.val hm).symm, if_pos hm]
    · rw [if_neg fun he => hm (Fin.ext he.symm), if_neg hm, ← ht.slot m hm]
      rfl
  have hcases : ∀ {m y}, (if m = n then some x else c.slot m) = some y → (m = n ∧ y = x) ∨ (m ≠ n ∧ c.slot m = some y) :=
    fun {m y} hy => by
      split at hy
      · rename_i hm
        exact .inl ⟨hm, (Option.some.inj hy).symm⟩
      · rename_i hm
        exact .inr ⟨hm, hy⟩
  refine ⟨Sparse.put_wf ht.wf _ _, fun p hp => ?_, fun a b y z hy hz hzone hk => ?_, fun m y hy => ?_, fun m hm => ?_, ht.next, ht.tail,
    ht.below, fun m => ?_, ht.once, fun m => ?_, fun m y hy hst => ?_⟩
  · rcases Sparse.mem_put hp with rfl | hp
    · exact n.isLt
    · exact ht.bound p hp
  · rw [hslot] at hy hz
    obtain ⟨ha, rfl⟩ | ⟨-, hya⟩ := hcases hy
    · obtain ⟨hb, -⟩ | ⟨-, hzb⟩ := hcases hz
      · exact ha.trans hb.symm
      · exact absurd hk.symm (hkey b z hzb hzone.symm)
    · obtain ⟨-, rfl⟩ | ⟨-, hzb⟩ := hcases hz
      · exact absurd hk (hkey a y hya hzone)
      · exact h.keys _ _ _ _ hya hzb hzone hk
  · rw [hslot] at hy
    obtain ⟨rfl, rfl⟩ | ⟨hm, hym⟩ := hcases hy
    · rw [hone, List.count_cons_self, List.count_eq_zero.mpr hn]
    · rw [List.count_cons_of_ne (Ne.symm hm)]
      exact h.refs m y hym
  · rw [hslot]
    split
    · simp
    · rename_i hne
      exact h.present m ((List.mem_cons.mp hm).resolve_left hne)
  · rw [hslot]
    show _ ↔ m ∈ d.freeTail ∨ d.freeNext ≤ m.val
    rw [ht.free m]
    by_cases hm : m = n
    · rw [if_pos hm]
      exact iff_of_false (by simp) fun hand => hand.1 hm
    · rw [if_neg hm, h.free m]
      exact (and_iff_right hm).symm
  · rw [hslot]
    show m ∈ d.reclaim ↔ _
    rw [ht.reclaim m]
    by_cases hm : m = n
    · rw [if_pos hm]
      refine iff_of_false (fun hand => hand.1 hm) ?_
      rintro ⟨y, hy, hv, -⟩
      obtain rfl := Option.some.inj hy
      rw [hfill] at hv
      cases hv
    · rw [if_neg hm, ← h.reclaim m]
      exact and_iff_right hm
  · rw [hslot] at hy
    obtain ⟨-, rfl⟩ | ⟨-, hym⟩ := hcases hy
    · rw [hone]
      exact Nat.one_ne_zero
    · exact h.patched m y hym hst

end

end Sys2Proof.Machine


/-! SUPPORT. The channel queues' law with fetches out of their queue: taken by OFFLINE or by a third page and not yet finished, or
requested and not yet queued (R115 to R118, R120, R123 to R126). -/

namespace Sys2Proof.Machine

/-- The references to a FILLING slot; none for a slot in another state. -/
def Cache.filling (c : Cache) (n : SlotNo) : Option Nat :=
  (c.slot n).bind fun x => if x.state = .filling then some x.refs else none

theorem filling_eq_some {c : Cache} {n : SlotNo} {r : Nat} :
    c.filling n = some r ↔ ∃ x, c.slot n = some x ∧ x.state = .filling ∧ x.refs = r := by
  unfold Cache.filling
  cases c.slot n with
  | none => simp
  | some x => simp

/-- The queues agree with the references to FILLING slots, the slots of `loose` having their fetch in no queue. -/
structure Queues (filling : SlotNo → Option Nat) (chan : ChannelNo → Channel) (loose : List SlotNo) : Prop where
  fetch : ∀ c, ∀ f ∈ (chan c).queue, channelOf f.block = c ∧ f.pagesDone < 3
    ∧ ∃ r, filling f.slot = some r ∧ (f.cancelPending = true → r = 0)
  nodup : ∀ c, ((chan c).queue.map Fetch.slot).Nodup
  once : ∀ c d, ∀ f ∈ (chan c).queue, ∀ g ∈ (chan d).queue, f.slot = g.slot → c = d
  distinct : loose.Nodup
  apart : ∀ n ∈ loose, filling n ≠ none ∧ ∀ c, ∀ f ∈ (chan c).queue, f.slot ≠ n
  found : ∀ n, filling n ≠ none → (∃ c, ∃ f ∈ (chan c).queue, f.slot = n) ∨ n ∈ loose
  op : ∀ c n issued, (chan c).op = some { kind := .fetchPage n, issued := issued } → ∃ f ∈ (chan c).queue, f.slot = n
  partials : ∀ c, (chan c).partials.length ≤ 4 ∧ ((chan c).beginning → (chan c).partials.length ≤ 3)

/-- The channels, one of them changed. -/
structure OneChannel (chan other : ChannelNo → Channel) (c : ChannelNo) (k : Channel) : Prop where
  self : other c = k
  others : ∀ d, d ≠ c → other d = chan d

theorem oneChannel_updChan (s : State) (c : ChannelNo) (f : Channel → Channel) :
    OneChannel s.chan (s.updChan c f).chan c (f (s.chan c)) :=
  ⟨chan_updChan_self s c f, fun _ hd => chan_updChan_other s hd f⟩

section
variable {filling other : SlotNo → Option Nat} {chan chan' : ChannelNo → Channel} {loose : List SlotNo} {c : ChannelNo} {k : Channel}
  {n : SlotNo} {f : Fetch}

/-- The references to a FILLING slot changed, or to slots in other states. -/
theorem Queues.recount (h : Queues filling chan loose) (hnone : ∀ m, other m = none ↔ filling m = none)
    (hcancel : ∀ c, ∀ f ∈ (chan c).queue, f.cancelPending = true → other f.slot = some 0) : Queues other chan loose :=
  { h with
    fetch := fun c f hf => by
      obtain ⟨hblock, hpages, r, hr, -⟩ := h.fetch c f hf
      obtain ⟨q, hq⟩ : ∃ q, other f.slot = some q := Option.ne_none_iff_exists'.mp fun hn => by
        rw [(hnone _).mp hn] at hr
        cases hr
      exact ⟨hblock, hpages, q, hq, fun hc => Option.some.inj (hq.symm.trans (hcancel c f hf hc))⟩
    apart := fun m hm => ⟨fun hn => (h.apart m hm).1 ((hnone m).mp hn), (h.apart m hm).2⟩
    found := fun m hm => h.found m fun hn => hm ((hnone m).mpr hn) }

/-- A fetch out of its queue is finished: its slot is no longer FILLING. -/
theorem Queues.finish (h : Queues filling chan (n :: loose)) (hn : other n = none) (hother : ∀ m, m ≠ n → other m = filling m) :
    Queues other chan loose := by
  obtain ⟨hnot, hdistinct⟩ := List.nodup_cons.mp h.distinct
  have hqueue : ∀ c, ∀ f ∈ (chan c).queue, f.slot ≠ n := (h.apart n List.mem_cons_self).2
  refine { h with fetch := fun c f hf => ?_, distinct := hdistinct, apart := fun m hm => ?_, found := fun m hm => ?_ }
  · rw [hother _ (hqueue c f hf)]
    exact h.fetch c f hf
  · have hne : m ≠ n := fun he => hnot (he ▸ hm)
    rw [hother m hne]
    exact h.apart m (List.mem_cons_of_mem _ hm)
  · have hne : m ≠ n := fun he => hm (he ▸ hn)
    rw [hother m hne] at hm
    exact (h.found m hm).imp_right fun hl => (List.mem_cons.mp hl).resolve_left hne

/-- A slot becomes FILLING, its fetch to be queued. -/
theorem Queues.start (h : Queues filling chan loose) (hn : filling n = none) (hs : other n ≠ none)
    (hother : ∀ m, m ≠ n → other m = filling m) : Queues other chan (n :: loose) := by
  have hqueue : ∀ c, ∀ f ∈ (chan c).queue, f.slot ≠ n := fun c f hf he => by
    obtain ⟨-, -, r, hr, -⟩ := h.fetch c f hf
    rw [he, hn] at hr
    cases hr
  have hloose : n ∉ loose := fun hm => (h.apart n hm).1 hn
  refine { h with
    fetch := fun c f hf => ?_, distinct := List.nodup_cons.mpr ⟨hloose, h.distinct⟩, apart := fun m hm => ?_, found := fun m hm => ?_ }
  · rw [hother _ (hqueue c f hf)]
    exact h.fetch c f hf
  · rcases List.mem_cons.mp hm with rfl | hm
    · exact ⟨hs, hqueue⟩
    · rw [hother m fun he => hloose (he ▸ hm)]
      exact h.apart m hm
  · by_cases hne : m = n
    · exact .inr (hne ▸ List.mem_cons_self)
    · rw [hother m hne] at hm
      exact (h.found m hm).imp_right (List.mem_cons_of_mem _)

/-- One channel's queue changed, and the fetches out of their queue with it: between them the slots stay. -/
theorem Queues.channel {more : List SlotNo} (h : Queues filling chan loose) (hk : OneChannel chan chan' c k)
    (hslots : ((chan c).queue.map Fetch.slot ++ loose).Perm (k.queue.map Fetch.slot ++ more))
    (hfetch : ∀ f ∈ k.queue, channelOf f.block = c ∧ f.pagesDone < 3 ∧ (f.cancelPending = true → filling f.slot = some 0))
    (hop : ∀ n issued, k.op = some { kind := .fetchPage n, issued := issued } → ∃ f ∈ k.queue, f.slot = n)
    (hpart : k.partials.length ≤ 4 ∧ (k.beginning → k.partials.length ≤ 3)) : Queues filling chan' more := by
  have hall : (∀ n ∈ (chan c).queue.map Fetch.slot ++ loose, filling n ≠ none) := fun n hn => by
    rcases List.mem_append.mp hn with hq | hl
    · obtain ⟨f, hf, rfl⟩ := List.mem_map.mp hq
      obtain ⟨-, -, r, hr, -⟩ := h.fetch c f hf
      rw [hr]
      simp
    · exact (h.apart n hl).1
  have hnodup : ((chan c).queue.map Fetch.slot ++ loose).Nodup :=
    List.nodup_append.mpr ⟨h.nodup c, h.distinct, fun a ha b hb hab => by
      obtain ⟨f, hf, rfl⟩ := List.mem_map.mp ha
      exact (h.apart b hb).2 c f hf hab⟩
  have hnew := hslots.nodup_iff.mp hnodup
  obtain ⟨hkq, hmore, hdisj⟩ := List.nodup_append.mp hnew
  -- a fetch of another channel has none of these slots
  have hfar : ∀ d, d ≠ c → ∀ f ∈ (chan d).queue, f.slot ∉ k.queue.map Fetch.slot ++ more := fun d hd f hf hm => by
    rcases List.mem_append.mp (hslots.symm.subset hm) with hq | hl
    · obtain ⟨g, hg, hgs⟩ := List.mem_map.mp hq
      exact hd (h.once d c f hf g hg hgs.symm)
    · exact (h.apart _ hl).2 d f hf rfl
  have hchan : ∀ d, (chan' d = k ∧ d = c) ∨ (chan' d = chan d ∧ d ≠ c) := fun d => by
    by_cases hd : d = c
    · exact .inl ⟨hd ▸ hk.self, hd⟩
    · exact .inr ⟨hk.others d hd, hd⟩
  refine ⟨fun d f hf => ?_, fun d => ?_, fun d e f hf g hg hfg => ?_, hmore, fun m hm => ⟨?_, fun d f hf => ?_⟩, fun m hm => ?_,
    fun d m issued hm => ?_, fun d => ?_⟩
  · rcases hchan d with ⟨he, rfl⟩ | ⟨he, -⟩
    · rw [he] at hf
      obtain ⟨hblock, hpages, hcancel⟩ := hfetch f hf
      obtain ⟨r, hr⟩ := Option.ne_none_iff_exists'.mp (hall f.slot (hslots.symm.subset
        (List.mem_append_left _ (List.mem_map_of_mem hf))))
      exact ⟨hblock, hpages, r, hr, fun hc => Option.some.inj (hr.symm.trans (hcancel hc))⟩
    · rw [he] at hf
      exact h.fetch d f hf
  · rcases hchan d with ⟨he, -⟩ | ⟨he, -⟩
    · rw [he]
      exact hkq
    · rw [he]
      exact h.nodup d
  · rcases hchan d with ⟨hd, rfl⟩ | ⟨hd, hdc⟩ <;> rcases hchan e with ⟨he, hec⟩ | ⟨he, hec⟩
    · exact hec.symm
    · rw [hd] at hf
      rw [he] at hg
      exact absurd (List.mem_append_left _ (hfg ▸ List.mem_map_of_mem hf)) (hfar e hec g hg)
    · rw [hd] at hf
      rw [he] at hg
      exact absurd (List.mem_append_left _ (hfg ▸ List.mem_map_of_mem hg)) (hfar d hdc f hf)
    · rw [hd] at hf
      rw [he] at hg
      exact h.once d e f hf g hg hfg
  · exact hall m (hslots.symm.subset (List.mem_append_right _ hm))
  · rcases hchan d with ⟨he, -⟩ | ⟨he, hdc⟩
    · rw [he] at hf
      exact fun hfm => hdisj _ (List.mem_map_of_mem hf) _ hm hfm
    · rw [he] at hf
      exact fun hfm => hfar d hdc f hf (hfm ▸ List.mem_append_right _ hm)
  · rcases h.found m hm with ⟨d, f, hf, hfm⟩ | hl
    · by_cases hd : d = c
      · have hmem : m ∈ k.queue.map Fetch.slot ++ more := hslots.subset (List.mem_append_left _ (hfm ▸ List.mem_map_of_mem (hd ▸ hf)))
        rcases List.mem_append.mp hmem with hq | hr
        · obtain ⟨g, hg, hgm⟩ := List.mem_map.mp hq
          exact .inl ⟨c, g, hk.self ▸ hg, hgm⟩
        · exact .inr hr
      · exact .inl ⟨d, f, (hk.others d hd).symm ▸ hf, hfm⟩
    · rcases List.mem_append.mp (hslots.subset (List.mem_append_right _ hl)) with hq | hr
      · obtain ⟨g, hg, hgm⟩ := List.mem_map.mp hq
        exact .inl ⟨c, g, hk.self ▸ hg, hgm⟩
      · exact .inr hr
  · rcases hchan d with ⟨he, -⟩ | ⟨he, -⟩
    · rw [he] at hm ⊢
      exact hop m issued hm
    · rw [he] at hm ⊢
      exact h.op d m issued hm
  · rcases hchan d with ⟨he, -⟩ | ⟨he, -⟩
    · rw [he]
      exact hpart
    · rw [he]
      exact h.partials d

end

end Sys2Proof.Machine


/-! SUPPORT. The agreement of cache, windows and queues, with references and fetches in transit, and the laws it stands for
(R97 to R100, R103, R115 to R118, R120, R125). -/

namespace Sys2Proof.Machine

/-- The slots a window refers to, once for each entry. -/
def Context.slots (c : Context) : List SlotNo := c.window.filterMap Entry.slot

/-- The slots all windows refer to, once for each entry. -/
def State.references (s : State) : List SlotNo := s.streams.contexts.flatMap fun p => p.2.slots

/-- The cache agrees with the windows and the references `held`, and the queues with the cache but for the slots of `loose`. -/
structure State.Sound (held loose : List SlotNo) (s : State) : Prop where
  wf : Sparse.wf s.streams.contexts
  bound : ∀ p ∈ s.streams.contexts, p.1 < Config.contexts
  spent : ∀ p ∈ s.streams.contexts, p.2.state = .spent → p.2.window = []
  cache : s.cache.Sound (held ++ s.references)
  queues : Queues s.cache.filling s.chan loose

section
variable {s t : State} {held loose : List SlotNo}

theorem refsTo_eq (n : SlotNo) : s.refsTo n.val = s.references.count n := by
  unfold State.refsTo State.references
  rw [List.count_flatMap]
  refine congrArg List.sum (List.map_congr_left fun p _ => ?_)
  rw [Function.comp, Context.slots, List.count_filterMap, List.countP_eq_length_filter]
  refine congrArg List.length (List.filter_congr fun e _ => ?_)
  cases e.slot with
  | none => rfl
  | some m =>
    rw [Bool.eq_iff_iff]
    simp [Fin.ext_iff]

theorem mem_references {n : SlotNo} :
    n ∈ s.references ↔ ∃ p ∈ s.streams.contexts, ∃ e ∈ p.2.window, e.slot = some n := by
  simp [State.references, Context.slots]

/-- The laws of a state, as one agreement. -/
theorem sound_of_laws (ht : s.TableLaw) (hc : s.CacheLaw) (hf : s.FetchLaw) : s.Sound [] [] := by
  obtain ⟨hctx, hbound, hslots, hslotBound⟩ := ht
  obtain ⟨hkeys, hrefs, hpresent, hnext, htail, hbelow, hfree, honce, hreclaim, hpatched, hspent⟩ := hc
  obtain ⟨hfetch, hnodup, hone, hfound, hop, hpart⟩ := hf
  have hmem : ∀ {n : SlotNo} {x}, s.cache.slot n = some x → (n.val, x) ∈ s.cache.slots := fun h => Sparse.mem_of_get h
  refine ⟨hctx, hbound, hspent, ⟨hslots, hslotBound, fun n m x y hx hy hz hk => ?_, fun n x hx => ?_, fun n hn => ?_, hnext, htail, hbelow,
    hfree, honce, hreclaim, fun n x hx => hpatched _ (hmem hx)⟩, ⟨fun c f hq => ?_, hnodup, hone, List.nodup_nil, by simp, fun n hn => ?_, hop,
      hpart⟩⟩
  · have := List.inj_on_of_nodup_map hkeys (hmem hx) (hmem hy) (by dsimp only; rw [hz, hk])
    exact Fin.ext (congrArg Prod.fst this)
  · exact (hrefs _ (hmem hx)).trans (refsTo_eq n)
  · obtain ⟨p, hp, e, he, hen⟩ := mem_references.mp hn
    exact hpresent p hp e he n hen
  · obtain ⟨hblock, hpages, x, hx, hfill, hcancel⟩ := hfetch c f hq
    exact ⟨hblock, hpages, x.refs, filling_eq_some.mpr ⟨x, hx, hfill, rfl⟩, hcancel⟩
  · obtain ⟨r, hr⟩ := Option.ne_none_iff_exists'.mp hn
    obtain ⟨x, hx, hfill, -⟩ := filling_eq_some.mp hr
    exact .inl (hfound n x hx hfill)

theorem State.Sound.cacheLaw (h : s.Sound [] []) : s.CacheLaw := by
  have hc := h.cache
  have hget : ∀ p ∈ s.cache.slots, ∃ hp : p.1 < 262144, s.cache.slot ⟨p.1, hp⟩ = some p.2 := fun p hp =>
    ⟨hc.bound p hp, (Sparse.get_eq_some_iff hc.wf).mpr hp⟩
  have hslots : s.cache.slots.Nodup := List.Pairwise.imp (fun hlt he => absurd (congrArg Prod.fst he) (Nat.ne_of_lt hlt)) hc.wf
  refine ⟨hslots.map_on fun p hp q hq hpq => ?_, fun p hp => ?_, fun p hp e he n hen => ?_, hc.next, hc.tail, hc.below, hc.free, hc.once,
    hc.reclaim, fun p hp => ?_, h.spent⟩
  · obtain ⟨hpn, hpx⟩ := hget p hp
    obtain ⟨hqn, hqx⟩ := hget q hq
    obtain ⟨hz, hk⟩ := Prod.mk.inj hpq
    have hn := congrArg Fin.val (hc.keys _ _ _ _ hpx hqx hz hk)
    have hn' : p.1 = q.1 := hn
    have hx : p.2 = q.2 := Option.some.inj (hpx.symm.trans ((congrArg (Sparse.get s.cache.slots) hn').trans hqx))
    exact Prod.ext hn' hx
  · obtain ⟨hpn, hpx⟩ := hget p hp
    exact (hc.refs _ _ hpx).trans (refsTo_eq ⟨p.1, hpn⟩).symm
  · exact hc.present n (mem_references.mpr ⟨p, hp, e, he, hen⟩)
  · obtain ⟨hpn, hpx⟩ := hget p hp
    exact hc.patched _ _ hpx

theorem State.Sound.fetchLaw (h : s.Sound [] []) : s.FetchLaw := by
  have hq := h.queues
  refine ⟨fun c f hf => ?_, hq.nodup, hq.once, fun n x hx hfill => ?_, hq.op, hq.partials⟩
  · obtain ⟨hblock, hpages, r, hr, hcancel⟩ := hq.fetch c f hf
    obtain ⟨x, hx, hfill, hrefs⟩ := filling_eq_some.mp hr
    exact ⟨hblock, hpages, x, hx, hfill, fun hc => hrefs.trans (hcancel hc)⟩
  · refine (hq.found n ?_).resolve_right List.not_mem_nil
    rw [filling_eq_some.mpr ⟨x, hx, hfill, rfl⟩]
    simp

/-- What it does not speak of may change: the counts, the other blocks, the bytes of the DRAM. -/
theorem State.Sound.same (h : s.Sound held loose) (hctx : t.streams.contexts = s.streams.contexts)
    (hslots : t.cache.slots = s.cache.slots) (hnext : t.cache.freeNext = s.cache.freeNext)
    (htail : t.cache.freeTail = s.cache.freeTail) (hreclaim : t.cache.reclaim = s.cache.reclaim) (hfetch : t.fetch = s.fetch) :
    t.Sound held loose := by
  have hrefs : t.references = s.references := by rw [State.references, State.references, hctx]
  have hfilling : t.cache.filling = s.cache.filling := by
    funext n
    rw [Cache.filling, Cache.filling, Cache.slot, Cache.slot, hslots]
  have hchan : t.chan = s.chan := by
    funext c
    rw [State.chan, State.chan, hfetch]
  refine ⟨hctx ▸ h.wf, hctx ▸ h.bound, hctx ▸ h.spent, ?_, ?_⟩
  · rw [hrefs]
    exact h.cache.same hslots hnext htail hreclaim
  · rw [hfilling, hchan]
    exact h.queues

/-- The other blocks may change. -/
theorem State.Sound.of_eq (h : s.Sound held loose) (hctx : t.streams.contexts = s.streams.contexts) (hcache : t.cache = s.cache)
    (hfetch : t.fetch = s.fetch) : t.Sound held loose :=
  h.same hctx (congrArg Cache.slots hcache) (congrArg Cache.freeNext hcache) (congrArg Cache.freeTail hcache)
    (congrArg Cache.reclaim hcache) hfetch

end

/-! ### The contexts -/

section
variable {s : State} {held other loose : List SlotNo} {i : Nat} {c : Context}

/-- A table with the record at one number apart. -/
theorem Sparse.split {α : Type} {m : List (Nat × α)} (hm : Sparse.wf m) {i : Nat} {a : α} (h : Sparse.get m i = some a) :
    ∃ front back, m = front ++ (i, a) :: back ∧ (∀ f, Sparse.modify m i f = front ++ (i, f a) :: back)
      ∧ Sparse.erase m i = front ++ back := by
  obtain ⟨front, back, hsplit⟩ := List.append_of_mem (Sparse.mem_of_get h)
  have hne : ∀ p ∈ front ++ back, p.1 ≠ i := by
    rw [hsplit, Sparse.wf, List.pairwise_append, List.pairwise_cons] at hm
    obtain ⟨-, ⟨hback, -⟩, hfront⟩ := hm
    intro p hp
    rcases List.mem_append.mp hp with hp | hp
    · exact Nat.ne_of_lt (hfront p hp _ List.mem_cons_self)
    · exact (Nat.ne_of_lt (hback p hp)).symm
  have hfront : ∀ p ∈ front, p.1 ≠ i := fun p hp => hne p (List.mem_append_left _ hp)
  have hback : ∀ p ∈ back, p.1 ≠ i := fun p hp => hne p (List.mem_append_right _ hp)
  refine ⟨front, back, hsplit, fun f => ?_, ?_⟩
  · have hid : ∀ l : List (Nat × α), (∀ p ∈ l, p.1 ≠ i) → (l.map fun p => if p.1 = i then (p.1, f p.2) else p) = l := fun l hl =>
      (List.map_congr_left fun p hp => if_neg (hl p hp)).trans (List.map_id _)
    rw [hsplit, Sparse.modify, List.map_append, List.map_cons, if_pos rfl, hid front hfront, hid back hback]
  · have hid : ∀ l : List (Nat × α), (∀ p ∈ l, p.1 ≠ i) → l.filter (fun p => p.1 != i) = l := fun l hl =>
      List.filter_eq_self.mpr fun p hp => by simpa using hl p hp
    rw [hsplit, Sparse.erase, List.filter_append, List.filter_cons_of_neg (by simp), hid front hfront, hid back hback]

/-- A context changed: the references its window loses or takes are those that come to be held or cease to be. -/
theorem State.Sound.updCtx {f : Context → Context} (h : s.Sound held loose) (hc : s.ctx? i = some c)
    (hslots : (held ++ c.slots).Perm (other ++ (f c).slots)) (hspent : (f c).state = .spent → (f c).window = []) :
    (s.updCtx i f).Sound other loose := by
  obtain ⟨front, back, hsplit, hmod, -⟩ := Sparse.split h.wf hc
  have hctx : (s.updCtx i f).streams.contexts = front ++ (i, f c) :: back := hmod f
  refine ⟨Sparse.modify_wf h.wf _ _, fun p hp => ?_, fun p hp => ?_, h.cache.perm ?_, h.queues⟩
  · obtain ⟨q, hq, rfl⟩ := List.mem_map.mp hp
    have := h.bound q hq
    split <;> exact this
  · rw [hctx] at hp
    have hold : ∀ q ∈ front ++ back, q.2.state = .spent → q.2.window = [] := fun q hq => h.spent q (by
      rw [hsplit]
      rcases List.mem_append.mp hq with hq | hq
      · exact List.mem_append_left _ hq
      · exact List.mem_append_right _ (List.mem_cons_of_mem _ hq))
    rcases List.mem_append.mp hp with hp | hp
    · exact hold p (List.mem_append_left _ hp)
    · rcases List.mem_cons.mp hp with rfl | hp
      · exact hspent
      · exact hold p (List.mem_append_right _ hp)
  · have hfree : ∀ d : Context, (front ++ (i, d) :: back).flatMap (fun p => p.2.slots) =
        (front.flatMap fun p => p.2.slots) ++ (d.slots ++ back.flatMap fun p => p.2.slots) := fun d => by
      rw [List.flatMap_append, List.flatMap_cons]
    rw [State.references, State.references, hctx, hsplit, hfree, hfree]
    generalize front.flatMap (fun p => p.2.slots) = a at *
    generalize back.flatMap (fun p => p.2.slots) = b at *
    have hmove : ∀ x y : List SlotNo, (x ++ (a ++ (y ++ b))).Perm ((x ++ y) ++ (a ++ b)) := fun x y => by
      rw [List.append_assoc]
      refine List.Perm.append_left x ?_
      rw [← List.append_assoc, ← List.append_assoc]
      exact List.perm_append_comm.append_right b
    exact (hmove _ _).trans ((hslots.append_right _).trans (hmove _ _).symm)

/-- A context whose window is empty freed. -/
theorem State.Sound.freeCtx {d : Context} (h : s.Sound held loose) (hw : ∀ c, s.ctx? i = some c → c.window = []) :
    (s.freeCtx i d).Sound held loose := by
  have hrefs : (s.freeCtx i d).references = s.references := by
    cases hc : s.ctx? i with
    | none =>
      have hid : Sparse.erase s.streams.contexts i = s.streams.contexts := List.filter_eq_self.mpr fun p hp => by
        have hne : p.1 ≠ i := fun he => by
          rw [State.ctx?, ← he, (Sparse.get_eq_some_iff h.wf).mpr hp] at hc
          cases hc
        simpa using hne
      show (Sparse.erase s.streams.contexts i).flatMap _ = _
      rw [hid]
      rfl
    | some c =>
      obtain ⟨front, back, hsplit, -, herase⟩ := Sparse.split h.wf hc
      show (Sparse.erase s.streams.contexts i).flatMap _ = _
      have hnone : c.slots = [] := by rw [Context.slots, hw c hc]; rfl
      rw [herase, State.references, hsplit, List.flatMap_append, List.flatMap_append, List.flatMap_cons, hnone]
      rfl
  refine ⟨Sparse.erase_wf h.wf _, fun p hp => h.bound p (List.mem_filter.mp hp).1, fun p hp => h.spent p (List.mem_filter.mp hp).1, ?_,
    h.queues⟩
  rw [hrefs]
  exact h.cache

theorem perm_put {m : List (Nat × Context)} (hfree : Sparse.get m i = none) (c : Context) : (Sparse.put m i c).Perm ((i, c) :: m) := by
  induction m with
  | nil => exact .refl _
  | cons p rest ih =>
    obtain ⟨j, b⟩ := p
    have hji : ¬ j = i := fun he => by simp [Sparse.get, he] at hfree
    have hrest : Sparse.get rest i = none := by simpa [Sparse.get, hji] using hfree
    unfold Sparse.put
    split
    · exact .refl _
    · rw [if_neg fun he => hji he.symm]
      exact ((ih hrest).cons _).trans (.swap _ _ _)

/-- A context with an empty window put where none stands. -/
theorem State.Sound.putCtx (h : s.Sound held loose) (hi : i < Config.contexts) (hfree : s.ctx? i = none) (hw : c.window = []) :
    (s.putCtx i c).Sound held loose := by
  have hperm := perm_put (i := i) hfree c
  refine ⟨Sparse.put_wf h.wf _ _, fun p hp => ?_, fun p hp => ?_, ?_, h.queues⟩
  · rcases List.mem_cons.mp (hperm.subset hp) with rfl | hp
    · exact hi
    · exact h.bound p hp
  · rcases List.mem_cons.mp (hperm.subset hp) with rfl | hp
    · exact fun _ => hw
    · exact h.spent p hp
  · have hnone : c.slots = [] := by rw [Context.slots, hw]; rfl
    have hrefs : (s.putCtx i c).references.Perm s.references := by
      have := hperm.flatMap_right fun p : Nat × Context => p.2.slots
      rw [List.flatMap_cons, hnone] at this
      exact this
    exact h.cache.perm (hrefs.symm.append_left held)

end

end Sys2Proof.Machine


/-! SUPPORT. A reference released, and the cancellation of a fetch, keep the agreement (R109, R110, R125). -/

namespace Sys2Proof.Machine

/-! ### Slots -/

section
variable {s : State} {held other loose more : List SlotNo} {n : SlotNo} {x : Slot}

theorem filling_updSlot (g : Slot → Slot) (hx : s.slot? n = some x) (m : SlotNo) : (s.updSlot n g).cache.filling m =
    if m = n then (if (g x).state = .filling then some (g x).refs else none) else s.cache.filling m := by
  have hslot : (s.updSlot n g).cache.slot m = if m = n then some (g x) else s.cache.slot m := by
    show Sparse.get (Sparse.modify s.cache.slots n.val g) m.val = _
    rw [Sparse.get_modify]
    by_cases hm : m = n
    · rw [if_pos (congrArg Fin.val hm).symm, if_pos hm, show Sparse.get s.cache.slots m.val = some x from hm ▸ hx, Option.map_some]
    · rw [if_neg fun he => hm (Fin.ext he.symm), if_neg hm]
      rfl
  rw [Cache.filling, hslot]
  split
  · rfl
  · rfl

theorem filling_emptySlot (m : SlotNo) : (s.emptySlot n).cache.filling m = if m = n then none else s.cache.filling m := by
  have hslot : (s.emptySlot n).cache.slot m = if m = n then none else s.cache.slot m := by
    show Sparse.get (Sparse.erase s.cache.slots n.val) m.val = _
    rw [Sparse.get_erase]
    by_cases hm : m = n
    · rw [if_pos (congrArg Fin.val hm).symm, if_pos hm]
    · rw [if_neg fun he => hm (Fin.ext he.symm), if_neg hm]
      rfl
  rw [Cache.filling, hslot]
  split
  · rfl
  · rfl

theorem filling_of (hx : s.slot? n = some x) : s.cache.filling n = if x.state = .filling then some x.refs else none := by
  rw [Cache.filling, show s.cache.slot n = some x from hx]
  rfl

/-- A slot whose state, key and count stay. -/
theorem State.Sound.updSlot {g : Slot → Slot} (h : s.Sound held loose)
    (hg : ∀ x, (g x).state = x.state ∧ (g x).zone = x.zone ∧ (g x).k = x.k ∧ (g x).refs = x.refs) : (s.updSlot n g).Sound held loose := by
  cases hx : s.slot? n with
  | none =>
    have hid : Sparse.modify s.cache.slots n.val g = s.cache.slots := by
      refine (List.map_congr_left fun p hp => ?_).trans (List.map_id _)
      refine if_neg fun he => ?_
      have := (Sparse.get_eq_some_iff h.cache.wf).mpr hp
      rw [he, show Sparse.get s.cache.slots n.val = none from hx] at this
      cases this
    exact h.same rfl hid rfl rfl rfl rfl
  | some x =>
    obtain ⟨hst, hz, hk, hr⟩ := hg x
    refine { h with cache := ?_, queues := ?_ }
    · refine h.cache.modify (reclaim := s.cache.reclaim) (counts := s.cache.counts) hx hz hk (fun _ _ => rfl) ?_ h.cache.once (fun m => ?_)
        fun hp => ?_
      · rw [hr]
        exact h.cache.refs n x hx
      · rw [hst, hr]
        by_cases hm : m = n
        · simp only [hm, ne_eq, not_true_eq_false, false_and, true_and, false_or]
          rw [h.cache.reclaim n]
          refine ⟨?_, fun hv => ⟨x, hx, hv⟩⟩
          rintro ⟨y, hy, hv⟩
          obtain rfl := Option.some.inj (hx.symm.trans hy)
          exact hv
        · simp [hm]
      · rw [hr]
        exact h.cache.patched n x hx (hst ▸ hp)
    · have hsame : (s.updSlot n g).cache.filling = s.cache.filling := by
        funext m
        rw [filling_updSlot g hx]
        split
        · rename_i hm
          rw [hm, filling_of hx, hst, hr]
        · rfl
      rw [hsame]
      exact h.queues

/-- The slot of a fetch out of its queue, with no reference, emptied. -/
theorem State.Sound.emptyLoose (h : s.Sound held (n :: loose)) (hn : s.cache.filling n = some 0) : (s.emptySlot n).Sound held loose := by
  obtain ⟨x, hx, hfill, hzero⟩ := filling_eq_some.mp hn
  refine { h with cache := ?_, queues := ?_ }
  · have hcount := (h.cache.refs n x hx).symm.trans hzero
    refine h.cache.empty (counts := s.cache.counts) hx (fun _ _ => rfl) (List.count_eq_zero.mp hcount) fun hm => ?_
    obtain ⟨y, hy, hv, -⟩ := (h.cache.reclaim n).mp hm
    obtain rfl := Option.some.inj (hx.symm.trans hy)
    rw [hfill] at hv
    cases hv
  · refine h.queues.finish ?_ fun m hm => ?_
    · rw [filling_emptySlot, if_pos rfl]
    · rw [filling_emptySlot, if_neg hm]

/-- A reference gone of a slot that does not leave its state for it. -/
theorem State.Sound.uncount (h : s.Sound (n :: held) loose) (hx : s.slot? n = some x)
    (hstay : x.state = .filling ∨ 1 < x.refs) : (s.updSlot n fun x => { x with refs := x.refs - 1 }).Sound held loose := by
  have hrefs : x.refs = (held ++ s.references).count n + 1 := by
    rw [h.cache.refs n x hx, List.cons_append, List.count_cons_self]
  refine { h with cache := ?_, queues := ?_ }
  · refine h.cache.modify (g := fun x => { x with refs := x.refs - 1 }) (reclaim := s.cache.reclaim) (counts := s.cache.counts) hx rfl rfl
      (fun m hm => ?_) ?_ h.cache.once (fun m => ?_) fun hp => ?_
    · rw [List.cons_append, List.count_cons_of_ne (Ne.symm hm)]
      rfl
    · show x.refs - 1 = _
      rw [hrefs]
      rfl
    · by_cases hm : m = n
      · simp only [hm, ne_eq, not_true_eq_false, false_and, true_and, false_or]
        refine iff_of_false (fun hmem => ?_) fun hv => ?_
        · obtain ⟨y, hy, -, hzero⟩ := (h.cache.reclaim n).mp hmem
          obtain rfl := Option.some.inj (hx.symm.trans hy)
          omega
        · obtain ⟨hv, hzero⟩ := hv
          refine hstay.elim (fun hf => ?_) fun hr => by omega
          rw [hf] at hv
          cases hv
      · simp [hm]
    · show x.refs - 1 ≠ 0
      refine hstay.elim (fun hf => ?_) fun hr => by omega
      rw [show x.state = .patched from hp] at hf
      cases hf
  · refine h.queues.recount (fun m => ?_) fun c f hf hcancel => ?_
    · rw [filling_updSlot _ hx]
      by_cases hm : m = n
      · rw [if_pos hm, hm, filling_of hx]
        split <;> simp
      · rw [if_neg hm]
    · obtain ⟨-, -, r, hr, hzero⟩ := h.queues.fetch c f hf
      rw [filling_updSlot _ hx]
      by_cases hm : f.slot = n
      · rw [hm, filling_of hx] at hr
        split at hr
        · have := hzero hcancel
          have hxr := Option.some.inj hr
          omega
        · cases hr
      · rw [if_neg hm, hr, hzero hcancel]

end

/-! ### Channels -/

section
variable {s : State} {held loose : List SlotNo} {n : SlotNo} {c : ChannelNo} {f : Channel → Channel}

/-- A channel whose queue stays and whose operation stays or is not the reading of a fetch's page. -/
theorem State.Sound.updChan (h : s.Sound held loose) (hq : (f (s.chan c)).queue = (s.chan c).queue)
    (hop : (f (s.chan c)).op = (s.chan c).op ∨ ∀ n issued, (f (s.chan c)).op ≠ some { kind := .fetchPage n, issued := issued }) :
    (s.updChan c f).Sound held loose := by
  have hpart : (f (s.chan c)).partials = (s.chan c).partials := by rw [Channel.partials, Channel.partials, hq]
  refine { h with queues := h.queues.channel (oneChannel_updChan s c f) (hq ▸ .refl _) (fun g hg => ?_) (fun m issued hm => ?_)
                    ⟨hpart ▸ (h.queues.partials c).1, fun hb => ?_⟩ }
  · rw [hq] at hg
    obtain ⟨hblock, hpages, r, hr, hcancel⟩ := h.queues.fetch c g hg
    exact ⟨hblock, hpages, fun hc => hr.trans (congrArg some (hcancel hc))⟩
  · rw [hq]
    rcases hop with he | hn
    · exact h.queues.op c m issued (he ▸ hm)
    · exact absurd hm (hn m issued)
  · rw [hpart]
    obtain ⟨op, g, ho, hkind, hg, hzero⟩ := hb
    rcases hop with he | hn
    · exact (h.queues.partials c).2 ⟨op, g, he ▸ ho, hkind, hq ▸ hg, hzero⟩
    · refine absurd ho ?_
      obtain ⟨kind, issued⟩ := op
      rw [show kind = .fetchPage g.slot from hkind]
      exact hn _ _

theorem State.Sound.countChan {f : ChannelCounts → ChannelCounts} (h : s.Sound held loose) : (s.countChan c f).Sound held loose :=
  h.updChan rfl (.inl rfl)

/-- The fetches of a queue changed and reordered, each keeping its slot, its block and its pages. -/
theorem State.Sound.mapQueue {g : Fetch → Fetch} (h : s.Sound held loose) (hop : (f (s.chan c)).op = (s.chan c).op)
    (hq : (f (s.chan c)).queue.Perm ((s.chan c).queue.map g))
    (hg : ∀ x, (g x).slot = x.slot ∧ (g x).block = x.block ∧ (g x).pagesDone = x.pagesDone)
    (hcancel : ∀ x ∈ (s.chan c).queue, (g x).cancelPending = true → s.cache.filling x.slot = some 0) :
    (s.updChan c f).Sound held loose := by
  have hslots : ((f (s.chan c)).queue.map Fetch.slot).Perm ((s.chan c).queue.map Fetch.slot) := by
    refine (hq.map Fetch.slot).trans (List.Perm.of_eq ?_)
    rw [List.map_map]
    exact List.map_congr_left fun x _ => (hg x).1
  have hpart : (f (s.chan c)).partials.length = (s.chan c).partials.length := by
    refine (hq.filter _).length_eq.trans ?_
    rw [List.filter_map, List.length_map]
    refine congrArg List.length (List.filter_congr fun x _ => ?_)
    rw [Function.comp, (hg x).2.2]
  have hold : ∀ y ∈ (f (s.chan c)).queue, ∃ x ∈ (s.chan c).queue, g x = y := fun y hy => List.mem_map.mp (hq.subset hy)
  refine { h with queues := h.queues.channel (oneChannel_updChan s c f) (hslots.symm.append_right loose) (fun y hy => ?_)
                    (fun m issued hm => ?_) ⟨hpart ▸ (h.queues.partials c).1, fun hb => ?_⟩ }
  · obtain ⟨x, hx, rfl⟩ := hold y hy
    obtain ⟨hblock, hpages, -⟩ := h.queues.fetch c x hx
    obtain ⟨hs, hb, hp⟩ := hg x
    exact ⟨hb ▸ hblock, hp ▸ hpages, fun hc => hs ▸ hcancel x hx hc⟩
  · rw [hop] at hm
    obtain ⟨x, hx, hxm⟩ := h.queues.op c m issued hm
    exact List.mem_map.mp (hslots.symm.subset (hxm ▸ List.mem_map_of_mem hx))
  · rw [hpart]
    obtain ⟨op, y, ho, hkind, hy, hzero⟩ := hb
    obtain ⟨x, hx, rfl⟩ := hold y hy
    obtain ⟨hs, -, hp⟩ := hg x
    exact (h.queues.partials c).2 ⟨op, x, hop ▸ ho, hs ▸ hkind, hx, hp ▸ hzero⟩

/-- The flag of a slot's fetch changed. -/
theorem State.Sound.flagFetch {flag : Bool} (h : s.Sound held loose) (hn : flag = true → s.cache.filling n = some 0) :
    (s.updChan c (Channel.mapFetch n fun x => { x with cancelPending := flag })).Sound held loose := by
  refine h.mapQueue rfl (.refl _) (fun x => ?_) fun x hx hc => ?_
  · split <;> exact ⟨rfl, rfl, rfl⟩
  · split at hc
    · rename_i he
      exact he ▸ hn hc
    · obtain ⟨-, -, r, hr, hzero⟩ := h.queues.fetch c x hx
      exact hr.trans (congrArg some (hzero hc))

/-- The slot's fetch taken out of its queue, no page of it being read. -/
theorem State.Sound.dropFetch (h : s.Sound held loose) (hn : ∃ x ∈ (s.chan c).queue, x.slot = n)
    (hread : (s.chan c).reading n = false) : (s.updChan c (Channel.dropFetch n)).Sound held (n :: loose) := by
  have hpart : (Channel.dropFetch n (s.chan c)).partials.length ≤ (s.chan c).partials.length :=
    (List.filter_sublist.filter _).length_le
  refine { h with queues := h.queues.channel (oneChannel_updChan s c _) ?_ (fun g hg => ?_) (fun m issued hm => ?_)
                    ⟨hpart.trans (h.queues.partials c).1, fun hb => hpart.trans ((h.queues.partials c).2 ?_)⟩ }
  · obtain ⟨x, hx, hxn⟩ := hn
    have hmap : (Channel.dropFetch n (s.chan c)).queue.map Fetch.slot = ((s.chan c).queue.map Fetch.slot).filter (· != n) := by
      rw [Channel.dropFetch, List.filter_map]
      rfl
    have hmem : n ∈ (s.chan c).queue.map Fetch.slot := hxn ▸ List.mem_map_of_mem hx
    have herase : ((s.chan c).queue.map Fetch.slot).filter (· != n) = ((s.chan c).queue.map Fetch.slot).erase n :=
      ((h.queues.nodup c).erase_eq_filter n).symm
    rw [hmap, herase]
    exact ((List.perm_cons_erase hmem).append_right loose).trans List.perm_middle.symm
  · obtain ⟨hblock, hpages, r, hr, hcancel⟩ := h.queues.fetch c g (List.mem_filter.mp hg).1
    exact ⟨hblock, hpages, fun hc => hr.trans (congrArg some (hcancel hc))⟩
  · obtain ⟨g, hg, hgm⟩ := h.queues.op c m issued hm
    refine ⟨g, List.mem_filter.mpr ⟨hg, ?_⟩, hgm⟩
    have hne : g.slot ≠ n := fun he => by
      have : (s.chan c).reading n = true := reading_iff.mpr ⟨_, hm, congrArg OperationKind.fetchPage (hgm.symm.trans he)⟩
      rw [this] at hread
      cases hread
    simpa using hne
  · obtain ⟨op, g, ho, hkind, hg, hzero⟩ := hb
    exact ⟨op, g, ho, hkind, (List.mem_filter.mp hg).1, hzero⟩

theorem State.Sound.removeFetch (h : s.Sound held loose) (hn : ∃ x ∈ (s.chan c).queue, x.slot = n)
    (hread : (s.chan c).reading n = false) (hfill : s.cache.filling n = some 0) : (s.removeFetch c n).Sound held loose := by
  have hdropped : ((s.updChan c (Channel.dropFetch n)).countChan c fun k => { k with cancels := inc k.cancels }).Sound held (n :: loose) :=
    (h.dropFetch hn hread).countChan
  exact (hdropped.emptyLoose hfill).same rfl rfl rfl rfl rfl rfl

theorem State.Sound.cancelFetch (h : s.Sound held loose) (hfill : s.cache.filling n = some 0) : (s.cancelFetch n).Sound held loose := by
  unfold State.cancelFetch
  split
  · exact h
  · rename_i d _
    split
    · exact h
    · rename_i f hf
      split
      · split
        · exact h.flagFetch fun _ => hfill
        · exact h
      · rename_i hread
        obtain ⟨hq, hs⟩ := mem_of_fetchOf hf
        exact h.removeFetch ⟨f, hq, hs⟩ (Bool.eq_false_iff.mpr hread) hfill

/-- A reference released. -/
theorem State.Sound.releaseRef (h : s.Sound (n :: held) loose) : (s.releaseRef n).Sound held loose := by
  obtain ⟨x, hx⟩ := Option.ne_none_iff_exists'.mp (h.cache.present n List.mem_cons_self)
  have hx' : s.slot? n = some x := hx
  have hrefs : x.refs = (held ++ s.references).count n + 1 := by
    rw [h.cache.refs n x hx, List.cons_append, List.count_cons_self]
  have hothers : ∀ m, m ≠ n → (held ++ s.references).count m = (n :: held ++ s.references).count m := fun m hm => by
    rw [List.cons_append, List.count_cons_of_ne (Ne.symm hm)]
  by_cases hshared : 1 < x.refs
  · rw [releaseRef_shared hx' hshared]
    exact h.uncount hx' (.inr hshared)
  · have hone : x.refs = 1 := by omega
    have hcount : (held ++ s.references).count n = 0 := by omega
    have hnot : n ∉ s.cache.reclaim := fun hm => by
      obtain ⟨y, hy, -, hzero⟩ := (h.cache.reclaim n).mp hm
      obtain rfl := Option.some.inj (hx.symm.trans hy)
      omega
    unfold State.releaseRef
    rw [hx']
    dsimp only
    rw [if_pos hone.le]
    cases hst : x.state with
    | valid =>
      refine { h with cache := ?_, queues := ?_ }
      · refine h.cache.modify (other := held ++ s.references) (g := fun x => { x with refs := x.refs - 1 })
          (reclaim := s.cache.reclaim ++ [n]) (counts := s.cache.counts) hx rfl rfl hothers (show x.refs - 1 = _ by omega) ?_ (fun m => ?_)
          fun hp => ?_
        · exact List.nodup_append.mpr ⟨h.cache.once, List.nodup_singleton n, fun a ha b hb hab =>
            hnot (List.mem_singleton.mp hb ▸ hab ▸ ha)⟩
        · rw [List.mem_append, List.mem_singleton]
          by_cases hm : m = n
          · simp only [hm, ne_eq, not_true_eq_false, false_and, true_and, false_or, or_true, true_iff]
            exact ⟨hst, by show x.refs - 1 = 0; omega⟩
          · simp [hm]
        · rw [show x.state = .patched from hp] at hst
          cases hst
      · have hsame : (State.toReclaim n (s.updSlot n fun x => { x with refs := x.refs - 1 })).cache.filling = s.cache.filling := by
          funext m
          refine (filling_updSlot (s := s) (fun x => { x with refs := x.refs - 1 }) hx' m).trans ?_
          split
          · rename_i hm
            rw [hm, filling_of hx', hst]
            rfl
          · rfl
        rw [hsame]
        exact h.queues
    | patched =>
      rw [emptySlot_updSlot]
      refine { h with cache := ?_, queues := ?_ }
      · exact h.cache.empty hx hothers (List.count_eq_zero.mp hcount) hnot
      · have hsame : ((s.emptySlot n).countCache fun k => { k with patchedRelease := inc k.patchedRelease }).cache.filling =
            s.cache.filling := by
          funext m
          refine (filling_emptySlot (s := s) m).trans ?_
          split
          · rename_i hm
            rw [hm, filling_of hx', hst]
            rfl
          · rfl
        rw [hsame]
        exact h.queues
    | filling =>
      have ht := h.uncount hx' (.inl hst)
      refine ht.cancelFetch ?_
      rw [filling_updSlot _ hx', if_pos rfl]
      show (if x.state = .filling then some (x.refs - 1) else none) = some 0
      rw [if_pos hst, hone]

end

end Sys2Proof.Machine


/-! SUPPORT. Windows withdrawn, fills completed and channels OFFLINE keep the agreement (R82, R83, R89, R92, R107, R119, R120,
R123). -/

namespace Sys2Proof.Machine

/-! ### Entries withdrawn -/

section
variable {s t : State} {held loose : List SlotNo} {n : SlotNo} {c : ChannelNo} {i : Nat}

theorem State.Sound.releaseEntry {e : Entry} (h : s.Sound (e.slot.toList ++ held) loose) : (s.releaseEntry e).Sound held loose := by
  unfold State.releaseEntry
  cases he : e.slot with
  | none =>
    rw [he] at h
    exact h
  | some n =>
    rw [he] at h
    exact h.releaseRef

theorem State.Sound.countStreams {f : StreamCounts → StreamCounts} (h : s.Sound held loose) : (s.countStreams f).Sound held loose :=
  h.of_eq rfl rfl rfl

theorem State.Sound.withdraw {entries : List Entry} (h : s.Sound (entries.filterMap Entry.slot ++ held) loose) :
    (s.withdraw entries).Sound held loose := by
  induction entries generalizing s with
  | nil => exact h
  | cons e rest ih =>
    refine ih (State.Sound.countStreams (State.Sound.releaseEntry ?_))
    have hslots : (e :: rest).filterMap Entry.slot = e.slot.toList ++ rest.filterMap Entry.slot := by
      rw [List.filterMap_cons]
      cases e.slot <;> rfl
    rw [hslots, List.append_assoc] at h
    exact h

/-- A window emptied, its references held. -/
theorem State.Sound.takeWindow {x : Context} {f : Context → Context} (h : s.Sound held loose) (hx : s.ctx? i = some x)
    (hw : (f x).window = []) : (s.updCtx i f).Sound (x.window.filterMap Entry.slot ++ held) loose := by
  refine h.updCtx hx ?_ fun _ => hw
  have hnone : (f x).slots = [] := by rw [Context.slots, hw]; rfl
  rw [hnone, List.append_nil]
  exact List.perm_append_comm

theorem State.Sound.enterSpent (reason : EndReason) (h : s.Sound held loose) : (s.enterSpent i reason).Sound held loose := by
  unfold State.enterSpent
  split
  · exact h
  · rename_i x hx
    exact (State.Sound.countStreams (State.Sound.withdraw (h.takeWindow hx rfl))).of_eq rfl rfl rfl

/-- A change of a context that keeps the slots its window refers to. -/
theorem State.Sound.keepWindow {f : Context → Context} (h : s.Sound held loose) (hf : ∀ x, s.ctx? i = some x → (f x).slots = x.slots)
    (hs : ∀ x, s.ctx? i = some x → (f x).state = .spent → x.state = .spent ∧ (x.window = [] → (f x).window = [])) :
    (s.updCtx i f).Sound held loose := by
  cases hx : s.ctx? i with
  | none =>
    have hid : Sparse.modify s.streams.contexts i f = s.streams.contexts := by
      refine (List.map_congr_left fun p hp => if_neg fun he => ?_).trans (List.map_id _)
      have := (Sparse.get_eq_some_iff h.wf).mpr hp
      rw [he, show Sparse.get s.streams.contexts i = none from hx] at this
      cases this
    exact h.of_eq hid rfl rfl
  | some x =>
    refine h.updCtx hx (by rw [hf x hx]) fun hsp => ?_
    obtain ⟨hspent, hw⟩ := hs x hx hsp
    exact hw (h.spent _ (Sparse.mem_of_get hx) hspent)

theorem State.Sound.policyTest (h : s.Sound held loose) : (s.policyTest i).Sound held loose := by
  unfold State.policyTest
  split
  · exact h
  · split
    · exact h
    · split
      · have hu : (s.updCtx i fun x => { x with patched := inc x.patched }).Sound held loose :=
          h.keepWindow (fun _ _ => rfl) fun _ _ hs => ⟨hs, id⟩
        dsimp only
        split
        · exact hu.enterSpent .fault
        · exact hu
      · exact h

theorem State.Sound.silentFree (h : s.Sound held loose) : (s.silentFree i).Sound held loose := by
  unfold State.silentFree
  split
  · exact h
  · rename_i x hx
    refine State.Sound.freeCtx (State.Sound.of_eq (State.Sound.withdraw (h.takeWindow (f := fun x => { x with window := [] }) hx rfl)) rfl rfl rfl)
      fun y hy => ?_
    have hy' : ((s.updCtx i fun x => { x with window := [] }).withdraw x.window).ctx? i = some y := hy
    rw [withdraw_eq, released_ctx?] at hy'
    have hone := (updCtx_ctx? hx fun x => { x with window := [] }).symm.trans hy'
    rw [← Option.some.inj hone]

/-! ### Fills completed -/

theorem fill_slot (set : PageSet) (e : Entry) : (Entry.fill n set e).slot = e.slot := by
  unfold Entry.fill
  split <;> rfl

theorem State.Sound.fillContext (set : PageSet) (h : s.Sound held loose) : (s.fillContext n set i).Sound held loose := by
  unfold State.fillContext
  split
  · exact h
  · have hu : (s.updCtx i fun x => { x with window := x.window.map (Entry.fill n set) }).Sound held loose := by
      refine h.keepWindow (fun x _ => ?_) fun x _ hs => ⟨hs, fun hw => by rw [hw]; rfl⟩
      rw [Context.slots, Context.slots, List.filterMap_map]
      exact congrArg (List.filterMap · x.window) (funext fun e => fill_slot set e)
    dsimp only
    split
    · exact hu
    · split
      · exact hu.policyTest
      · exact hu

theorem State.Sound.foldl {α : Type} {f : State → α → State} (hf : ∀ (u : State) a, u.Sound held loose → (f u a).Sound held loose)
    (l : List α) (h : s.Sound held loose) : (l.foldl f s).Sound held loose := by
  induction l generalizing s with
  | nil => exact h
  | cons a rest ih => exact ih (hf s a h)

/-- The fetch of a referred slot is finished: the slot takes another state. -/
theorem State.Sound.settle {x : Slot} {st : SlotState} (h : s.Sound held (n :: loose)) (hx : s.slot? n = some x) (hfill : x.state = .filling)
    (hst : st ≠ .filling) (hr : x.refs ≠ 0) : (s.updSlot n fun x => { x with state := st }).Sound held loose := by
  refine { h with cache := ?_, queues := ?_ }
  · refine h.cache.modify (other := held ++ s.references) (g := fun x => { x with state := st }) (reclaim := s.cache.reclaim)
      (counts := s.cache.counts) hx rfl rfl (fun _ _ => rfl) (h.cache.refs n x hx) h.cache.once (fun m => ?_) fun _ => hr
    by_cases hm : m = n
    · simp only [hm, ne_eq, not_true_eq_false, false_and, true_and, false_or]
      refine iff_of_false (fun hmem => ?_) fun hv => hr hv.2
      obtain ⟨y, hy, hv, -⟩ := (h.cache.reclaim n).mp hmem
      obtain rfl := Option.some.inj (hx.symm.trans hy)
      rw [hfill] at hv
      cases hv
    · simp [hm]
  · refine h.queues.finish ?_ fun m hm => ?_
    · rw [filling_updSlot _ hx, if_pos rfl]
      exact if_neg hst
    · rw [filling_updSlot _ hx, if_neg hm]

/-- The fetch of a slot that nothing refers to is finished with good pages. -/
theorem State.Sound.settleFree {x : Slot} (h : s.Sound held (n :: loose)) (hx : s.slot? n = some x) (hfill : x.state = .filling)
    (hr : x.refs = 0) : ((s.updSlot n fun x => { x with state := .valid }).toReclaim n).Sound held loose := by
  have hnot : n ∉ s.cache.reclaim := fun hm => by
    obtain ⟨y, hy, hv, -⟩ := (h.cache.reclaim n).mp hm
    obtain rfl := Option.some.inj (hx.symm.trans hy)
    rw [hfill] at hv
    cases hv
  refine { h with cache := ?_, queues := ?_ }
  · refine h.cache.modify (other := held ++ s.references) (g := fun x => { x with state := .valid }) (reclaim := s.cache.reclaim ++ [n])
      (counts := s.cache.counts) hx rfl rfl (fun _ _ => rfl) (h.cache.refs n x hx) ?_ (fun m => ?_) fun hp => ?_
    · exact List.nodup_append.mpr ⟨h.cache.once, List.nodup_singleton n, fun a ha b hb hab =>
        hnot (List.mem_singleton.mp hb ▸ hab ▸ ha)⟩
    · rw [List.mem_append, List.mem_singleton]
      by_cases hm : m = n
      · simp [hm, hr]
      · simp [hm]
    · cases hp
  · refine h.queues.finish ?_ fun m hm => ?_
    · refine (filling_updSlot (s := s) (fun x => { x with state := .valid }) hx n).trans ?_
      rw [if_pos rfl]
      rfl
    · refine (filling_updSlot (s := s) (fun x => { x with state := .valid }) hx m).trans ?_
      rw [if_neg hm]

/-- The fill of a slot whose fetch is out of its queue completes. -/
theorem State.Sound.fillComplete (h : s.Sound held (n :: loose)) : (s.fillComplete n).Sound held loose := by
  obtain ⟨r, hr⟩ := Option.ne_none_iff_exists'.mp (h.queues.apart n List.mem_cons_self).1
  obtain ⟨x, hx, hfill, hrefs⟩ := filling_eq_some.mp hr
  have hx' : s.slot? n = some x := hx
  have hwindows : ∀ {u : State}, u.Sound held loose → (u.live.foldl (State.fillContext n x.patched) u).Sound held loose :=
    fun hu => hu.foldl (fun _ _ hu => hu.fillContext x.patched) _
  unfold State.fillComplete
  rw [hx']
  dsimp only
  by_cases hzero : x.refs = 0
  · rw [if_pos hzero]
    split
    · exact (h.settleFree hx' hfill hzero).same rfl rfl rfl rfl rfl rfl
    · have hempty := h.emptyLoose (filling_eq_some.mpr ⟨x, hx, hfill, hzero⟩)
      rw [← emptySlot_updSlot fun x => { x with state := .patched }] at hempty
      exact hempty.same rfl rfl rfl rfl rfl rfl
  · rw [if_neg hzero]
    split
    · exact hwindows ((h.settle hx' hfill (by decide) hzero).same rfl rfl rfl rfl rfl rfl)
    · exact hwindows ((h.settle hx' hfill (by decide) hzero).same rfl rfl rfl rfl rfl rfl)

/-! ### Pages reported -/

theorem State.Sound.reportPage (j : Nat) (data : Option (List Byte)) (h : s.Sound held loose) :
    (s.reportPage n j data).Sound held loose :=
  State.Sound.updSlot (State.Sound.same h (t := s.writePage n j data) rfl rfl rfl rfl rfl rfl) fun _ => ⟨rfl, rfl, rfl, rfl⟩

/-- The end of a page of slot n's fetch may be reported on the channel: no operation is in progress there, and there is room for
one more in the partial set where the page is the fetch's first. -/
def State.Room (c : ChannelNo) (n : SlotNo) (s : State) : Prop :=
  (s.chan c).op = none ∧ ∀ f ∈ (s.chan c).queue, f.slot = n → f.pagesDone = 0 → (s.chan c).partials.length ≤ 3

theorem State.Room.kept (h : s.Room c n) (hk : KeepsReads s t) : t.Room c n := by
  have hc := hk.chan c
  refine ⟨hc.op.trans h.1, fun f hf hn hp => ?_⟩
  obtain ⟨g, hg, hgs, hgp⟩ := hc.kept f hf
  exact hc.partials.trans (h.2 g hg (hgs.trans hn) (hgp.trans hp))

/-- Page 0 or 1 of a fetch counted as done, with no operation in progress on its channel. -/
theorem State.Sound.pageDone {f : Fetch} (h : s.Sound held loose) (hroom : s.Room c n) (hf : (s.chan c).fetchOf n = some f)
    (hd : f.pagesDone < 2) : (s.updChan c (Channel.mapFetch n fun x => { x with pagesDone := x.pagesDone + 1 })).Sound held loose := by
  obtain ⟨hmem, hslot⟩ := mem_of_fetchOf hf
  obtain ⟨front, back, hq⟩ := List.append_of_mem hmem
  have hnodup := h.queues.nodup c
  rw [hq, List.map_append, List.map_cons, List.nodup_append, List.nodup_cons] at hnodup
  obtain ⟨-, ⟨hback, -⟩, hfront⟩ := hnodup
  have hothers : ∀ x ∈ front ++ back, x.slot ≠ n := fun x hx hxn => by
    rcases List.mem_append.mp hx with hx | hx
    · exact hfront _ (List.mem_map_of_mem hx) _ List.mem_cons_self (hxn.trans hslot.symm)
    · exact hback (hslot ▸ hxn ▸ List.mem_map_of_mem hx)
  have hid : ∀ l : List Fetch, (∀ x ∈ l, x.slot ≠ n) →
      (l.map fun x => if x.slot = n then { x with pagesDone := x.pagesDone + 1 } else x) = l := fun l hl =>
    (List.map_congr_left fun x hx => if_neg (hl x hx)).trans (List.map_id _)
  have hnew : (Channel.mapFetch n (fun x => { x with pagesDone := x.pagesDone + 1 }) (s.chan c)).queue =
      front ++ { f with pagesDone := f.pagesDone + 1 } :: back := by
    rw [Channel.mapFetch, hq, List.map_append, List.map_cons, if_pos hslot, hid front fun x hx => hothers x (List.mem_append_left _ hx),
      hid back fun x hx => hothers x (List.mem_append_right _ hx)]
  refine { h with queues := h.queues.channel (oneChannel_updChan s c _) ?_ (fun g hg => ?_) (fun m issued hm => ?_) ⟨?_, fun hb => ?_⟩ }
  · rw [hnew, hq, List.map_append, List.map_append]
    exact .refl _
  · have hall : g = { f with pagesDone := f.pagesDone + 1 } ∨ g ∈ (s.chan c).queue := by
      rw [hnew] at hg
      rw [hq]
      simp only [List.mem_append, List.mem_cons] at hg ⊢
      tauto
    rcases hall with rfl | hg
    · obtain ⟨hblock, -, r, hr, hcancel⟩ := h.queues.fetch c f hmem
      exact ⟨hblock, by show f.pagesDone + 1 < 3; omega, fun hc => hr.trans (congrArg some (hcancel hc))⟩
    · obtain ⟨hblock, hpages, r, hr, hcancel⟩ := h.queues.fetch c g hg
      exact ⟨hblock, hpages, fun hc => hr.trans (congrArg some (hcancel hc))⟩
  · rw [show (Channel.mapFetch n (fun x => { x with pagesDone := x.pagesDone + 1 }) (s.chan c)).op = none from hroom.1] at hm
    cases hm
  · have hpart := (h.queues.partials c).1
    have hfirst := hroom.2 f hmem hslot
    rw [Channel.partials, hq, List.filter_append, List.length_append] at hpart hfirst
    rw [Channel.partials, hnew, List.filter_append, List.length_append]
    have hafter : ∀ x : Fetch, (x.pagesDone = 1 ∨ x.pagesDone = 2) → ∀ l : List Fetch,
        ((x :: l).filter fun f => f.pagesDone == 1 || f.pagesDone == 2).length =
          (l.filter fun f => f.pagesDone == 1 || f.pagesDone == 2).length + 1 := fun x hx l => by
      rw [List.filter_cons_of_pos (by simpa using hx), List.length_cons]
    rw [hafter _ (by show f.pagesDone + 1 = 1 ∨ f.pagesDone + 1 = 2; omega)]
    by_cases hz : f.pagesDone = 0
    · have := hfirst hz
      rw [List.filter_cons_of_neg (by simp [hz])] at this
      omega
    · rw [hafter f (by omega)] at hpart
      omega
  · obtain ⟨op, g, ho, -⟩ := hb
    rw [show (Channel.mapFetch n (fun x => { x with pagesDone := x.pagesDone + 1 }) (s.chan c)).op = none from hroom.1] at ho
    cases ho

theorem not_reading_of_op {k : Channel} (h : k.op = none) : k.reading n = false := by
  unfold Channel.reading
  rw [h]

/-- A page of slot n's fetch completes. -/
theorem State.Sound.completePage (data : Option (List Byte)) (h : s.Sound held loose) (hroom : s.Room c n) :
    (s.completePage c n data).Sound held loose ∧ ((s.completePage c n data).chan c).op = none := by
  cases hf : (s.chan c).fetchOf n with
  | none =>
    unfold State.completePage
    rw [hf]
    exact ⟨h, hroom.1⟩
  | some f =>
    have hreported : ((s.reportPage n f.pagesDone data).updChan c (Channel.pageCounted data)).Sound held loose :=
      (h.reportPage f.pagesDone data).updChan rfl (.inl rfl)
    have hchan : ((s.reportPage n f.pagesDone data).updChan c (Channel.pageCounted data)).chan c = (s.chan c).pageCounted data :=
      chan_updChan_self _ c _
    by_cases hd : f.pagesDone < 2
    · rw [completePage_early hf hd]
      refine ⟨?_, by rw [chan_updChan_self]; exact hroom.1⟩
      have hroom' : ((s.reportPage n f.pagesDone data).updChan c (Channel.pageCounted data)).Room c n := by
        rw [State.Room, hchan]
        exact hroom
      have hdone := hreported.pageDone hroom' (by rw [hchan]; exact hf) hd
      rwa [updChan_updChan] at hdone
    · rw [completePage_third hf hd]
      obtain ⟨hmem, hslot⟩ := mem_of_fetchOf hf
      have hdropped := (hreported.dropFetch (c := c) (n := n) ⟨f, by rw [hchan]; exact hmem, hslot⟩
        (by rw [hchan]; exact not_reading_of_op hroom.1)).countChan (c := c) (f := fun k => { k with completed := inc k.completed })
      rw [State.countChan, updChan_updChan, updChan_updChan] at hdropped
      refine ⟨hdropped.fillComplete, ?_⟩
      refine ((KeepsReads.refl _).fillComplete.chan c).op.trans ?_
      rw [chan_updChan_self]
      exact hroom.1

/-! ### The choice -/

/-- The page of a fetch of the queue is read. -/
theorem State.Sound.readPage {f : Fetch} (h : s.Sound held loose) (hf : f ∈ (s.chan c).queue)
    (hroom : f.pagesDone = 0 → (s.chan c).partials.length ≤ 3) : (s.issue c (.fetchPage f.slot)).Sound held loose := by
  refine { h with queues := h.queues.channel (oneChannel_updChan s c _) (.refl _) (fun g hg => ?_) (fun m issued hm => ?_)
                    ⟨(h.queues.partials c).1, fun hb => ?_⟩ }
  · obtain ⟨hblock, hpages, r, hr, hcancel⟩ := h.queues.fetch c g hg
    exact ⟨hblock, hpages, fun hc => hr.trans (congrArg some (hcancel hc))⟩
  · refine ⟨f, hf, ?_⟩
    have hkind := congrArg Operation.kind (Option.some.inj hm)
    exact OperationKind.fetchPage.inj hkind
  · obtain ⟨op, g, ho, hkind, hg, hzero⟩ := hb
    have hslot : f.slot = g.slot := by
      rw [← Option.some.inj ho] at hkind
      exact OperationKind.fetchPage.inj hkind
    have hsame : f = g := List.inj_on_of_nodup_map (h.queues.nodup c) hf hg hslot
    exact hroom (hsame ▸ hzero)

/-- The fetch chosen stands in the queue, and a first page is chosen only where the partial set has room. -/
theorem nextFetch_room {k : Channel} {margin : Nat} {f : Fetch} {breakIn : Bool} (h : k.nextFetch margin = some (f, breakIn)) :
    f ∈ k.queue ∧ (f.pagesDone = 0 → k.partials.length ≤ 3) := by
  have hpartial : ∀ p, k.partials.head? = some p → p ∈ k.queue ∧ p.pagesDone ≠ 0 := fun p hp => by
    obtain ⟨hq, hpages⟩ := List.mem_filter.mp (List.mem_of_head? hp)
    refine ⟨hq, fun hz => ?_⟩
    rw [hz] at hpages
    exact absurd hpages (by decide)
  unfold Channel.nextFetch at h
  split at h
  · cases h
  · rename_i p hp _
    obtain ⟨rfl, -⟩ := Prod.mk.inj (Option.some.inj h)
    exact ⟨(hpartial _ hp).1, fun hz => absurd hz (hpartial _ hp).2⟩
  · rename_i u hnone hu
    obtain ⟨rfl, -⟩ := Prod.mk.inj (Option.some.inj h)
    refine ⟨List.mem_of_find?_eq_some hu, fun _ => ?_⟩
    rw [List.head?_eq_none_iff.mp hnone]
    exact Nat.zero_le _
  · rename_i p u hp hu
    split at h
    · rename_i hbreak
      obtain ⟨rfl, -⟩ := Prod.mk.inj (Option.some.inj h)
      exact ⟨List.mem_of_find?_eq_some hu, fun _ => Nat.le_of_lt_succ hbreak.2⟩
    · obtain ⟨rfl, -⟩ := Prod.mk.inj (Option.some.inj h)
      exact ⟨(hpartial _ hp).1, fun hz => absurd hz (hpartial _ hp).2⟩

/-- A choice reads a page, or leaves one to be reported. -/
theorem State.Sound.readNext (h : s.Sound held loose) (hop : (s.chan c).op = none) :
    (s.readNext c).1.Sound held loose ∧ ∀ n, (s.readNext c).2 = some n → (s.readNext c).1.Room c n := by
  unfold State.readNext
  split
  · exact ⟨h, fun n hn => by cases hn⟩
  · rename_i f breakIn hnext
    obtain ⟨hf, hroom⟩ := nextFetch_room hnext
    have hcounted : (s.countChan c (ChannelCounts.countChoice f breakIn)).Sound held loose := h.countChan
    have hchan : (s.countChan c (ChannelCounts.countChoice f breakIn)).chan c =
        { s.chan c with counts := (s.chan c).counts.countChoice f breakIn } := chan_updChan_self s c _
    dsimp only
    split
    · refine ⟨hcounted.readPage (by rw [hchan]; exact hf) (by rw [hchan]; exact hroom), fun n hn => by cases hn⟩
    · refine ⟨State.Sound.countChan (c := c) (f := fun k => { k with beyondExtent := inc k.beyondExtent }) hcounted, fun n hn => ?_⟩
      obtain rfl := Option.some.inj hn
      have hchan' : ((s.countChan c (ChannelCounts.countChoice f breakIn)).countChan c fun k =>
          { k with beyondExtent := inc k.beyondExtent }).chan c = _ := chan_updChan_self _ c _
      refine ⟨by rw [hchan', hchan]; exact hop, fun g hg hgs hz => ?_⟩
      rw [hchan', hchan] at hg ⊢
      have hsame : g = f := List.inj_on_of_nodup_map (h.queues.nodup c) hg hf hgs
      exact hroom (hsame ▸ hz)

theorem State.Sound.chooseFetch (fuel : Nat) (h : s.Sound held loose) (hop : (s.chan c).op = none) :
    (s.chooseFetch c fuel).Sound held loose := by
  induction fuel generalizing s with
  | zero => exact h
  | succ fuel ih =>
    obtain ⟨hread, hroom⟩ := h.readNext hop
    rw [State.chooseFetch]
    generalize s.readNext c = r at hread hroom ⊢
    obtain ⟨t, m⟩ := r
    cases m with
    | none => exact hread
    | some m =>
      obtain ⟨hpage, hop'⟩ := hread.completePage none (hroom m rfl)
      exact ih hpage hop'

/-! ### OFFLINE -/

theorem State.Sound.finishPatched {f : Fetch} (h : s.Sound held (f.slot :: loose)) : (s.finishPatched c f).Sound held loose :=
  State.Sound.fillComplete (State.Sound.countChan (State.Sound.foldl (fun _ j hu => hu.reportPage (f.pagesDone + j) none) _ h))

theorem State.Sound.finishAll (fetches : List Fetch) (h : s.Sound held (fetches.map Fetch.slot ++ loose)) :
    (fetches.foldl (State.finishPatched c) s).Sound held loose := by
  induction fetches generalizing s with
  | nil => exact h
  | cons f rest ih => exact ih (State.Sound.finishPatched h)

theorem State.Sound.goOffline (h : s.Sound held loose) : (s.goOffline c).Sound held loose := by
  have hqueues := h.queues.channel (more := (s.chan c).queue.map Fetch.slot ++ loose)
    (oneChannel_updChan s c fun k =>
      { k with offline := true, op := none, queue := [], counts := { k.counts with offlineEntries := inc k.counts.offlineEntries } })
    (.refl _) (fun g hg => by cases hg) (fun m issued hm => by cases hm) ⟨Nat.zero_le _, fun _ => Nat.zero_le _⟩
  exact State.Sound.finishAll _ { h with queues := hqueues }

theorem State.Sound.updateFault (h : s.Sound held loose) : s.updateFault.Sound held loose := h.of_eq rfl rfl rfl

theorem State.Sound.enterOffline (h : s.Sound held loose) : (s.enterOffline c).Sound held loose := h.goOffline.updateFault

end

end Sys2Proof.Machine


/-! SUPPORT. A lookup keeps the agreement: the reference it takes is held, and a fetch it has left to be reported is out of its
queue (R101 to R104, R116, R117, R125). -/

namespace Sys2Proof.Machine

section
variable {s t : State} {held loose : List SlotNo} {n : SlotNo} {c : ChannelNo} {x : Slot} {zone : Zone} {k block : Nat} {deadline : Time}

/-! ### Hits -/

theorem findKey_some (h : s.findKey zone k = some (n, x)) (hwf : Sparse.wf s.cache.slots) : s.slot? n = some x := by
  unfold State.findKey at h
  split at h
  · rename_i m y hfind
    split at h
    · obtain ⟨rfl, rfl⟩ := Prod.mk.inj (Option.some.inj h)
      exact (Sparse.get_eq_some_iff hwf).mpr (List.mem_of_find?_eq_some hfind)
    · cases h
  · cases h

theorem key_of_findKey_none (h : s.findKey zone k = none) (hc : s.cache.Sound held) :
    ∀ m y, s.cache.slot m = some y → y.zone = zone → y.k ≠ k := by
  intro m y hy hz hk
  have hmem : (m.val, y) ∈ s.cache.slots := Sparse.mem_of_get hy
  unfold State.findKey at h
  split at h
  · rename_i j z hfind
    have hlt : j < 262144 := hc.bound _ (List.mem_of_find?_eq_some hfind)
    rw [dif_pos hlt] at h
    cases h
  · rename_i hfind
    have := List.find?_eq_none.mp hfind _ hmem
    simp [hz, hk] at this

/-- The channel found for a slot has every fetch of the slot. -/
theorem State.Sound.fetchingChannel {f : Fetch} (h : s.Sound held loose) (hf : f ∈ (s.chan c).queue) :
    s.fetchingChannel f.slot = some c := by
  have hsome : ((s.chan c).fetchOf f.slot).isSome = true := by rw [fetchOf_eq (h.queues.nodup c) hf rfl]; rfl
  cases hd : s.fetchingChannel f.slot with
  | none => exact absurd hsome (List.find?_eq_none.mp hd c (mem_channels c))
  | some d =>
    have hfound : ((s.chan d).fetchOf f.slot).isSome = true :=
      List.find?_some (p := fun c => ((s.chan c).fetchOf f.slot).isSome) hd
    obtain ⟨g, hg⟩ := Option.isSome_iff_exists.mp hfound
    obtain ⟨hgq, hgn⟩ := mem_of_fetchOf hg
    rw [h.queues.once d c g hgq f hf hgn]

/-- One more reference to a slot, whose fetch does not await cancellation. -/
theorem State.Sound.count (h : s.Sound held loose) (hx : s.slot? n = some x)
    (hkeep : ∀ c, ∀ f ∈ (s.chan c).queue, f.slot = n → f.cancelPending = false) :
    ((s.updSlot n fun x => { x with refs := x.refs + 1 }).onCache fun c =>
      { c with reclaim := c.reclaim.filter (· != n) }).Sound (n :: held) loose := by
  refine { h with cache := ?_, queues := ?_ }
  · refine h.cache.modify (other := n :: held ++ s.references) (g := fun x => { x with refs := x.refs + 1 })
      (reclaim := s.cache.reclaim.filter (· != n)) (counts := s.cache.counts) hx rfl rfl (fun m hm => ?_) ?_ (h.cache.once.filter _)
      (fun m => ?_) fun _ => Nat.succ_ne_zero _
    · rw [List.cons_append, List.count_cons_of_ne (Ne.symm hm)]
    · rw [List.cons_append, List.count_cons_self]
      exact congrArg (· + 1) (h.cache.refs n x hx)
    · rw [List.mem_filter]
      simp only [bne_iff_ne, Nat.add_eq_zero_iff, one_ne_zero, and_false, or_false]
      exact and_comm
  · refine h.queues.recount (fun m => ?_) fun d f hf hcancel => ?_
    · refine (Eq.congr_left (filling_updSlot (s := s) (fun x => { x with refs := x.refs + 1 }) hx m)).trans ?_
      by_cases hm : m = n
      · rw [if_pos hm, hm, filling_of hx]
        split <;> simp
      · rw [if_neg hm]
    · have hne : f.slot ≠ n := fun he => by
        rw [hkeep d f hf he] at hcancel
        cases hcancel
      obtain ⟨-, -, r, hr, hzero⟩ := h.queues.fetch d f hf
      refine (filling_updSlot (s := s) (fun x => { x with refs := x.refs + 1 }) hx f.slot).trans ?_
      rw [if_neg hne, hr, hzero hcancel]

theorem insertFetch_perm (f : Fetch) (queue : List Fetch) : (insertFetch f queue).Perm (f :: queue) := by
  obtain ⟨front, back, hq, hins, -, -⟩ := insertFetch_place f queue
  rw [hins, hq]
  exact List.perm_middle

/-- A fetch with a new deadline keeps its slot and its pages. -/
theorem State.Sound.lowerDeadline (h : s.Sound held loose) : (s.updChan c (Channel.lowerDeadline n deadline)).Sound held loose := by
  have hkept : ∀ x ∈ (s.chan c).queue, x.cancelPending = true → s.cache.filling x.slot = some 0 := fun x hx hc => by
    obtain ⟨-, -, r, hr, hzero⟩ := h.queues.fetch c x hx
    exact hr.trans (congrArg some (hzero hc))
  cases hf : (s.chan c).fetchOf n with
  | none =>
    have hid : Channel.lowerDeadline n deadline (s.chan c) = s.chan c := by
      unfold Channel.lowerDeadline
      rw [hf]
    exact h.updChan (congrArg Channel.queue hid) (.inl (congrArg Channel.op hid))
  | some f =>
    obtain ⟨hmem, hslot⟩ := mem_of_fetchOf hf
    have hnew : Channel.lowerDeadline n deadline (s.chan c) = { s.chan c with
        queue := insertFetch { f with deadline := deadline } ((s.chan c).queue.filter fun x => x.slot != n) } := by
      unfold Channel.lowerDeadline
      rw [hf]
    refine h.mapQueue (g := fun x => if x.slot = n then { x with deadline := deadline } else x) (by rw [hnew]) ?_
      (fun x => ?_) fun x hx hc => hkept x hx ?_
    · rw [hnew]
      refine (insertFetch_perm _ _).trans ?_
      have hothers : (s.chan c).queue.Perm (f :: (s.chan c).queue.filter fun x => x.slot != n) := by
        have hnodup := h.queues.nodup c
        obtain ⟨front, back, hq⟩ := List.append_of_mem hmem
        rw [hq] at hnodup ⊢
        rw [List.map_append, List.map_cons, List.nodup_append, List.nodup_cons] at hnodup
        obtain ⟨-, ⟨hback, -⟩, hfront⟩ := hnodup
        have hfilter : ∀ l : List Fetch, (∀ x ∈ l, x.slot ≠ n) → l.filter (fun x => x.slot != n) = l := fun l hl =>
          List.filter_eq_self.mpr fun x hx => by simpa using hl x hx
        rw [List.filter_append, List.filter_cons_of_neg (by simp [hslot]),
          hfilter front fun x hx hxn => hfront _ (List.mem_map_of_mem hx) _ List.mem_cons_self (hxn.trans hslot.symm),
          hfilter back fun x hx hxn => hback (hslot ▸ hxn ▸ List.mem_map_of_mem hx)]
        exact List.perm_middle
      have hmap := hothers.map fun x => if x.slot = n then { x with deadline := deadline } else x
      rw [List.map_cons, if_pos hslot] at hmap
      refine ((List.Perm.of_eq ?_).cons _).trans hmap.symm
      exact ((List.map_congr_left fun x hx => if_neg (by simpa using (List.mem_filter.mp hx).2)).trans (List.map_id _)).symm
    · split <;> exact ⟨rfl, rfl, rfl⟩
    · split at hc <;> exact hc

theorem State.Sound.hit (h : s.Sound held loose) (hx : s.slot? n = some x) : (s.hit n x deadline).Sound (n :: held) loose := by
  have hlisted : (x.state ≠ .valid ∨ x.refs ≠ 0) → s.cache.reclaim = s.cache.reclaim.filter (· != n) := fun hv => by
    refine (List.filter_eq_self.mpr fun m hm => ?_).symm
    have hne : m ≠ n := by
      rintro rfl
      obtain ⟨y, hy, hvalid, hzero⟩ := (h.cache.reclaim m).mp hm
      obtain rfl := Option.some.inj (hx.symm.trans hy)
      exact hv.elim (· hvalid) (· hzero)
    simpa using hne
  have hsettled : x.state ≠ .filling → ∀ c, ∀ f ∈ (s.chan c).queue, f.slot = n → f.cancelPending = false := fun hst c f hf hn => by
    obtain ⟨-, -, r, hr, -⟩ := h.queues.fetch c f hf
    rw [hn, filling_of hx, if_neg hst] at hr
    cases hr
  unfold State.hit
  dsimp only
  cases hst : x.state with
  | valid =>
    refine (h.count hx (hsettled (by rw [hst]; decide))).same rfl rfl rfl rfl ?_ rfl
    show (if x.refs = 0 then s.cache.reclaim.filter (· != n) else s.cache.reclaim) = s.cache.reclaim.filter (· != n)
    split
    · rfl
    · rename_i hr
      exact hlisted (.inr hr)
  | patched =>
    exact (h.count hx (hsettled (by rw [hst]; decide))).same rfl rfl rfl rfl (hlisted (.inl (by rw [hst]; decide))) rfl
  | filling =>
    have hreclaim := hlisted (.inl (by rw [hst]; decide))
    cases hc : s.fetchingChannel n with
    | none =>
      have hcounted := h.count hx fun d f hf hn => by
        rw [← hn, h.fetchingChannel hf] at hc
        cases hc
      dsimp only
      split
      · exact (hcounted.updSlot (n := n) (g := fun x => { x with deadline := deadline }) fun _ => ⟨rfl, rfl, rfl, rfl⟩).same
          rfl rfl rfl rfl hreclaim rfl
      · exact hcounted.same rfl rfl rfl rfl hreclaim rfl
    | some d =>
      have hflagged := h.flagFetch (c := d) (n := n) (flag := false) (fun he => by cases he)
      have hcounted := hflagged.count (n := n) (x := x) hx fun e f hf hn => by
        by_cases he : e = d
        · rw [he, chan_updChan_self] at hf
          obtain ⟨g, -, rfl⟩ := List.mem_map.mp hf
          split
          · rfl
          · rename_i hg
            rw [if_neg hg] at hn
            exact absurd hn hg
        · rw [chan_updChan_other s he] at hf
          rw [← hn, h.fetchingChannel hf] at hc
          exact absurd (Option.some.inj hc) he
      dsimp only
      split
      · exact (State.Sound.lowerDeadline (c := d) (n := n) (deadline := deadline)
          (hcounted.updSlot (n := n) (g := fun x => { x with deadline := deadline }) fun _ => ⟨rfl, rfl, rfl, rfl⟩)).same
          rfl rfl rfl rfl hreclaim rfl
      · exact hcounted.same rfl rfl rfl rfl hreclaim rfl

end

end Sys2Proof.Machine


/-! SUPPORT. Misses, entries, the head's tests and the service of a window keep the agreement (R76, R80 to R82, R85 to R88, R104,
R116). -/

namespace Sys2Proof.Machine

/-! ### Misses -/

/-- The slot whose fetch is out of its queue until it is reported. -/
def LateReport.loose : LateReport → List SlotNo
  | .none => []
  | .offline _ f => [f.slot]
  | .beyond _ _ => []

/-- A page beyond the page count may be reported. -/
def LateReport.Open (r : LateReport) (s : State) : Prop := ∀ c n, r = .beyond c n → s.Room c n

section
variable {s t : State} {held : List SlotNo} {n : SlotNo} {c : ChannelNo} {zone : Zone} {k block : Nat} {deadline : Time} {i : Nat}

theorem LateReport.Open.kept {r : LateReport} (h : r.Open s) (hk : KeepsReads s t) : r.Open t := fun c n hr => (h c n hr).kept hk

/-- A fetch asked of a channel that is not OFFLINE. -/
theorem State.Sound.asked {f : Fetch} (h : s.Sound held [f.slot]) (hblock : channelOf f.block = c) (hpages : f.pagesDone = 0)
    (hcancel : f.cancelPending = false) : (s.updChan c (Channel.asked f)).Sound held [] := by
  have hperm := insertFetch_perm f (s.chan c).queue
  have hmem : ∀ g, g ∈ insertFetch f (s.chan c).queue ↔ g = f ∨ g ∈ (s.chan c).queue := fun g => by rw [hperm.mem_iff, List.mem_cons]
  have hpart : ((s.chan c).asked f).partials.length = (s.chan c).partials.length := by
    refine (hperm.filter _).length_eq.trans ?_
    rw [List.filter_cons_of_neg (by simp [hpages])]
    rfl
  refine { h with queues := h.queues.channel (oneChannel_updChan s c _) ?_ (fun g hg => ?_) (fun m issued hm => ?_)
                    ⟨hpart ▸ (h.queues.partials c).1, fun hb => ?_⟩ }
  · rw [List.append_nil]
    exact List.perm_append_comm.trans (hperm.map Fetch.slot).symm
  · rcases (hmem g).mp hg with rfl | hg
    · exact ⟨hblock, by rw [hpages]; decide, fun hc => by rw [hcancel] at hc; cases hc⟩
    · obtain ⟨hb, hp, r, hr, hzero⟩ := h.queues.fetch c g hg
      exact ⟨hb, hp, fun hc => hr.trans (congrArg some (hzero hc))⟩
  · obtain ⟨g, hg, hgm⟩ := h.queues.op c m issued hm
    exact ⟨g, (hmem g).mpr (.inr hg), hgm⟩
  · rw [hpart]
    obtain ⟨op, g, ho, hkind, hg, hzero⟩ := hb
    refine (h.queues.partials c).2 ⟨op, g, ho, hkind, ((hmem g).mp hg).resolve_left fun he => ?_, hzero⟩
    obtain ⟨x, hx, hxs⟩ := h.queues.op c g.slot op.issued (ho.trans (by rw [← hkind]))
    exact (h.queues.apart f.slot List.mem_cons_self).2 c x hx (hxs.trans (congrArg Fetch.slot he))

theorem State.Sound.requestFetch (h : s.Sound held [n]) :
    (s.requestFetch n block deadline).1.Sound held (s.requestFetch n block deadline).2.loose
      ∧ (s.requestFetch n block deadline).2.Open (s.requestFetch n block deadline).1 := by
  cases hoff : (s.chan (channelOf block)).offline with
  | true =>
    rw [requestFetch_offline hoff]
    have hcounted : (s.updChan (channelOf block) fun ch => { ch with nextOrder := ch.nextOrder + 1 }).Sound held [n] :=
      h.updChan rfl (.inl rfl)
    exact ⟨hcounted, fun c n hr => by cases hr⟩
  | false =>
    have hasked : (s.updChan (channelOf block) (Channel.asked (s.fetchFor n block deadline))).Sound held [] :=
      State.Sound.asked (f := s.fetchFor n block deadline) h rfl rfl rfl
    cases hopen : s.channelOpen (channelOf block) with
    | false =>
      rw [requestFetch_queued hoff hopen]
      exact ⟨hasked, fun c n hr => by cases hr⟩
    | true =>
      have hop : ((s.updChan (channelOf block) (Channel.asked (s.fetchFor n block deadline))).chan (channelOf block)).op = none := by
        rw [chan_updChan_self]
        simp only [State.channelOpen, Bool.and_eq_true, Option.isNone_iff_eq_none] at hopen
        obtain ⟨⟨hnone, -⟩, -⟩ := hopen
        exact hnone
      obtain ⟨hread, hroom⟩ := hasked.readNext hop
      generalize hr : (s.updChan (channelOf block) (Channel.asked (s.fetchFor n block deadline))).readNext (channelOf block) = r at hread hroom
      obtain ⟨v, m⟩ := r
      cases m with
      | none =>
        rw [requestFetch_read hoff hopen hr]
        exact ⟨hread, fun c n hr => by cases hr⟩
      | some m =>
        rw [requestFetch_readBeyond hoff hopen hr]
        refine ⟨hread, fun c n hr => ?_⟩
        obtain ⟨rfl, rfl⟩ := LateReport.beyond.inj hr
        exact hroom m rfl

/-- A slot taken for a key that no slot carries: FILLING, its fetch not yet asked for. -/
theorem State.Sound.slotTaken {cache : Cache} (h : s.Sound held []) (ht : s.cache.takeSlot = some (n, cache))
    (hkey : ∀ m y, s.cache.slot m = some y → y.zone = zone → y.k ≠ k) :
    (s.slotTaken zone k deadline n cache).Sound (n :: held) [n] := by
  obtain ⟨htakes, hnew⟩ := h.cache.takeSlot ht
  have hslot : ∀ m, (s.slotTaken zone k deadline n cache).cache.filling m = if m = n then some 1 else s.cache.filling m := fun m => by
    have hget : (s.slotTaken zone k deadline n cache).cache.slot m = if m = n then some
        { state := .filling, zone := zone, k := k, refs := 1, pagesDone := 0, patched := 0, deadline := deadline } else s.cache.slot m := by
      show Sparse.get (Sparse.put cache.slots n.val _) m.val = _
      rw [Sparse.get_put]
      by_cases hm : m = n
      · rw [if_pos (congrArg Fin.val hm).symm, if_pos hm]
      · rw [if_neg fun he => hm (Fin.ext he.symm), if_neg hm, ← htakes.slot m hm]
        rfl
    rw [Cache.filling, hget]
    by_cases hm : m = n
    · rw [if_pos hm, if_pos hm]
      rfl
    · rw [if_neg hm, if_neg hm]
      rfl
  have hfree : s.cache.filling n = none := by
    rw [Cache.filling]
    cases hx : s.cache.slot n with
    | none => rfl
    | some x =>
      refine if_neg fun hfill => ?_
      rw [htakes.settled x hx] at hfill
      cases hfill
  refine { h with cache := ?_, queues := ?_ }
  · exact h.cache.put (counts := { cache.counts with miss := inc cache.counts.miss }) htakes hnew rfl rfl hkey
  · refine h.queues.start hfree ?_ fun m hm => ?_
    · rw [hslot, if_pos rfl]
      simp
    · rw [hslot, if_neg hm]

theorem State.Sound.lookup {found : Found} (h : s.Sound held []) (hf : s.lookup zone k block deadline = some found) :
    found.state.Sound (found.slot :: held) found.report.loose ∧ found.report.Open found.state := by
  unfold State.lookup at hf
  split at hf
  · rename_i m x hfind
    obtain rfl := Option.some.inj hf
    exact ⟨h.hit (findKey_some hfind h.cache.wf), fun c n hr => by cases hr⟩
  · rename_i hfind
    cases ht : s.cache.takeSlot with
    | none => simp [State.allocate, ht] at hf
    | some p =>
      obtain ⟨m, cache⟩ := p
      rw [allocate_eq ht] at hf
      obtain rfl := Option.some.inj hf
      exact (h.slotTaken ht (key_of_findKey_none hfind h.cache)).requestFetch

/-! ### Entries -/

theorem State.Sound.appendEntry {e : Entry} {x : Context} {loose : List SlotNo} (h : s.Sound (e.slot.toList ++ held) loose)
    (hx : s.ctx? i = some x) (hst : x.state ≠ .spent) : (s.appendEntry i e).Sound held loose := by
  refine State.Sound.countStreams (h.updCtx hx ?_ fun hs => absurd hs hst)
  have hslots : ({ x with window := x.window ++ [e], gen := x.advance x.gen } : Context).slots = x.slots ++ e.slot.toList := by
    rw [Context.slots, Context.slots, List.filterMap_append]
    cases he : e.slot <;> simp [he]
  rw [hslots, List.append_assoc]
  exact List.perm_append_comm.trans (List.Perm.of_eq (List.append_assoc ..))

theorem KeepsReads.appendEntry (e : Entry) : KeepsReads s (s.appendEntry i e) := (KeepsReads.refl s).updCtx.countStreams

theorem State.Sound.createEntry {x : Context} {r : LateReport} (h : s.Sound held []) (hx : s.ctx? i = some x) (hst : x.state ≠ .spent)
    (hnew : s.createEntry i x = some (t, r)) : t.Sound held r.loose ∧ r.Open t := by
  unfold State.createEntry at hnew
  dsimp only at hnew
  split at hnew
  · obtain ⟨rfl, rfl⟩ := Prod.mk.inj (Option.some.inj hnew)
    exact ⟨State.Sound.appendEntry h hx hst, fun c n hr => by cases hr⟩
  · split at hnew
    · cases hnew
    · rename_i found hfound
      obtain ⟨hsound, hopen⟩ := h.lookup hfound
      have hx' : found.state.ctx? i = some x := by rw [← hx, State.ctx?, State.ctx?, lookup_streams hfound]
      have happend : ∀ e : Entry, e.slot = some found.slot →
          (found.state.appendEntry i e).Sound held found.report.loose ∧ found.report.Open (found.state.appendEntry i e) :=
        fun e he => ⟨State.Sound.appendEntry (by rw [he]; exact hsound) hx' hst, hopen.kept (.appendEntry e)⟩
      obtain ⟨rfl, rfl⟩ := Prod.mk.inj (Option.some.inj hnew)
      refine happend _ ?_
      split
      · split <;> rfl
      · rfl

/-! ### The head -/

section
variable {loose : List SlotNo}

theorem State.Sound.dropHead {x : Context} (h : s.Sound held loose) (hx : s.ctx? i = some x) : (s.dropHead i x).Sound held loose := by
  unfold State.dropHead
  split
  · exact h
  · rename_i e rest hw
    refine State.Sound.countStreams (State.Sound.releaseEntry (h.updCtx hx ?_ fun hs => ?_))
    · have hslots : x.slots = e.slot.toList ++ rest.filterMap Entry.slot := by
        rw [Context.slots, hw, List.filterMap_cons]
        cases e.slot <;> rfl
      rw [hslots, List.append_assoc]
      exact List.perm_append_comm_assoc _ _ _
    · have := h.spent _ (Sparse.mem_of_get hx) hs
      rw [hw] at this
      cases this

theorem State.Sound.testHead (h : s.Sound held loose) : (s.testHead i).1.Sound held loose := by
  unfold State.testHead
  split
  · exact h
  · rename_i x hx
    split
    · exact h
    · split
      · exact h.dropHead hx
      · exact h.policyTest

end

theorem KeepsReads.dropHead {x : Context} : KeepsReads s (s.dropHead i x) := by
  unfold State.dropHead
  split
  · exact .refl s
  · exact KeepsReads.countStreams ((KeepsReads.refl s).updCtx.trans (releaseEntry_keepsReads _))

theorem KeepsReads.testHead : KeepsReads s (s.testHead i).1 := by
  unfold State.testHead
  split
  · exact .refl s
  · split
    · exact .refl s
    · split
      · exact .dropHead
      · exact (KeepsReads.refl s).policyTest i

/-! ### The service of a window -/

theorem State.Sound.report {r : LateReport} (h : s.Sound held r.loose) (hopen : r.Open s) : (s.report r).Sound held [] := by
  cases r with
  | none => exact h
  | offline c f => exact State.Sound.finishPatched h
  | beyond c n =>
    obtain ⟨hpage, hop⟩ := State.Sound.completePage none h (hopen c n rfl)
    exact hpage.chooseFetch _ hop

theorem State.Sound.serve (fuel : Nat) (fresh : Bool) (h : s.Sound held []) : (s.serve i fuel fresh).Sound held [] := by
  induction fuel generalizing s fresh with
  | zero => exact h
  | succ fuel ih =>
    rw [State.serve]
    split
    · exact h
    · rename_i x hx
      split
      · rename_i hdel
        have hst : x.state ≠ .spent := fun hs => by simp [Context.delivering, hs] at hdel
        split
        · split
          · exact ih _ h.testHead
          · split
            · split
              · rename_i u r hnew
                obtain ⟨hu, hopen⟩ := h.createEntry hx hst hnew
                exact ih _ (hu.report hopen)
              · exact h
            · exact h
        · split
          · split
            · exact h.enterSpent _
            · exact h
          · split
            · rename_i u r hnew
              obtain ⟨hu, hopen⟩ := h.createEntry hx hst hnew
              exact ih _ (hu.testHead.report (hopen.kept .testHead))
            · exact h
      · exact h

theorem State.Sound.serveNow (fresh : Bool) (h : s.Sound held []) : (s.serveNow i fresh).Sound held [] := h.serve _ fresh

theorem State.Sound.staleTest (h : s.Sound held []) : (s.staleTest i).Sound held [] := by
  unfold State.staleTest
  split
  · exact h
  · rename_i x hx
    split
    · split
      · split
        · exact (h.dropHead hx).serveNow true
        · exact h
      · exact h
    · exact h

theorem State.Sound.staleTestAll (h : s.Sound held []) : s.staleTestAll.Sound held [] := h.foldl (fun _ _ hu => hu.staleTest) _

theorem State.Sound.takeStream {x : Context} (h : s.Sound held []) : (s.takeStream i x).Sound held [] := by
  unfold State.takeStream
  split
  · exact h.enterSpent _
  · refine State.Sound.serveNow false (h.keepWindow (fun _ _ => rfl) fun y _ hs => absurd hs ?_)
    dsimp only
    split <;> decide

/-- A window cut down to the entries that pass a test; the others are withdrawn. -/
theorem State.Sound.filterWindow {f : Context → Context} {x : Context} {keep : Entry → Bool} (h : s.Sound held []) (hx : s.ctx? i = some x)
    (hw : (f x).window = x.window.filter keep) (hst : (f x).state ≠ .spent) :
    ((s.updCtx i f).withdraw (x.window.filter fun e => !keep e)).Sound held [] := by
  refine State.Sound.withdraw (h.updCtx hx ?_ fun hs => absurd hs hst)
  have hsplit : (x.window.filterMap Entry.slot).Perm
      ((x.window.filter fun e => !keep e).filterMap Entry.slot ++ (x.window.filter keep).filterMap Entry.slot) := by
    rw [← List.filterMap_append]
    exact (List.perm_append_comm.trans (List.filter_append_perm keep x.window)).symm.filterMap _
  rw [Context.slots, Context.slots, hw]
  exact (hsplit.append_left held).trans ((List.perm_append_comm_assoc _ _ _).trans (List.Perm.of_eq (List.append_assoc ..).symm))

theorem State.Sound.playoutLooping {x : Context} {l : Loop} {dr : Distance} (h : s.Sound held []) (hx : s.ctx? i = some x) :
    (s.playoutLooping i x l dr).Sound held [] :=
  State.Sound.serveNow _ (h.filterWindow hx rfl nofun)

theorem State.Sound.cutStream {x : Context} {dr : Distance} (h : s.Sound held []) (hx : s.ctx? i = some x) :
    (s.cutStream i x dr).Sound held [] :=
  State.Sound.serveNow _ (h.filterWindow hx rfl nofun)

end

end Sys2Proof.Machine


/-! SUPPORT. The channels' operations keep the agreement: directory pages, programs, probes and the ends of page reads (R118 to R122,
R126 to R129). -/

namespace Sys2Proof.Machine

section
variable {s t : State} {held loose : List SlotNo} {n : SlotNo} {c : ChannelNo}

/-! ### Blocks it does not speak of -/

theorem State.Sound.onBus {f : BusPort → BusPort} (h : s.Sound held loose) : (s.onBus f).Sound held loose := h.of_eq rfl rfl rfl

theorem State.Sound.onDir {f : Directory → Directory} (h : s.Sound held loose) : (s.onDir f).Sound held loose := h.of_eq rfl rfl rfl

theorem State.Sound.onClock {f : Clock → Clock} (h : s.Sound held loose) : (s.onClock f).Sound held loose := h.of_eq rfl rfl rfl

theorem State.Sound.onCue {f : CueUnit → CueUnit} (h : s.Sound held loose) : (s.onCue f).Sound held loose := h.of_eq rfl rfl rfl

theorem State.Sound.onDelivery {f : Delivery → Delivery} (h : s.Sound held loose) : (s.onDelivery f).Sound held loose :=
  h.of_eq rfl rfl rfl

theorem State.Sound.onStatus {f : Status → Status} (h : s.Sound held loose) : (s.onStatus f).Sound held loose := h.of_eq rfl rfl rfl

/-! ### Operations that read no page of a fetch -/

theorem State.Sound.issue {kind : OperationKind} (h : s.Sound held loose) (hk : ∀ n, kind ≠ .fetchPage n) :
    (s.issue c kind).Sound held loose :=
  h.updChan rfl (.inr fun n _ ho => hk n (congrArg Operation.kind (Option.some.inj ho)))

theorem State.Sound.endOp (h : s.Sound held loose) : (s.endOp c).Sound held loose := h.updChan rfl (.inr nofun)

theorem State.Sound.nextRecordPage {header : DirectoryHeader} {page : Nat} {accepted : List ZoneRecord} (h : s.Sound held loose) :
    (s.nextRecordPage header page accepted).Sound held loose := by
  unfold State.nextRecordPage
  split
  · exact h.onDir
  · exact h.onDir.onStatus

theorem State.Sound.directoryPageDone {data : Option (List Byte)} (h : s.Sound held loose) :
    (s.directoryPageDone data).Sound held loose := by
  unfold State.directoryPageDone
  split
  · exact h
  · split
    · exact h.onDir.onStatus
    · exact h.nextRecordPage
  · dsimp only
    split
    · exact h.onDir.nextRecordPage
    · exact h.onDir.nextRecordPage

theorem State.Sound.issueDirectory (fuel : Nat) (h : s.Sound held loose) : (s.issueDirectory fuel).Sound held loose := by
  induction fuel generalizing s with
  | zero => exact h
  | succ fuel ih =>
    rw [State.issueDirectory]
    split
    · exact h
    · dsimp only
      split
      · exact ih h.directoryPageDone
      · split
        · split
          · exact h.issue nofun
          · exact ih h.countChan.directoryPageDone
        · exact h

theorem State.Sound.takeWaitingPage (h : s.Sound held loose) : (s.takeWaitingPage c).Sound held loose := by
  unfold State.takeWaitingPage
  split
  · exact h.issueDirectory _
  · exact h

theorem State.Sound.runProgram {p : Program} {stage : ProgramStage} (h : s.Sound held loose) : (s.runProgram p stage).Sound held loose :=
  h.onDir.issue nofun

theorem State.Sound.choose (h : s.Sound held loose) : (s.choose c).Sound held loose := by
  unfold State.choose
  split
  · exact h.runProgram
  · dsimp only
    split
    · exact h.takeWaitingPage
    · rename_i hop
      exact h.takeWaitingPage.chooseFetch _ (by simpa using hop)

theorem State.Sound.beginProbe (h : s.Sound held loose) : (s.beginProbe c).Sound held loose := by
  have hready : (s.updChan c fun ch => { ch with offline := false, probePending := false, timeouts := 0, pageCount := none }).Sound
      held loose := h.updChan rfl (.inl rfl)
  exact hready.issue nofun

theorem State.Sound.afterOperation (h : s.Sound held loose) : (s.afterOperation c).Sound held loose := by
  unfold State.afterOperation
  split
  · exact h
  · split
    · exact h.beginProbe
    · split
      · exact h.takeWaitingPage
      · exact h.choose

theorem State.Sound.probeAll (h : s.Sound held loose) : s.probeAll.Sound held loose := by
  refine h.foldl (fun u c hu => ?_) _
  have hpending : (u.updChan c fun ch => { ch with probePending := true }).Sound held loose := hu.updChan rfl (.inl rfl)
  dsimp only
  split
  · exact hpending.beginProbe
  · exact hpending

/-! ### The ends of page reads -/

/-- The reading of a page of a fetch ends: the page may be reported. -/
theorem State.Sound.endRead {op : Operation} {f : Channel → Channel} (h : s.Sound held loose) (ho : (s.chan c).op = some op)
    (hk : op.kind = .fetchPage n) (hq : (f (s.chan c)).queue = (s.chan c).queue) (hop : (f (s.chan c)).op = none) :
    (s.updChan c f).Sound held loose ∧ (s.updChan c f).Room c n := by
  refine ⟨h.updChan hq (.inr fun m issued he => by rw [hop] at he; cases he), ?_, fun g hg hgn hz => ?_⟩
  · rw [chan_updChan_self]
    exact hop
  · rw [chan_updChan_self] at hg ⊢
    rw [Channel.partials, hq]
    rw [hq] at hg
    exact (h.queues.partials c).2 ⟨op, g, ho, hgn ▸ hk, hg, hz⟩

theorem State.Sound.fetchPageDone {data : Option (List Byte)} (h : s.Sound held loose) (hroom : s.Room c n) :
    (s.fetchPageDone c n data).Sound held loose := by
  unfold State.fetchPageDone
  split
  · rename_i f hf
    obtain ⟨hmem, hslot⟩ := mem_of_fetchOf hf
    split
    · rename_i hcancel
      obtain ⟨-, -, r, hr, hzero⟩ := h.queues.fetch c f hmem
      exact h.removeFetch ⟨f, hmem, hslot⟩ (not_reading_of_op hroom.1) (hslot ▸ hr.trans (congrArg some (hzero hcancel)))
    · obtain ⟨hpage, -⟩ := h.completePage data hroom
      exact hpage
  · exact h

theorem countAnswer_queue (out : PageOutcome) (ch : Channel) : (ch.countAnswer out).queue = ch.queue := by
  cases out <;> rfl

theorem State.Sound.offlineAtThird (h : s.Sound held loose) : (s.offlineAtThird c).Sound held loose := by
  unfold State.offlineAtThird
  split
  · exact h.enterOffline
  · exact h

theorem State.Sound.timedOut {op : Operation} (h : s.Sound held loose) (ho : (s.chan c).op = some op) :
    (s.timedOut c op.kind).Sound held loose := by
  have hcounted : (s.updChan c Channel.countTimeout).Sound held loose := h.updChan rfl (.inr nofun)
  unfold State.timedOut
  dsimp only
  split
  · rename_i n hk
    obtain ⟨hread, hroom⟩ := h.endRead (f := Channel.countTimeout) ho hk rfl rfl
    exact (hread.fetchPageDone hroom).offlineAtThird.afterOperation
  · exact hcounted.offlineAtThird.directoryPageDone.afterOperation.issueDirectory _
  · exact hcounted.offlineAtThird.afterOperation
  · exact hcounted.offlineAtThird.afterOperation
  · exact h
  · exact h
  · exact h

theorem State.Sound.answered {op : Operation} {out : PageOutcome} (h : s.Sound held loose) (ho : (s.chan c).op = some op) :
    (s.answered c op.kind out).Sound held loose := by
  have hended : ((s.updChan c (Channel.countAnswer out)).endOp c).Sound held loose := by
    rw [State.endOp, updChan_updChan]
    exact h.updChan (countAnswer_queue out _) (.inr nofun)
  unfold State.answered
  dsimp only
  split
  · rename_i n hk
    have hread : ((s.updChan c (Channel.countAnswer out)).endOp c).Room c n := by
      rw [State.endOp, updChan_updChan]
      exact (h.endRead (f := fun ch => { ch.countAnswer out with op := none }) ho hk (countAnswer_queue out _) rfl).2
    exact (hended.fetchPageDone hread).afterOperation
  · exact hended.directoryPageDone.afterOperation.issueDirectory _
  · exact hended.afterOperation
  · exact hended.afterOperation
  · exact h
  · exact h
  · exact h

theorem State.Sound.takeAnswer {op : Operation} {out : PageOutcome} (h : s.Sound held loose) (ho : (s.chan c).op = some op) :
    (s.takeAnswer c op out).Sound held loose := by
  unfold State.takeAnswer
  split
  · exact h.timedOut ho
  · exact h.answered ho

/-! ### The ends of probes -/

theorem State.Sound.probeFinished (h : s.Sound held loose) : s.probeFinished.Sound held loose := by
  unfold State.probeFinished
  split
  · exact ⟨h.wf, h.bound, h.spent, h.cache, h.queues⟩
  · exact h

theorem State.Sound.probeFailed (h : s.Sound held loose) : (s.probeFailed c).Sound held loose := by
  have hnone : (s.updChan c fun k => { k with pageCount := none }).Sound held loose := h.updChan rfl (.inl rfl)
  exact hnone.enterOffline.takeWaitingPage.probeFinished

theorem State.Sound.attemptTimedOut {kind : OperationKind} (h : s.Sound held loose) : (s.attemptTimedOut c kind).Sound held loose := by
  have hcounted : (s.countChan c fun k => { k with probeFailures := inc k.probeFailures }).Sound held loose := h.countChan
  unfold State.attemptTimedOut
  dsimp only
  split
  · split
    · exact hcounted.issue nofun
    · exact hcounted.probeFailed
  · exact hcounted.endOp.afterOperation

theorem State.Sound.attemptAnswered {kind : OperationKind} {pages : Nat} (h : s.Sound held loose) :
    (s.attemptAnswered c kind pages).Sound held loose := by
  unfold State.attemptAnswered
  split
  · exact h.endOp.afterOperation
  · have hread : ((s.endOp c).updChan c fun k => { k with pageCount := some pages }).Sound held loose := h.endOp.updChan rfl (.inl rfl)
    exact hread.afterOperation.probeFinished

/-! ### Programs -/

theorem State.Sound.answerStore {request : StoreRequest} {silent : Bool} {o : StoreOutcome} (h : s.Sound held loose) :
    (s.answerStore request silent o).Sound held loose := by
  unfold State.answerStore
  dsimp only
  split
  · exact h.onDir
  · exact h.onDir.onBus

theorem State.Sound.concludeProgram {p : Program} {o : StoreOutcome} (h : s.Sound held loose) : (s.concludeProgram p o).Sound held loose := by
  unfold State.concludeProgram State.layoutFromStore
  split
  · exact h.onDir.answerStore.onDir
  · exact h.onDir.answerStore

theorem State.Sound.endProgram {p : Program} {o : StoreOutcome} (h : s.Sound held loose) : (s.endProgram p o).Sound held loose :=
  h.endOp.concludeProgram.afterOperation

theorem State.Sound.takeRequest {request : StoreRequest} {rest : List StoreRequest} (h : s.Sound held loose) :
    (s.takeRequest request rest).Sound held loose := by
  unfold State.takeRequest
  dsimp only
  split
  · exact h.onDir.answerStore
  · exact h.onDir.onDir

theorem State.Sound.nextOperation {p : Program} (h : s.Sound held loose) : (s.nextOperation p).Sound held loose := by
  unfold State.nextOperation
  split
  · exact h.runProgram
  · exact h.endProgram

end

end Sys2Proof.Machine


/-! SUPPORT. States without a context or a fetch agree: after power-on, at the entry to SERVICE and after a counted CLEAR (R94, R112
to R114, R129, R130). -/

namespace Sys2Proof.Machine

section
variable {s t : State} {c : Cache} {n : SlotNo}

/-- An empty cache agrees with no references. -/
theorem cacheSound_empty (hslots : c.slots = []) (hnext : c.freeNext = 0) (htail : c.freeTail = []) (hreclaim : c.reclaim = []) :
    c.Sound [] := by
  have hnone : ∀ n, c.slot n = none := fun n => by
    rw [Cache.slot, hslots]
    rfl
  constructor
  · rw [hslots]
    exact List.Pairwise.nil
  · simp [hslots]
  · intro n m x y hx
    rw [hnone] at hx
    cases hx
  · intro n x hx
    rw [hnone] at hx
    cases hx
  · intro n hn
    cases hn
  · rw [hnext]
    exact Nat.zero_le _
  · rw [htail]
    exact List.nodup_nil
  · simp [htail]
  · intro n
    exact iff_of_true (hnone n) (.inr (by rw [hnext]; exact Nat.zero_le _))
  · rw [hreclaim]
    exact List.nodup_nil
  · simp [hreclaim, hnone]
  · intro n x hx
    rw [hnone] at hx
    cases hx

/-! ### A cache at a counted CLEAR -/

theorem mem_slotsWhere {p : Slot → Bool} (hwf : Sparse.wf c.slots) : n ∈ c.slotsWhere p ↔ ∃ x, c.slot n = some x ∧ p x = true := by
  unfold Cache.slotsWhere
  rw [List.mem_filterMap]
  constructor
  · rintro ⟨⟨m, x⟩, hmem, hn⟩
    split at hn
    · split at hn
      · rename_i hp
        obtain rfl := Option.some.inj hn
        exact ⟨x, (Cache.slot_eq hwf).mpr hmem, hp⟩
      · cases hn
    · cases hn
  · rintro ⟨x, hx, hp⟩
    refine ⟨(n.val, x), (Cache.slot_eq hwf).mp hx, ?_⟩
    rw [dif_pos n.isLt, if_pos hp]

theorem slotsWhere_nodup {p : Slot → Bool} (hwf : Sparse.wf c.slots) (hbound : ∀ x ∈ c.slots, x.1 < Config.slots) :
    (c.slotsWhere p).Nodup := by
  have hval : ((c.slotsWhere p).map Fin.val).Nodup := by
    rw [slotsWhere_val hbound]
    refine List.Pairwise.imp Nat.ne_of_lt ?_
    exact List.pairwise_map.mpr (List.Pairwise.sublist List.filter_sublist hwf)
  exact hval.of_map _

/-- A VALID slot keeps its key at a counted CLEAR, without references; the others are emptied. -/
theorem clearCounts_slot {y : Slot} (hwf : Sparse.wf c.slots) (hwf' : Sparse.wf c.clearCounts.slots) :
    c.clearCounts.slot n = some y ↔ ∃ x, c.slot n = some x ∧ x.state = .valid ∧ y = { x with refs := 0 } := by
  rw [Cache.slot_eq hwf', Cache.clearCounts, List.mem_map]
  constructor
  · rintro ⟨⟨m, x⟩, hmem, he⟩
    obtain ⟨rfl, rfl⟩ := Prod.mk.inj he
    obtain ⟨hmem, hv⟩ := List.mem_filter.mp hmem
    exact ⟨x, (Cache.slot_eq hwf).mpr hmem, by simpa using hv, rfl⟩
  · rintro ⟨x, hx, hv, rfl⟩
    exact ⟨(n.val, x), List.mem_filter.mpr ⟨(Cache.slot_eq hwf).mp hx, by simpa using hv⟩, rfl⟩

theorem clearCounts_slot_none (hwf : Sparse.wf c.slots) (hwf' : Sparse.wf c.clearCounts.slots) :
    c.clearCounts.slot n = none ↔ c.slot n = none ∨ ∃ x, c.slot n = some x ∧ x.state ≠ .valid := by
  have hiff := fun y => clearCounts_slot (y := y) (n := n) hwf hwf'
  constructor
  · intro hnone
    cases hx : c.slot n with
    | none => exact .inl rfl
    | some x =>
      refine .inr ⟨x, rfl, fun hv => ?_⟩
      have := (hiff { x with refs := 0 }).mpr ⟨x, hx, hv, rfl⟩
      rw [hnone] at this
      cases this
  · intro hor
    cases hy : c.clearCounts.slot n with
    | none => rfl
    | some y =>
      obtain ⟨x, hx, hv, -⟩ := (hiff y).mp hy
      rcases hor with hnone | ⟨z, hz, hnv⟩
      · rw [hx] at hnone
        cases hnone
      · obtain rfl := Option.some.inj (hx.symm.trans hz)
        exact absurd hv hnv

theorem Cache.Sound.clearCounts {held : List SlotNo} (h : c.Sound held) : c.clearCounts.Sound [] := by
  obtain ⟨hwf', hbound'⟩ := clearCounts_slots h.wf h.bound
  have hiff := fun {n y} => clearCounts_slot (n := n) (y := y) h.wf hwf'
  have hnone := fun {n} => clearCounts_slot_none (n := n) h.wf hwf'
  have hmem := fun {n p} => mem_slotsWhere (n := n) (p := p) h.wf
  have htaken : ∀ {n x}, c.slot n = some x → ¬ (n ∈ c.freeTail ∨ c.freeNext ≤ n.val) := fun {n x} hx hf => by
    rw [(h.free n).mpr hf] at hx
    cases hx
  refine ⟨hwf', hbound', fun n m x y hx hy hz hk => ?_, fun n x hx => ?_, fun n hn => absurd hn List.not_mem_nil, h.next, ?_, fun n hn => ?_, fun n => ?_,
    ?_, fun n => ?_, fun n x hx hp => ?_⟩
  · obtain ⟨x', hx', -, rfl⟩ := hiff.mp hx
    obtain ⟨y', hy', -, rfl⟩ := hiff.mp hy
    exact h.keys n m x' y' hx' hy' hz hk
  · obtain ⟨x, -, -, rfl⟩ := hiff.mp hx
    rfl
  · refine List.nodup_append.mpr ⟨h.tail, slotsWhere_nodup h.wf h.bound, fun a ha b hb hab => ?_⟩
    obtain ⟨x, hx, -⟩ := hmem.mp hb
    exact htaken hx (.inl (hab ▸ ha))
  · rcases List.mem_append.mp hn with hn | hn
    · exact h.below n hn
    · obtain ⟨x, hx, -⟩ := hmem.mp hn
      exact Nat.lt_of_not_le fun hle => htaken hx (.inr hle)
  · rw [hnone, h.free n]
    show _ ↔ n ∈ c.freeTail ++ _ ∨ c.freeNext ≤ n.val
    rw [List.mem_append, hmem]
    simp only [bne_iff_ne]
    exact or_right_comm
  · refine List.nodup_append.mpr ⟨h.once, slotsWhere_nodup h.wf h.bound, fun a ha b hb hab => ?_⟩
    obtain ⟨x, hx, hp⟩ := hmem.mp hb
    obtain ⟨y, hy, -, hzero⟩ := (h.reclaim a).mp ha
    obtain rfl := Option.some.inj (hx.symm.trans (hab ▸ hy))
    simp [hzero] at hp
  · show n ∈ c.reclaim ++ _ ↔ _
    rw [List.mem_append, hmem, h.reclaim n]
    constructor
    · rintro (⟨x, hx, hv, -⟩ | ⟨x, hx, hp⟩)
      · exact ⟨_, hiff.mpr ⟨x, hx, hv, rfl⟩, hv, rfl⟩
      · have hv : x.state = .valid := by simpa using (Bool.and_eq_true_iff.mp hp).1
        exact ⟨_, hiff.mpr ⟨x, hx, hv, rfl⟩, hv, rfl⟩
    · rintro ⟨y, hy, -⟩
      obtain ⟨x, hx, hv, rfl⟩ := hiff.mp hy
      by_cases hzero : x.refs = 0
      · exact .inl ⟨x, hx, hv, hzero⟩
      · exact .inr ⟨x, hx, by simp [hv, hzero]⟩
  · obtain ⟨y, -, hv, rfl⟩ := hiff.mp hx
    have hp' : y.state = .patched := hp
    rw [hv] at hp'
    cases hp'

/-! ### The states -/

/-- A channel that reads no page of a fetch and has none waiting. -/
def Channel.Idle (k : Channel) : Prop := k.queue = [] ∧ ∀ n issued, k.op ≠ some { kind := .fetchPage n, issued := issued }

theorem sound_of_idle (hctx : t.streams.contexts = []) (hcache : t.cache.Sound []) (hfill : ∀ n, t.cache.filling n = none)
    (hq : ∀ c, (t.chan c).Idle) : t.Sound [] [] := by
  have hno : ∀ {c : ChannelNo} {f : Fetch}, f ∉ (t.chan c).queue := fun {c f} hf => by
    rw [(hq c).1] at hf
    cases hf
  refine ⟨?_, ?_, ?_, ?_, ⟨fun c f hf => absurd hf hno, fun c => ?_, fun c d f hf => absurd hf hno, List.nodup_nil, by simp,
    fun n hn => absurd (hfill n) hn, fun c n issued ho => absurd ho ((hq c).2 n issued), fun c => ?_⟩⟩
  · rw [hctx]
    exact List.Pairwise.nil
  · simp [hctx]
  · simp [hctx]
  · rw [State.references, hctx]
    exact hcache
  · rw [(hq c).1]
    exact List.nodup_nil
  · have hpart : (t.chan c).partials = [] := by rw [Channel.partials, (hq c).1]; rfl
    rw [hpart]
    exact ⟨Nat.zero_le _, fun _ => Nat.zero_le _⟩

theorem powerOn_sound (straps : Station) (pending : List Instr) : (State.powerOn straps pending).Sound [] [] :=
  sound_of_laws (powerOn_tableLaw straps pending) (powerOn_cacheLaw straps pending) (powerOn_fetchLaw straps pending)

theorem dropFetches_idle (k : Channel) : k.dropFetches.Idle := by
  refine ⟨rfl, fun n issued ho => ?_⟩
  obtain ⟨o, -, ho⟩ := Option.map_eq_some_iff.mp ho
  have hkind : o.kind.discardFetch = .fetchPage n := congrArg Operation.kind ho
  revert hkind
  cases o.kind <;> nofun

theorem clearCounts_idle (k : Channel) : k.clearCounts.Idle := by
  refine ⟨rfl, fun n issued ho => ?_⟩
  obtain ⟨o, -, ho⟩ := Option.map_eq_some_iff.mp ho
  have hkind : o.kind.discard = .fetchPage n := congrArg Operation.kind ho
  revert hkind
  cases o.kind <;> nofun

theorem enterService_sound {src : Station} (h : s.streams.contexts = []) : (s.enterService src).Sound [] [] := by
  refine sound_of_idle h (cacheSound_empty rfl rfl rfl rfl) (fun n => rfl) fun c => ?_
  have hchan : (s.enterService src).chan c = (s.chan c).dropFetches := chan_mapChannels s _ c
  rw [hchan]
  exact dropFetches_idle _

theorem State.Sound.clearAll (h : s.Sound [] []) : s.clearAll.Sound [] [] := by
  rcases clearAll_cases s with ⟨-, he⟩ | ⟨-, he⟩
  · rw [he]
    exact h.onBus
  · rw [he]
    refine State.Sound.onStatus (State.Sound.onDir (State.Sound.onDelivery (sound_of_idle rfl h.cache.clearCounts (fun n => ?_) fun c => ?_)))
    · show s.cache.clearCounts.filling n = none
      refine Option.eq_none_iff_forall_ne_some.mpr fun r hr => ?_
      obtain ⟨y, hy, hfill, -⟩ := filling_eq_some.mp hr
      obtain ⟨x, -, hv, rfl⟩ := (clearCounts_slot h.cache.wf (clearCounts_slots h.cache.wf h.cache.bound).1).mp hy
      have hx : x.state = .filling := hfill
      rw [hv] at hx
      cases hx
    · have hchan : (s.fetch.channels.map Channel.clearCounts)[c] = (s.chan c).clearCounts := chan_mapChannels s _ c
      show ((s.fetch.channels.map Channel.clearCounts)[c]).Idle
      rw [hchan]
      exact clearCounts_idle _

end

end Sys2Proof.Machine


/-! SUPPORT. The clock, the cue unit, the bus port and the delivery unit keep the agreement (chapters 2, 4, 8, 9 and 1.5). -/

namespace Sys2Proof.Machine

section
variable {s : State} {i : Nat} {x : Context}

/-! ### The clock -/

theorem State.Sound.handCount {value : Time} (h : s.Sound [] []) : (s.handCount value).Sound [] [] := h.onClock.staleTestAll

theorem State.Sound.moveCount (h : s.Sound [] []) : s.moveCount.Sound [] [] := by
  unfold State.moveCount
  dsimp only
  split
  · exact h.onClock.onClock.handCount
  · exact h.handCount

theorem State.Sound.realMark (h : s.Sound [] []) : s.realMark.Sound [] [] := by
  unfold State.realMark
  split
  · split
    · exact h.onClock.onClock.handCount
    · exact h
  · exact h.moveCount
  · split
    · split
      · exact h.onClock.onClock.handCount
      · exact h
    · exact h
  · exact h.onClock.moveCount
  · exact h.onClock.moveCount

theorem State.Sound.syntheticMark (h : s.Sound [] []) : s.syntheticMark.Sound [] [] := h.onClock.onClock.moveCount

theorem State.Sound.watchExpires (h : s.Sound [] []) : s.watchExpires.Sound [] [] := by
  unfold State.watchExpires
  dsimp only
  split
  · exact h.onClock.syntheticMark
  · split
    · exact h.onClock.syntheticMark
    · exact h.onClock.onClock.onClock
  · exact h.onClock
  · exact h.onClock
  · exact h.onClock

theorem State.Sound.takeTiming {value : Time} (h : s.Sound [] []) : (s.takeTiming value).Sound [] [] := by
  unfold State.takeTiming
  split
  · exact h.onClock
  · exact h.onClock
  · exact h.onClock
  · exact h.onClock
  · exact h.onClock

theorem State.Sound.takePause (h : s.Sound [] []) : s.takePause.Sound [] [] := by
  unfold State.takePause
  dsimp only
  split
  · exact h.onClock
  · exact h.onClock
  · exact h.onClock.onClock
  · exact h.onClock.onClock
  · exact h.onClock.onClock

theorem State.Sound.transport {src : Station} {taken : State → State} (h : s.Sound [] []) (ht : (taken s).Sound [] []) :
    (s.transport src taken).Sound [] [] := by
  unfold State.transport
  split
  · split
    · exact ht
    · exact h.onClock
  · exact h

/-! ### The cue unit -/

theorem State.Sound.supersede {id : StreamId} (h : s.Sound [] []) : (s.supersede id).Sound [] [] := by
  unfold State.supersede
  split
  · exact h.silentFree.onCue
  · exact h

theorem State.Sound.weighCue {f : CueFields} {record : ZoneRecord} (h : s.Sound [] []) : (s.weighCue f record).Sound [] [] := by
  unfold State.weighCue
  dsimp only
  split
  · exact h.onCue
  · rename_i i hi
    obtain ⟨hlt, hfree, -⟩ := Sparse.lowestFree_spec hi
    split
    · exact h.onCue
    · exact (h.putCtx hlt hfree rfl).onCue.onCue.onBus

theorem State.Sound.takeCue {src : Station} {f : CueFields} (h : s.Sound [] []) : (s.takeCue src f).Sound [] [] := by
  unfold State.takeCue
  split
  · exact h.onCue
  · split
    · exact h.onCue
    · unfold State.cueStages
      split
      · split
        · exact h.supersede.onCue.weighCue
        · exact h.supersede.onCue
      · exact h.supersede.onCue

theorem State.Sound.actCut {time : Time} (h : s.Sound [] []) (hx : s.ctx? i = some x) : (s.actCut i x time).Sound [] [] :=
  h.countStreams.cutStream hx

theorem State.Sound.actPlayout {time : Time} (h : s.Sound [] []) (hx : s.ctx? i = some x) : (s.actPlayout i x time).Sound [] [] := by
  unfold State.actPlayout
  dsimp only
  split
  · exact h.countStreams.playoutLooping hx
  · exact h.countStreams

theorem State.Sound.notePlayout (h : s.Sound [] []) : (s.notePlayout i).Sound [] [] :=
  h.countStreams.keepWindow (fun _ _ => rfl) fun _ _ hs => ⟨hs, id⟩

theorem State.Sound.releaseContext {f : ReleaseFields} (h : s.Sound [] []) (hx : s.ctx? i = some x) :
    (s.releaseContext i x f).Sound [] [] := by
  unfold State.releaseContext
  split
  · exact h.silentFree.onCue
  · exact h.actPlayout hx
  · exact h.actCut hx
  · exact h.notePlayout
  · exact h.countStreams
  · exact h.countStreams
  · exact h.actCut hx
  · exact h.countStreams

theorem State.Sound.takeRelease {f : ReleaseFields} (h : s.Sound [] []) : (s.takeRelease f).Sound [] [] := by
  unfold State.takeRelease
  split
  · exact h.countStreams
  · split
    · rename_i hx
      exact h.releaseContext hx
    · exact h

theorem State.Sound.takeStopAll {src : Station} (h : s.Sound [] []) : (s.takeStopAll src).Sound [] [] :=
  h.foldl (fun _ _ hu => hu.silentFree.onCue) _

theorem State.Sound.takeOverBy {id : StreamId} (h : s.Sound [] []) : (s.takeOverBy id).Sound [] [] := by
  unfold State.takeOverBy
  split
  · exact h
  · split
    · exact h
    · exact h.silentFree.onCue

theorem State.Sound.expireOffer (h : s.Sound [] []) : (s.expireOffer i).Sound [] [] :=
  h.silentFree.of_eq rfl rfl rfl

theorem State.Sound.offerExpires {o : OfferRecord} (h : s.Sound [] []) : (s.offerExpires i o).Sound [] [] := by
  unfold State.offerExpires
  split
  · exact h.expireOffer
  · exact h.keepWindow (fun _ _ => rfl) fun _ _ hs => ⟨hs, id⟩
  · exact h

/-! ### The frames received -/

theorem State.Sound.broadcastFrame {frame : List Byte} {src : Station} {owner : State → State}
    (howner : ∀ u : State, u.Sound [] [] → (owner u).Sound [] []) (h : s.Sound [] []) : (s.broadcastFrame frame src owner).Sound [] [] := by
  have hreceived : ((s.received frame).enterBus .gap).boundary.Sound [] [] := h.onBus.onBus.onBus
  unfold State.broadcastFrame
  dsimp only
  split
  · split
    · exact hreceived
    · split
      · exact howner _ hreceived
      · exact hreceived.onBus
  · exact h

theorem State.Sound.judge {owner : State → State × Bool} (howner : ∀ u : State, u.Sound [] [] → (owner u).1.Sound [] [])
    (h : s.Sound [] []) : (s.judge owner).1.Sound [] [] := by
  unfold State.judge
  split
  · exact h
  · split
    · exact h.of_eq rfl rfl rfl
    · exact howner _ h

theorem State.Sound.addressedFrame {frame : List Byte} {owner : State → State × Bool}
    (howner : ∀ u : State, u.Sound [] [] → (owner u).1.Sound [] []) (h : s.Sound [] []) :
    (s.addressedFrame frame owner).Sound [] [] := by
  unfold State.addressedFrame
  dsimp only
  split
  · refine State.Sound.onBus ?_
    split
    · exact h.onBus.onBus.judge howner
    · exact h.of_eq rfl rfl rfl
  · exact h

theorem State.Sound.refuseKind (h : s.Sound [] []) : s.refuseKind.1.Sound [] [] := h.of_eq rfl rfl rfl

theorem State.Sound.observedFrame {frame : List Byte} {owner : State → State}
    (howner : ∀ u : State, u.Sound [] [] → (owner u).Sound [] []) (h : s.Sound [] []) : (s.observedFrame frame owner).Sound [] [] := by
  have hreceived : ((s.received frame).enterBus .gap).boundary.Sound [] [] := h.onBus.onBus.onBus
  unfold State.observedFrame
  dsimp only
  split
  · split
    · exact hreceived.judge fun _ => State.Sound.refuseKind
    · split
      · exact hreceived
      · exact howner _ hreceived
  · exact h

theorem State.Sound.takeReady {src : Station} {openSet : LaneSet} (h : s.Sound [] []) : (s.takeReady src openSet).Sound [] [] := by
  unfold State.takeReady
  split
  · exact h.onDelivery
  · exact h.onDelivery.onDelivery

theorem State.Sound.takeServiceEnter {src : Station} (h : s.Sound [] []) : (s.takeServiceEnter src).1.Sound [] [] := by
  unfold State.takeServiceEnter
  split
  · rename_i hc
    obtain ⟨-, hctx, -⟩ := hc
    exact enterService_sound hctx
  · split
    · exact h
    · exact h.of_eq rfl rfl rfl

theorem State.Sound.takeServiceExit {src : Station} (h : s.Sound [] []) : (s.takeServiceExit src).1.Sound [] [] := by
  unfold State.takeServiceExit
  split
  · exact h.of_eq rfl rfl rfl
  · exact h.of_eq rfl rfl rfl

theorem State.Sound.takeStore {src : Station} {address : BitVec 32} {data : List Byte} (h : s.Sound [] []) :
    (s.takeStore src address data).1.Sound [] [] := by
  unfold State.takeStore
  split
  · exact h.of_eq rfl rfl rfl
  · split
    · exact h.of_eq rfl rfl rfl
    · exact h.of_eq rfl rfl rfl

theorem State.Sound.takeQuery {src : Station} (h : s.Sound [] []) : (s.takeQuery src).1.Sound [] [] := h.of_eq rfl rfl rfl

theorem State.Sound.takeAddressed {bytes : List Byte} (h : s.Sound [] []) : (s.takeAddressed bytes).1.Sound [] [] := by
  unfold State.takeAddressed
  split
  · split
    · exact h.takeQuery
    · exact h.takeServiceEnter
    · exact h.takeServiceExit
    · exact h.takeStore
    · exact h.refuseKind
    · exact h.refuseKind
    · exact h.refuseKind
    · exact h.refuseKind
    · exact h.refuseKind
    all_goals exact h
  · exact h

theorem State.Sound.receivedAtSlotEnd {frame : Option (List Byte)} (h : s.Sound [] []) : (s.receivedAtSlotEnd frame).Sound [] [] := by
  unfold State.receivedAtSlotEnd
  split
  · dsimp only
    split
    · exact h.onBus.judge fun _ => State.Sound.takeAddressed
    · exact h.onBus
  · exact h

/-! ### The contests -/

theorem setHeadPhase_slots (p : BusPhase) (x : Context) : (x.setHeadPhase p).slots = x.slots := by
  unfold Context.setHeadPhase Context.slots
  cases hw : x.window with
  | nil => rfl
  | cons e rest => rfl

theorem State.Sound.setHeadPhase {f : Context → Context} {p : BusPhase} (h : s.Sound [] [])
    (hw : ∀ x, (f x).window = (x.setHeadPhase p).window) (hst : ∀ x, (f x).state = x.state) : (s.updCtx i f).Sound [] [] := by
  refine h.keepWindow (fun x _ => ?_) fun x _ hs => ⟨hst x ▸ hs, fun hnil => ?_⟩
  · rw [Context.slots, hw]
    exact setHeadPhase_slots p x
  · rw [hw, Context.setHeadPhase, hnil]

theorem State.Sound.setOfferPhase {p : OfferPhase} (h : s.Sound [] []) : (s.setOfferPhase i p).Sound [] [] :=
  h.keepWindow (fun _ _ => rfl) fun _ _ hs => ⟨hs, id⟩

theorem State.Sound.present {p : OwnItem × WireFrame} (h : s.Sound [] []) : (s.present p).Sound [] [] := by
  refine State.Sound.onBus ?_
  unfold State.markPresented
  split
  · exact h.setOfferPhase
  · exact h.setHeadPhase (fun _ => rfl) fun _ => rfl
  · exact h
  · exact h
  · exact h

theorem State.Sound.formWord (h : s.Sound [] []) : s.formWord.Sound [] [] := by
  unfold State.formWord
  dsimp only
  split
  · exact h.staleTestAll.present
  · exact h.staleTestAll

theorem State.Sound.leaveQueue {item : OwnItem} {frame : WireFrame} (h : s.Sound [] []) : (s.leaveQueue item frame).Sound [] [] := by
  unfold State.leaveQueue
  split
  · exact h.onBus.setOfferPhase
  · exact (h.setHeadPhase (fun _ => rfl) fun _ => rfl).onDelivery
  · exact h.onBus
  · exact h.onBus
  · exact h.onBus

theorem State.Sound.winContest {w : Tenure} (h : s.Sound [] []) : (s.winContest w).Sound [] [] := by
  unfold State.winContest
  exact State.Sound.onBus (State.Sound.onBus (State.Sound.leaveQueue h.onBus))

theorem State.Sound.offerLost (h : s.Sound [] []) : (s.offerLost i).Sound [] [] := by
  unfold State.offerLost
  split
  · split
    · exact h.expireOffer
    · exact h.setOfferPhase
  · exact h

theorem State.Sound.loseContest {w : Tenure} (h : s.Sound [] []) : (s.loseContest w).Sound [] [] := by
  unfold State.loseContest
  dsimp only
  split
  · exact h.onBus.onBus.offerLost
  · exact (State.Sound.setHeadPhase (p := .none) h.onBus.onBus (fun _ => rfl) fun _ => rfl).staleTest
  · exact h.onBus.onBus
  · exact h.onBus.onBus
  · exact h.onBus.onBus

/-! ### The slots of the 7240's own frames -/

theorem State.Sound.endTenure (h : s.Sound [] []) : s.endTenure.Sound [] [] := h.onBus.onBus.onBus

theorem State.Sound.offerAcked (h : s.Sound [] []) : (s.offerAcked i).Sound [] [] := by
  unfold State.offerAcked
  split
  · split
    · exact h.onCue.takeStream
    · exact h
  · exact h

theorem State.Sound.offerNacked (h : s.Sound [] []) : (s.offerNacked i).Sound [] [] := by
  unfold State.offerNacked
  split
  · split
    · exact h.silentFree.onCue
    · exact h
  · exact h

theorem State.Sound.noticeRefused {reading : Reading} (h : s.Sound [] []) : (s.noticeRefused reading).Sound [] [] := by
  cases reading
  · exact h
  · exact h.of_eq rfl rfl rfl

theorem State.Sound.endGone (h : s.Sound [] []) : (s.endGone i).Sound [] [] := by
  unfold State.endGone
  split
  · rename_i x hx
    split
    · rename_i hst
      refine State.Sound.countStreams (h.freeCtx fun y hy => ?_)
      obtain rfl := Option.some.inj (hx.symm.trans hy)
      exact h.spent _ (Sparse.mem_of_get hx) hst
    · exact h
  · exact h

theorem State.Sound.closeFrameLane {frame : WireFrame} (h : s.Sound [] []) : (s.closeFrameLane frame).Sound [] [] := by
  unfold State.closeFrameLane
  split
  · exact h.onDelivery
  · exact h

theorem State.Sound.deliverHead {e : Entry} {rest : List Entry} (h : s.Sound [] []) (hx : s.ctx? i = some x) (hw : x.window = e :: rest) :
    (s.deliverHead i e).Sound [] [] := by
  refine State.Sound.serveNow true (State.Sound.countStreams (State.Sound.releaseEntry (h.updCtx hx ?_ fun hs => ?_)))
  · have hslots : x.slots = e.slot.toList ++ rest.filterMap Entry.slot := by
      rw [Context.slots, hw, List.filterMap_cons]
      cases e.slot <;> rfl
    rw [hslots, Context.slots, hw, List.append_nil]
    exact .refl _
  · have := h.spent _ (Sparse.mem_of_get hx) hs
    rw [hw] at this
    cases this

theorem State.Sound.blockAcked {frame : WireFrame} (h : s.Sound [] []) : (s.blockAcked i frame).Sound [] [] := by
  have hclosed : (s.closeFrameLane frame).Sound [] [] := h.closeFrameLane
  unfold State.blockAcked
  dsimp only
  split
  · exact hclosed
  · rename_i e he
    obtain ⟨x, hx, hhead⟩ := Option.bind_eq_some_iff.mp he
    obtain ⟨rest, hw, -⟩ := sentHead_window hhead
    have hzero : ((s.closeFrameLane frame).updCtx i fun x => { x with nacks := 0 }).Sound [] [] :=
      hclosed.keepWindow (fun _ _ => rfl) fun _ _ hs => ⟨hs, id⟩
    exact State.Sound.deliverHead (x := { x with nacks := 0 }) hzero.onDelivery (updCtx_ctx? hx fun x => { x with nacks := 0 }) hw

theorem State.Sound.blockNacked {frame : WireFrame} (h : s.Sound [] []) : (s.blockNacked i frame).Sound [] [] := by
  have hclosed : (s.closeFrameLane frame).Sound [] [] := h.closeFrameLane
  unfold State.blockNacked
  dsimp only
  split
  · exact hclosed
  · split
    · exact hclosed
    · have hnone : ((s.closeFrameLane frame).updCtx i fun x => { x.setHeadPhase .none with nacks := x.nacks + 1 }).Sound [] [] :=
        State.Sound.setHeadPhase (p := .none) hclosed (fun _ => rfl) fun _ => rfl
      split
      · exact hnone.onDelivery.staleTest
      · exact hnone.onDelivery.enterSpent _

end

end Sys2Proof.Machine


/-! SUPPORT. Every command keeps the agreement of cache, windows and queues; O15. -/

namespace Sys2Proof.Machine

/-- The state a command leaves agrees. -/
def Result.Sound (r : Result) : Prop := ∀ t, r = .next t → t.Sound [] []

section
variable {s : State} {dt : Micros} {heard : Heard} {src : Station}

theorem State.Sound.elapse (h : s.Sound [] []) : (s.elapse dt).Sound [] [] := h.of_eq rfl rfl rfl

theorem State.Sound.finish (h : s.Sound [] []) : s.finish.Sound [] [] := by
  have hstart : s.startInFree.Sound [] [] := by
    unfold State.startInFree
    split
    · exact h.onBus
    · exact h
  exact hstart.onBus.updateFault

theorem command_sound {body : State → State} (h : s.Sound [] [])
    (hb : (s.elapse dt).Sound [] [] → (body (s.elapse dt)).Sound [] []) : (s.command dt body).Sound := fun t ht => by
  rw [command_eq] at ht
  cases ht
  exact (hb h.elapse).finish

theorem broadcast_sound {owner : State → State} {frame : List Byte} (h : s.Sound [] [])
    (howner : ∀ u : State, u.Sound [] [] → (owner u).Sound [] []) : (s.command dt (State.broadcastFrame frame src owner)).Sound :=
  command_sound h (State.Sound.broadcastFrame howner)

theorem addressed_sound {owner : State → State × Bool} {frame : List Byte} (h : s.Sound [] [])
    (howner : ∀ u : State, u.Sound [] [] → (owner u).1.Sound [] []) : (s.command dt (State.addressedFrame frame owner)).Sound :=
  command_sound h (State.Sound.addressedFrame howner)

/-! ### Start-up and the flash -/

theorem execConfigImageRead_sound {image : List Byte} (h : s.Sound [] []) : (execConfigImageRead dt image s).Sound := by
  refine command_sound h fun hs => ?_
  split
  · split
    · exact hs.onStatus.onClock.onDelivery.probeAll
    · exact hs.onStatus
  · exact hs

theorem execConfigReadTimeout_sound (h : s.Sound [] []) : (execConfigReadTimeout dt s).Sound := by
  refine command_sound h fun hs => ?_
  split
  · exact hs.onStatus
  · exact hs

theorem execGeometryReadAnswer_sound {ch : ChannelNo} {pages : Nat} (h : s.Sound [] []) : (execGeometryReadAnswer dt ch pages s).Sound := by
  refine command_sound h fun hs => ?_
  split
  · exact hs
  · split
    · exact hs.attemptTimedOut
    · exact hs.attemptAnswered

theorem execGeometryReadTimeout_sound {ch : ChannelNo} (h : s.Sound [] []) : (execGeometryReadTimeout dt ch s).Sound := by
  refine command_sound h fun hs => ?_
  split
  · exact hs
  · split
    · exact hs.attemptTimedOut
    · exact hs

theorem execDirectoryLoad_sound (h : s.Sound [] []) : (execDirectoryLoad dt s).Sound := by
  refine command_sound h fun hs => ?_
  split
  · exact hs.onDir.updateFault.issueDirectory _
  · exact hs

theorem execDirectoryPageRead_sound {ch : ChannelNo} {out : PageOutcome} (h : s.Sound [] []) : (execDirectoryPageRead dt ch out s).Sound := by
  refine command_sound h fun hs => ?_
  split
  · rename_i hop
    split
    · exact hs.takeAnswer hop
    · exact hs
  · exact hs

theorem execFetchPageRead_sound {ch : ChannelNo} {out : PageOutcome} (h : s.Sound [] []) : (execFetchPageRead dt ch out s).Sound := by
  refine command_sound h fun hs => ?_
  split
  · rename_i hop
    split
    · exact hs.takeAnswer hop
    · exact hs
  · exact hs

theorem execPageTimeout_sound {ch : ChannelNo} (h : s.Sound [] []) : (execPageTimeout dt ch s).Sound := by
  refine command_sound h fun hs => ?_
  split
  · rename_i hop
    split
    · exact hs.timedOut hop
    · exact hs
  · exact hs

theorem execStoreTaken_sound (h : s.Sound [] []) : (execStoreTaken dt s).Sound := by
  refine command_sound h fun hs => ?_
  split
  · split
    · exact hs.takeRequest
    · exact hs
  · exact hs

theorem execProgramBegin_sound (h : s.Sound [] []) : (execProgramBegin dt s).Sound := by
  refine command_sound h fun hs => ?_
  split
  · dsimp only
    split
    · split
      · exact hs.concludeProgram
      · split
        · exact hs.runProgram
        · exact hs
    · exact hs
  · exact hs

theorem execProgramOperationComplete_sound {success : Bool} (h : s.Sound [] []) : (execProgramOperationComplete dt success s).Sound := by
  refine command_sound h fun hs => ?_
  split
  · split
    · exact hs.nextOperation
    · exact hs.endProgram
  · exact hs

theorem execProgramTimeout_sound (h : s.Sound [] []) : (execProgramTimeout dt s).Sound := by
  refine command_sound h fun hs => ?_
  split
  · split
    · exact hs.endProgram
    · exact hs
  · exact hs

/-! ### The clock and the cue unit -/

theorem execMarkEdge_sound (h : s.Sound [] []) : (execMarkEdge dt s).Sound := by
  refine command_sound h fun hs => ?_
  split
  · split
    · exact hs.onClock
    · exact hs.onClock.realMark
  · exact hs

theorem execWatchExpiry_sound (h : s.Sound [] []) : (execWatchExpiry dt s).Sound := by
  refine command_sound h fun hs => ?_
  split
  · split
    · exact hs.watchExpires
    · exact hs
  · exact hs

theorem execOfferObserved_sound {id : StreamId} {reading : Reading} (h : s.Sound [] []) : (execOfferObserved heard id reading s).Sound := by
  refine command_sound h (State.Sound.observedFrame fun u hu => ?_)
  cases reading
  · exact hu.takeOverBy
  · exact hu

theorem execOfferExpiry_sound {i : Nat} (h : s.Sound [] []) : (execOfferExpiry dt i s).Sound := by
  refine command_sound h fun hs => ?_
  split
  · split
    · exact hs.offerExpires
    · exact hs
  · exact hs

theorem execBlockObserved_sound {lane : Byte} {reading : Reading} (h : s.Sound [] []) : (execBlockObserved heard src lane reading s).Sound := by
  refine command_sound h (State.Sound.observedFrame fun u hu => ?_)
  cases reading
  · dsimp only
    split
    · exact hu
    · exact hu.onDelivery.onDelivery
  · exact hu

/-! ### The bus -/

theorem execMalformed_sound {form : Delimiter} (h : s.Sound [] []) : (execMalformed dt form s).Sound := by
  refine command_sound h fun hs => ?_
  split
  · exact hs.onBus.onBus.onBus.onBus
  · exact hs

theorem execCheckFailure_sound {form : Delimiter} (h : s.Sound [] []) : (execCheckFailure dt form s).Sound := by
  refine command_sound h fun hs => ?_
  split
  · exact hs.of_eq rfl rfl rfl
  · exact hs

theorem execBrokenFrame_sound {dominant : Bool} (h : s.Sound [] []) : (execBrokenFrame dt dominant s).Sound := by
  refine command_sound h fun hs => ?_
  split
  · exact hs.of_eq rfl rfl rfl
  · exact hs

theorem execAckSlotEnd_sound {ended : SlotEnd} (h : s.Sound [] []) : (execAckSlotEnd ended s).Sound := by
  refine command_sound h fun hs => ?_
  split
  · exact hs.receivedAtSlotEnd.onBus.onBus
  · exact hs

theorem execContestStart_sound (h : s.Sound [] []) : (execContestStart dt s).Sound := by
  refine command_sound h fun hs => ?_
  have hbusy : (((s.elapse dt).enterBus .busy).boundary).discardFrame.Sound [] [] := hs.onBus.onBus.onBus
  split
  · dsimp only
    split
    · exact hbusy.formWord
    · exact hbusy
  · exact hs

theorem execContestWon_sound (h : s.Sound [] []) : (execContestWon dt s).Sound := by
  refine command_sound h fun hs => ?_
  split
  · split
    · exact hs
    · exact hs.winContest
  · exact hs

theorem execContestLost_sound (h : s.Sound [] []) : (execContestLost dt s).Sound := by
  refine command_sound h fun hs => ?_
  split
  · split
    · exact hs
    · exact hs.loseContest
  · exact hs

theorem execEmptyContest_sound (h : s.Sound [] []) : (execEmptyContest dt s).Sound := by
  refine command_sound h fun hs => ?_
  split
  · exact hs.onBus.onBus
  · exact hs

theorem execOwnOfferAck_sound (h : s.Sound [] []) : (execOwnOfferAck dt s).Sound := by
  refine command_sound h fun hs => ?_
  split
  · exact hs.endTenure.offerAcked
  · exact hs

theorem execOwnOfferNack_sound (h : s.Sound [] []) : (execOwnOfferNack dt s).Sound := by
  refine command_sound h fun hs => ?_
  split
  · exact hs.endTenure.onBus.offerNacked
  · exact hs

theorem execOwnBlockAck_sound (h : s.Sound [] []) : (execOwnBlockAck dt s).Sound := by
  refine command_sound h fun hs => ?_
  split
  · exact hs.endTenure.blockAcked
  · exact hs

theorem execOwnBlockNack_sound (h : s.Sound [] []) : (execOwnBlockNack dt s).Sound := by
  refine command_sound h fun hs => ?_
  split
  · exact hs.endTenure.onBus.blockNacked
  · exact hs

theorem execEndSent_sound {reading : Reading} (h : s.Sound [] []) : (execEndSent dt reading s).Sound := by
  refine command_sound h fun hs => ?_
  split
  · exact hs.endTenure.noticeRefused.endGone
  · exact hs

theorem execStoredSent_sound {reading : Reading} (h : s.Sound [] []) : (execStoredSent dt reading s).Sound := by
  refine command_sound h fun hs => ?_
  split
  · exact hs.endTenure.noticeRefused
  · exact hs

theorem execStateSent_sound {reading : Reading} (h : s.Sound [] []) : (execStateSent dt reading s).Sound := by
  refine command_sound h fun hs => ?_
  split
  · cases reading
    · exact hs.endTenure
    · exact hs.endTenure.onBus
  · exact hs

theorem execGapEnd_sound (h : s.Sound [] []) : (execGapEnd dt s).Sound := by
  refine command_sound h fun hs => ?_
  split
  · split
    · exact hs.onBus
    · exact hs.onBus
  · exact hs

theorem execBusSync_sound {cause : SyncCause} (h : s.Sound [] []) : (execBusSync dt cause s).Sound := by
  refine command_sound h fun hs => ?_
  split
  · cases cause
    · exact hs.onBus.onBus
    · exact hs.onBus
  · exact hs

theorem execBusStuck_sound (h : s.Sound [] []) : (execBusStuck dt s).Sound := by
  refine command_sound h fun hs => ?_
  split
  · split
    · exact hs.onBus.onBus
    · exact hs
  · exact hs
  · exact hs

theorem execLineGoesRecessive_sound (h : s.Sound [] []) : (execLineGoesRecessive dt s).Sound := by
  refine command_sound h fun hs => ?_
  split
  · exact hs.onBus
  · exact hs

/-! ### The CLEAR line -/

theorem execClearAsserted_sound (h : s.Sound [] []) : (execClearAsserted dt s).Sound := by
  refine command_sound h fun hs => ?_
  split
  · exact hs.onBus
  · exact hs
  · exact hs

theorem execClearCounts_sound (h : s.Sound [] []) : (execClearCounts dt s).Sound := by
  refine command_sound h fun hs => ?_
  split
  · split
    · exact hs.clearAll
    · exact hs
  · exact hs
  · exact hs

theorem State.Sound.releaseClear (h : s.Sound [] []) : s.releaseClear.Sound [] [] := by
  unfold State.releaseClear
  dsimp only
  split
  · exact h.onBus
  · exact h.onBus.onClock
  · exact h.onBus.onClock.probeAll
  · exact h.onBus.onClock.probeAll
  · exact h.onBus.onClock.probeAll
  · exact h.onBus.onClock.probeAll

theorem execClearRelease_sound (h : s.Sound [] []) : (execClearRelease dt s).Sound := by
  refine command_sound h fun hs => ?_
  split
  · exact hs.releaseClear
  · exact hs
  · exact hs

theorem execShortClear_sound (h : s.Sound [] []) : (execShortClear dt s).Sound := by
  refine command_sound h fun hs => ?_
  split
  · split
    · exact hs
    · exact hs.onBus.onBus
  · exact hs
  · exact hs

end

/-! ### Every command -/

theorem exec_sound {s : State} (h : s.Sound [] []) (c : Instr) : Result.Sound (exec c s) := by
  cases c with
  | powerOn straps =>
    intro t ht
    cases ht
    exact powerOn_sound straps s.pending
  | configImageRead dt image => exact execConfigImageRead_sound h
  | configReadTimeout dt => exact execConfigReadTimeout_sound h
  | geometryReadAnswer dt ch pages => exact execGeometryReadAnswer_sound h
  | geometryReadTimeout dt ch => exact execGeometryReadTimeout_sound h
  | directoryLoad dt => exact execDirectoryLoad_sound h
  | directoryPageRead dt ch out => exact execDirectoryPageRead_sound h
  | fetchPageRead dt ch out => exact execFetchPageRead_sound h
  | pageTimeout dt ch => exact execPageTimeout_sound h
  | storeTaken dt => exact execStoreTaken_sound h
  | programBegin dt => exact execProgramBegin_sound h
  | programOperationComplete dt success => exact execProgramOperationComplete_sound h
  | programTimeout dt => exact execProgramTimeout_sound h
  | markEdge dt => exact execMarkEdge_sound h
  | watchExpiry dt => exact execWatchExpiry_sound h
  | run heard src value => exact broadcast_sound h fun u hu => hu.transport hu.onClock
  | timing heard src value => exact broadcast_sound h fun u hu => hu.transport hu.takeTiming
  | pause heard src => exact broadcast_sound h fun u hu => hu.transport hu.takePause
  | stopAll heard src => exact broadcast_sound h fun u hu => hu.takeStopAll
  | release heard src fields => exact broadcast_sound h fun u hu => hu.takeRelease
  | ready heard src openSet => exact broadcast_sound h fun u hu => hu.takeReady
  | cue heard src fields => exact broadcast_sound h fun u hu => hu.takeCue
  | offerObserved heard id reading => exact execOfferObserved_sound h
  | blockObserved heard dest lane reading => exact execBlockObserved_sound h
  | queryStatus heard src => exact addressed_sound h fun u hu => hu.takeQuery
  | serviceEnter heard src => exact addressed_sound h fun u hu => hu.takeServiceEnter
  | serviceExit heard src => exact addressed_sound h fun u hu => hu.takeServiceExit
  | store heard src address data => exact addressed_sound h fun u hu => hu.takeStore
  | unexpectedKind heard kind => exact addressed_sound h fun u hu => hu.refuseKind
  | malformed dt form => exact execMalformed_sound h
  | checkFailure dt form => exact execCheckFailure_sound h
  | brokenFrame dt dominant => exact execBrokenFrame_sound h
  | ackSlotEnd ended => exact execAckSlotEnd_sound h
  | contestStart dt => exact execContestStart_sound h
  | contestWon dt => exact execContestWon_sound h
  | contestLost dt => exact execContestLost_sound h
  | emptyContest dt => exact execEmptyContest_sound h
  | ownOfferAck dt => exact execOwnOfferAck_sound h
  | ownOfferNack dt => exact execOwnOfferNack_sound h
  | ownBlockAck dt => exact execOwnBlockAck_sound h
  | ownBlockNack dt => exact execOwnBlockNack_sound h
  | endSent dt reading => exact execEndSent_sound h
  | storedSent dt reading => exact execStoredSent_sound h
  | stateSent dt reading => exact execStateSent_sound h
  | gapEnd dt => exact execGapEnd_sound h
  | busSync dt cause => exact execBusSync_sound h
  | busStuck dt => exact execBusStuck_sound h
  | offerExpiry dt ctx => exact execOfferExpiry_sound h
  | clearAsserted dt => exact execClearAsserted_sound h
  | clearCounts dt => exact execClearCounts_sound h
  | clearRelease dt => exact execClearRelease_sound h
  | shortClear dt => exact execShortClear_sound h
  | lineGoesRecessive dt => exact execLineGoesRecessive_sound h

theorem step_sound {s t : State} (h : s.Sound [] []) (hstep : step s = .next t) : t.Sound [] [] := by
  unfold step at hstep
  split at hstep
  · cases hstep
    exact h.elapse
  · rename_i c rest _
    have hrest : (s.withPending rest).Sound [] [] := h.of_eq rfl rfl rfl
    exact exec_sound hrest c t hstep

/-- Settles O15: references and fetches in transit are followed through every operation. -/
theorem cacheAndQueuesAgree : Obligations.CacheAndQueuesAgree := fun _ _ htable hcache hfetch hstep =>
  have hsound := step_sound (sound_of_laws htable hcache hfetch) hstep
  ⟨hsound.cacheLaw, hsound.fetchLaw⟩

end Sys2Proof.Machine
